-- ==== Sys2Proof/Word.lean ====
section
/-! DEFINITION. The word types of the Bielit FK9 (spec 00_scope.md R6; 04_registers_scalar.md R105). -/

namespace Sys2Proof

/-- A 64-bit general register value, address or count (R105). -/
abbrev Word := BitVec 64
/-- A 2,048-bit vector register value; lane 0 is the least significant (R6, R105). -/
abbrev VWord := BitVec 2048
/-- A 256-bit lane mask (R105). -/
abbrev Mask := BitVec 256
/-- One byte. -/
abbrev Byte := BitVec 8
/-- A 6-bit register field (R50). -/
abbrev Reg := BitVec 6
/-- A sparse table keyed by natural numbers, strictly rising; unlisted keys read as the table's default value. -/
abbrev SMap (α : Type) := List (Nat × α)

end Sys2Proof
end

