-- ==== Sys2Proof/Syntax.lean ====
section
/-! DEFINITION. The instructions and steps of the FK9: one constructor per row of spec/opcode_table.json.
Syllables follow 02_encoding.md R39, R50, R53; micro-ops 08_matrix.md R226; the other constructors are the
indivisible steps of the machine, its engines and the outside world (95_what_each_step_holds.md). -/

namespace Sys2Proof

/-- The header of a syllable less its template and opcode (R39). -/
structure Hdr where
  stop  : Bool
  pp    : Bool
  guard : BitVec 5
  deriving DecidableEq, Repr

/-- A source field with its hold bit: `held` takes the slot's operand latch (R46, R47). -/
structure Src where
  r    : Reg
  held : Bool
  deriving DecidableEq, Repr

/-- Width codes 0 to 6 (R51). -/
inductive Width where
  | w1 | w2 | w4 | w8 | s1 | s2 | s4
  deriving DecidableEq, Repr

/-- The scope and displacement of an SMEM syllable: scope 1 carries its entry in disp[25:21] (R50, R344). -/
inductive ScopeDisp where
  | tile   (disp : BitVec 26)
  | group  (entry : BitVec 5) (disp : BitVec 21)
  | region (disp : BitVec 26)
  | device (disp : BitVec 26)
  | system (disp : BitVec 26)
  deriving DecidableEq, Repr

/-- The scope of an SMEM-A syllable, with `grp` when it is scope 1 (R50, R51). -/
inductive Scope where
  | tile
  | group (entry : BitVec 5)
  | region
  | device
  | system
  deriving DecidableEq, Repr

/-- Order codes (R51). -/
inductive Order where
  | rlx | acq | rel | ar
  deriving DecidableEq, Repr

/-- Rounding codes (R51). -/
inductive Rnd where
  | rne | rtz | rdn | rup
  deriving DecidableEq, Repr

/-- Conditions of CMP and CMPI (R51). -/
inductive Cond where
  | eq | ne | lt | le | gt | ge | ltu | geu
  deriving DecidableEq, Repr

/-- Conditions of VCMP (R51, R172). -/
inductive VCond where
  | eq | ne | lt | le | gt | ge
  deriving DecidableEq, Repr

/-- Conditions of VFCMP (R51, R173). -/
inductive FCond where
  | eq | ne | lt | le | gt | ge | unord
  deriving DecidableEq, Repr

/-- Element types (R136). -/
inductive ElemTy where
  | i8 | i16 | i32 | i64 | u8 | u16 | u32 | u64 | bf16 | fp16 | fp32 | i40
  deriving DecidableEq, Repr

/-- Sub codes of MULH (R122). -/
inductive MulhOp where
  | s | u | su
  deriving DecidableEq, Repr

/-- Sub codes of DIV (R123). -/
inductive DivOp where
  | s | u | rems | remu
  deriving DecidableEq, Repr

/-- Sub codes of PAND (R131). -/
inductive PandOp where
  | and | nb | or | xor
  deriving DecidableEq, Repr

/-- Operations of AMO and RED (R348). -/
inductive AmoOp where
  | swap | add | and | or | xor | min | max | minu | maxu
  deriving DecidableEq, Repr

/-- Operations of VRED and VSCAN (R179). -/
inductive RedOp where
  | add | min | max
  deriving DecidableEq, Repr

/-- Operations of KOP (R174). -/
inductive KopOp where
  | and | or | xor | andn | not
  deriving DecidableEq, Repr

/-- The kind of a BAR (R320). -/
inductive BarKind where
  | plain | open_ | close_
  deriving DecidableEq, Repr

/-- Fence kinds (R353, R360). -/
inductive FenceKind where
  | acq | rel | full
  deriving DecidableEq, Repr

/-- Directions of the fabric links (R51, R316). -/
inductive Dir where
  | north | south | east | west
  deriving DecidableEq, Repr

/-- The queue field of CDRN and CKILL: one queue, or 15 for all (R312, R314). -/
inductive QSel where
  | one (q : BitVec 2)
  | all
  deriving DecidableEq, Repr

/-- The window flags of BOARD: neither, W or N; W with N is reserved (R283). -/
inductive Window where
  | neither | wait | nowait
  deriving DecidableEq, Repr

/-- PADD targets (R226). -/
inductive PaddTgt where
  | a | b | k
  deriving DecidableEq, Repr

/-- The lane mask and z bit of a vector syllable (R164). -/
structure VMask where
  k : BitVec 3
  z : Bool
  deriving DecidableEq, Repr

/-- The eight words of a command (R447). -/
structure Cmd where
  q0 : Word
  q1 : Word
  q2 : Word
  q3 : Word
  q4 : Word
  q5 : Word
  q6 : Word
  q7 : Word
  deriving DecidableEq, Repr

/-- The four words of an invalidation descriptor, least significant first (R373). -/
structure InvDesc where
  w0 : Word
  w1 : Word
  w2 : Word
  w3 : Word
  deriving DecidableEq, Repr

/-- One raft of a lap map (R277): where its image lies in device memory (R272, R334), whether the Yarder pins it in the slices (R271),
and the CRCs and bytes of its weight tiles as its commit left them, which a publishing fills in (R273, R279). -/
structure Raft where
  raft    : BitVec 16
  model   : BitVec 16
  layer   : BitVec 16
  version : BitVec 16
  start   : Nat
  length  : Nat
  lane    : BitVec 2
  access  : BitVec 256
  addr    : Nat
  pinned  : Bool
  crcs    : List (BitVec 32)
  /-- the bytes of its image, by offset -/
  image   : SMap Byte := []
  deriving DecidableEq, Repr

/-- One half of the lap map as the Yarder writes it, less `from` (R276); the list index is the entry's slot. -/
structure LapHalf where
  laplen : Nat
  pace   : Nat
  rafts  : List Raft
  /-- Coppice broadcasts that the Yarder sends as this map begins to govern, beside those of its version changes: a virtual device,
  or a layer of one (R257) -/
  commits : List (BitVec 8 × Option (BitVec 16))
  deriving DecidableEq, Repr

/-- What a peer's access does (17 R473): a read, a write, or an atomic of 13 R351. -/
inductive PeerOp where
  | read
  | write (bytes : List (BitVec 8))
  | amo (op : AmoOp) (x : Word)
  | acas (expected new : Word)
  deriving DecidableEq, Repr

/-- An error that ECC meets (16 R439, R440; 18 R489): a corrected one of a unit; an uncorrectable one in a scratchpad block, an instruction
memory frame, a Coppice entry or other state of a tile, or in a 128-byte sector of LPDDR6 or a dirty one of a slice. -/
inductive Upset where
  | corrected (unit : Nat)
  | block (tile n : Nat)
  | frame (tile page : Nat)
  | entry (tile n : Nat)
  | tileState (tile : Nat)
  | sector (n : Nat)
  deriving DecidableEq, Repr

/-- What an SPDM or TDISP requester sends beside the message's name (R457 to R465). -/
structure SpdmReq where
  session   : Bool
  version   : Nat
  extAsym   : Bool
  signature : Bool
  index     : Nat
  vd        : BitVec 8
  /-- the message as sent -/
  message   : List (BitVec 8)
  deriving DecidableEq, Repr

/-- The instructions, micro-ops and steps of spec/opcode_table.json, by kind. -/
inductive Instr where
  -- steps of a tile (R43, R49, R80, R68, R16)
  | bundleIssue
  | resultLanding
  | watchdog
  | overlayPageIn
  | tileFree
  -- scalar class
  | nop (h : Hdr)
  | add (h : Hdr) (d : Reg) (a b : Src)
  | addi (h : Hdr) (d : Reg) (a : Src) (imm : BitVec 34)
  | sub (h : Hdr) (d : Reg) (a b : Src)
  | mul (h : Hdr) (d : Reg) (a b : Src)
  | mulh (h : Hdr) (op : MulhOp) (d : Reg) (a b : Src)
  | div (h : Hdr) (op : DivOp) (d : Reg) (a b : Src)
  | and (h : Hdr) (d : Reg) (a b : Src)
  | andi (h : Hdr) (d : Reg) (a : Src) (imm : BitVec 34)
  | or (h : Hdr) (d : Reg) (a b : Src)
  | ori (h : Hdr) (d : Reg) (a : Src) (imm : BitVec 34)
  | xor (h : Hdr) (d : Reg) (a b : Src)
  | xori (h : Hdr) (d : Reg) (a : Src) (imm : BitVec 34)
  | shl (h : Hdr) (d : Reg) (a b : Src)
  | shr (h : Hdr) (arith : Bool) (d : Reg) (a b : Src)
  | shli (h : Hdr) (d : Reg) (a : Src) (n : BitVec 6)
  | shri (h : Hdr) (arith : Bool) (d : Reg) (a : Src) (n : BitVec 6)
  | min (h : Hdr) (unsigned : Bool) (d : Reg) (a b : Src)
  | max (h : Hdr) (unsigned : Bool) (d : Reg) (a b : Src)
  | clz (h : Hdr) (d : Reg) (a : Src)
  | popc (h : Hdr) (d : Reg) (a : Src)
  | ext (h : Hdr) (signed : Bool) (d : Reg) (a : Src) (pos len1 : BitVec 6)
  | ins (h : Hdr) (d : Reg) (a : Src) (pos len1 : BitVec 6)
  | movi (h : Hdr) (d : Reg) (imm : BitVec 34)
  | movh (h : Hdr) (d : Reg) (a : Src) (imm : BitVec 32)
  | sel (h : Hdr) (d : Reg) (pn : BitVec 5) (a b : Src)
  | cmp (h : Hdr) (c : Cond) (pd pe : BitVec 5) (a b : Src)
  | cmpi (h : Hdr) (c : Cond) (pt pc : BitVec 5) (a : Src) (imm : BitVec 26)
  | pand (h : Hdr) (op : PandOp) (pd pe pa pb : BitVec 5)
  | pset (h : Hdr) (value : Bool) (pd pe : BitVec 5)
  | lds (h : Hdr) (w : Width) (d : Reg) (base : Src) (disp : BitVec 26)
  | sts (h : Hdr) (w : Width) (s : Reg) (base : Src) (disp : BitVec 26)
  | ldp (h : Hdr) (w : Width) (d : Reg) (disp : BitVec 14)
  | stp (h : Hdr) (w : Width) (s : Reg) (disp : BitVec 14)
  | ldg (h : Hdr) (w : Width) (o : Order) (d : Reg) (base : Src) (sd : ScopeDisp)
  | ldgComplete
  | stg (h : Hdr) (w : Width) (o : Order) (s : Reg) (base : Src) (sd : ScopeDisp)
  | storeQueuePerform (n : Nat)
  | amo (h : Hdr) (op : AmoOp) (w : Width) (o : Order) (sc : Scope) (d : Reg) (base : Src) (b : Reg)
  | acas (h : Hdr) (w : Width) (o : Order) (sc : Scope) (d : Reg) (base : Src) (b : Reg)
  | red (h : Hdr) (op : AmoOp) (w : Width) (o : Order) (sc : Scope) (base : Src) (b : Reg)
  | fence (h : Hdr) (k : FenceKind) (sc : Scope)
  | br (h : Hdr) (disp : BitVec 32)
  | brt (h : Hdr) (t0 t1 t2 t3 : BitVec 5) (stride1 : BitVec 3) (disp : BitVec 20)
  | bri (h : Hdr) (a : Src)
  | call (h : Hdr) (disp : BitVec 32)
  | ret (h : Hdr)
  | loop (h : Hdr) (level : BitVec 3) (count : Reg) (rotate : Bool) (len1 : BitVec 6)
  | lbrk (h : Hdr) (level : BitVec 3)
  | endTask (h : Hdr)
  | waits (h : Hdr) (a b : Src)
  | monitor (h : Hdr) (a : Src)
  | monitorPollWake
  | waitm (h : Hdr) (w : Width) (t : Reg) (a b : Src)
  | waitmTimeout
  | mbx (h : Hdr) (d : Reg) (a : Src) (idx : BitVec 6)
  | mbxw (h : Hdr) (a : Src) (idx : BitVec 4)
  | next (h : Hdr) (d : Reg) (pe : BitVec 5)
  | align (h : Hdr) (peer : Bool)
  | bar (h : Hdr) (k : BarKind) (e : BitVec 5)
  | barrierRelease (e : BitVec 5)
  | rdsr (h : Hdr) (d : Reg) (idx : BitVec 8)
  | wrsr (h : Hdr) (a : Src) (idx : BitVec 8)
  | trap (h : Hdr) (code : BitVec 16)
  | yield (h : Hdr)
  | jraise (h : Hdr) (a : Src)
  | jdone (h : Hdr)
  -- vector class
  | vadd (h : Hdr) (ty : ElemTy) (sat : Bool) (m : VMask) (d : Reg) (a b : Src)
  | vsub (h : Hdr) (ty : ElemTy) (sat : Bool) (m : VMask) (d : Reg) (a b : Src)
  | vmul (h : Hdr) (ty : ElemTy) (sat : Bool) (m : VMask) (d : Reg) (a b : Src)
  | vmulh (h : Hdr) (ty : ElemTy) (m : VMask) (d : Reg) (a b : Src)
  | vmin (h : Hdr) (ty : ElemTy) (m : VMask) (d : Reg) (a b : Src)
  | vmax (h : Hdr) (ty : ElemTy) (m : VMask) (d : Reg) (a b : Src)
  | vand (h : Hdr) (ty : ElemTy) (m : VMask) (d : Reg) (a b : Src)
  | vor (h : Hdr) (ty : ElemTy) (m : VMask) (d : Reg) (a b : Src)
  | vxor (h : Hdr) (ty : ElemTy) (m : VMask) (d : Reg) (a b : Src)
  | vshl (h : Hdr) (ty : ElemTy) (sat : Bool) (m : VMask) (d : Reg) (a b : Src)
  | vshr (h : Hdr) (ty : ElemTy) (m : VMask) (d : Reg) (a b : Src)
  | vabs (h : Hdr) (ty : ElemTy) (sat : Bool) (m : VMask) (d : Reg) (a : Src)
  | vcmp (h : Hdr) (c : VCond) (ty : ElemTy) (k : BitVec 3) (kd : BitVec 3) (a b : Src)
  | vsel (h : Hdr) (ty : ElemTy) (k : BitVec 3) (d : Reg) (a b : Src)
  | vmov (h : Hdr) (ty : ElemTy) (m : VMask) (d : Reg) (a : Src)
  | vbcast (h : Hdr) (ty : ElemTy) (m : VMask) (d : Reg) (a : Src)
  | vext (h : Hdr) (ty : ElemTy) (d : Reg) (a b : Src)
  | vins (h : Hdr) (ty : ElemTy) (d : Reg) (a b : Src)
  | vperm (h : Hdr) (ty : ElemTy) (two : Bool) (m : VMask) (d : Reg) (a b c : Src)
  | vred (h : Hdr) (op : RedOp) (ty : ElemTy) (rnd : Rnd) (k : BitVec 3) (d : Reg) (a : Src)
  | vscan (h : Hdr) (op : RedOp) (ty : ElemTy) (rnd : Rnd) (k : BitVec 3) (d : Reg) (a : Src)
  | vfadd (h : Hdr) (ty : ElemTy) (rnd : Rnd) (m : VMask) (d : Reg) (a b : Src)
  | vfsub (h : Hdr) (ty : ElemTy) (rnd : Rnd) (m : VMask) (d : Reg) (a b : Src)
  | vfmul (h : Hdr) (ty : ElemTy) (rnd : Rnd) (m : VMask) (d : Reg) (a b : Src)
  | vfma (h : Hdr) (ty : ElemTy) (rnd : Rnd) (m : VMask) (d : Reg) (a b c : Src)
  | vfmin (h : Hdr) (ty : ElemTy) (m : VMask) (d : Reg) (a b : Src)
  | vfmax (h : Hdr) (ty : ElemTy) (m : VMask) (d : Reg) (a b : Src)
  | vfcmpK (h : Hdr) (c : FCond) (ty : ElemTy) (k : BitVec 3) (kd : BitVec 3) (a b : Src)
  | vfcmpP (h : Hdr) (c : FCond) (ty : ElemTy) (k : BitVec 3) (pd pe : BitVec 5) (a b : Src)
  | vfdiv (h : Hdr) (ty : ElemTy) (rnd : Rnd) (m : VMask) (d : Reg) (a b : Src)
  | vcvt (h : Hdr) (dst src : ElemTy) (rnd : Rnd) (sat : Bool) (m : VMask) (d : Reg) (a : Src)
  | qnt (h : Hdr) (ty : ElemTy) (rnd : Rnd) (m : VMask) (d : Reg) (a b : Src)
  | scacc (h : Hdr) (ty : ElemTy) (rnd : Rnd) (k : BitVec 3) (adjust : BitVec 5) (d : Reg) (a b c : Src)
  | bsc (h : Hdr) (ty : ElemTy) (planes1 : BitVec 3) (k : BitVec 3) (d : Reg) (a : Src)
  | pln (h : Hdr) (ty : ElemTy) (planes1 : BitVec 3) (d : Reg) (a : Src)
  | upl (h : Hdr) (ty : ElemTy) (planes1 : BitVec 3) (unsigned : Bool) (d : Reg) (a : Src)
  | tld (h : Hdr) (t : BitVec 2) (base : Reg) (disp : BitVec 22)
  | tli (h : Hdr) (ty : ElemTy) (rnd : Rnd) (sat : Bool) (m : VMask) (t : BitVec 2) (d : Reg) (a : Src)
  | vld (h : Hdr) (ty : ElemTy) (k : BitVec 3) (d : Reg) (base : Reg) (disp : BitVec 22)
  | vst (h : Hdr) (ty : ElemTy) (k : BitVec 3) (s : Reg) (base : Reg) (disp : BitVec 22)
  | vlds (h : Hdr) (ty : ElemTy) (k : BitVec 3) (d : Reg) (base stride : Reg) (disp : BitVec 22)
  | vsts (h : Hdr) (ty : ElemTy) (k : BitVec 3) (s : Reg) (base stride : Reg) (disp : BitVec 22)
  | vgath (h : Hdr) (ty : ElemTy) (k : BitVec 3) (d : Reg) (base index : Reg) (disp : BitVec 22)
  | vscat (h : Hdr) (ty : ElemTy) (k : BitVec 3) (s : Reg) (base index : Reg) (disp : BitVec 22)
  | vldp (h : Hdr) (d : Reg) (page : BitVec 6)
  | vstp (h : Hdr) (s : Reg) (page : BitVec 6)
  | kop (h : Hdr) (op : KopOp) (kd ka kb : BitVec 3)
  | vmadd (h : Hdr) (ty : ElemTy) (sat : Bool) (m : VMask) (d : Reg) (a b c : Src)
  | vpopc (h : Hdr) (ty : ElemTy) (m : VMask) (d : Reg) (a : Src)
  | vclz (h : Hdr) (ty : ElemTy) (m : VMask) (d : Reg) (a : Src)
  | vpack (h : Hdr) (ty : ElemTy) (sat : Bool) (m : VMask) (d : Reg) (a b : Src)
  | vunpk (h : Hdr) (ty : ElemTy) (hi : Bool) (m : VMask) (d : Reg) (a : Src)
  | vfrnd (h : Hdr) (ty : ElemTy) (rnd : Rnd) (m : VMask) (d : Reg) (a : Src)
  -- matrix class
  | mcall (h : Hdr) (routine tag : BitVec 8) (pa1 pb1 : BitVec 3)
  | mcalld (h : Hdr) (routine tag : BitVec 8) (pa1 pb1 : BitVec 3)
  | mldr (h : Hdr) (a b : Src)
  | mset (h : Hdr) (mp : BitVec 3) (a : Src)
  | mget (h : Hdr) (d : Reg) (mp : BitVec 3)
  | mzr (h : Hdr)
  | mrd (h : Hdr) (d : Reg) (a : Src)
  | mwr (h : Hdr) (a b : Src)
  | mstat (h : Hdr) (d : Reg)
  | mdrn (h : Hdr)
  | cpbind (h : Hdr) (a b : Src)
  | cpinvLayer (h : Hdr) (a : Src)
  | cpinvAll (h : Hdr)
  | cpsav (h : Hdr) (a b : Src)
  | cprst (h : Hdr) (a b : Src)
  | cpqry (h : Hdr) (d : Reg) (a : Src)
  -- copy class
  | cpy (h : Hdr) (card : Reg) (q : BitVec 2)
  | cpys (h : Hdr) (card aux : Reg) (q : BitVec 2)
  | board (h : Hdr) (win : Window) (repair : Bool) (card : Reg)
  | lapw (h : Hdr) (aux : Reg)
  | xmit (h : Hdr) (d : Dir) (vs : Reg)
  | xsel (h : Hdr) (d : Dir) (vd : Reg)
  | xmitArrival
  | swinit (h : Hdr) (card aux : Reg)
  | swadd (h : Hdr) (card aux : Reg)
  | swrd (h : Hdr) (card aux : Reg)
  | pref (h : Hdr) (card aux : Reg)
  | slch (h : Hdr) (card aux : Reg)
  | cdrn (h : Hdr) (q : QSel)
  | cstat (h : Hdr) (d : Reg) (q : BitVec 2)
  | ckill (h : Hdr) (q : QSel)
  -- engine steps
  | killedJobRelease (q : BitVec 2) (n : Nat)
  | copyJobStart (q : BitVec 2)
  | copyJobComplete (q : BitVec 2) (n : Nat)
  | copyJobRunFault (q : BitVec 2) (n : Nat)
  | s2tPacketHop (n : Nat)
  | matrixJobStart
  | panelLoadArrival
  | mldrJob
  | cpbindJob
  | cpinvJob
  | cpsavJob
  | cprstJob
  | coppiceBroadcastApply
  -- micro-ops
  | uopEnd
  | uInit
  | lda (b : BitVec 1)
  | ldb (b : BitVec 1)
  | pat (b : BitVec 1)
  | step (a b : BitVec 1) (p : BitVec 3)
  | stepAll (a b : BitVec 1)
  | shacc
  | padd (t : PaddTgt)
  | paddImm (t : PaddTgt) (i : BitVec 24)
  | rpt (c : BitVec 1) (s : BitVec 4) (l : BitVec 6)
  | zgt (t : BitVec 12)
  | yld
  -- the Flume
  | laneStep
  | boardArm (n : Nat)
  | boardComplete (n : Nat)
  | lapMapPublish (from_ : Nat) (m : LapHalf)
  -- translation and storage
  | pageWalk (cluster : Nat) (vd : BitVec 8) (va : Word) (write : Bool)
  | flashPageIn (vd : BitVec 8) (va : Word)
  | coldPageOut (vd : BitVec 8) (ctx : Nat) (va : Word)
  | skidderTransferEnd (vd : BitVec 8) (n : Nat)
  | snapshot (vd : BitVec 8)
  | invalidationComplete (vd : BitVec 8)
  | eventRecordPost (vd : BitVec 8) (q : BitVec 2)
  -- scheduling and pre-emption
  | haltRequest (slot : Nat)
  | tileHalt
  | gangStopped (slot : Nat) (allowance : Option Int)
  | contextSave (slot : Nat)
  | gangDiscard (slot : Nat)
  | yarderBind (slot : Nat) (vd : BitVec 8) (stream : BitVec 16) (col0 row0 : BitVec 3)
  | gangStart (slot : Nat)
  | gangResume (slot : Nat)
  | sliceEnd (slot : Nat)
  | priorityAgeing (vd : BitVec 8) (stream : BitVec 16)
  -- host commands
  | publish (vd : BitVec 8) (c : Cmd)
  | retire (vd : BitVec 8) (c : Cmd)
  | openStream (vd : BitVec 8) (c : Cmd)
  | closeStream (vd : BitVec 8) (c : Cmd)
  | submit (vd : BitVec 8) (c : Cmd)
  | mboxw (vd : BitVec 8) (c : Cmd)
  | jpost (vd : BitVec 8) (c : Cmd)
  | replyResume (vd : BitVec 8) (c : Cmd)
  | replyRestart (vd : BitVec 8) (c : Cmd)
  | replyEnd (vd : BitVec 8) (c : Cmd)
  | mappage (vd : BitVec 8) (c : Cmd)
  | reload (vd : BitVec 8) (c : Cmd)
  | sessionDefine (vd : BitVec 8) (c : Cmd)
  | sessionRemove (vd : BitVec 8) (c : Cmd)
  | snapread (vd : BitVec 8) (c : Cmd)
  | snaprel (vd : BitVec 8) (c : Cmd)
  | quota (vd : BitVec 8) (c : Cmd)
  | enroll (vd : BitVec 8) (c : Cmd)
  | pool (vd : BitVec 8) (c : Cmd)
  | slots (vd : BitVec 8) (c : Cmd)
  | dump (vd : BitVec 8) (c : Cmd)
  | pair (vd : BitVec 8) (c : Cmd)
  | accessOpen (vd : BitVec 8) (c : Cmd)
  | accessClose (vd : BitVec 8) (c : Cmd)
  | unknownOp (vd : BitVec 8) (c : Cmd)
  -- interface, window, TDISP and SPDM
  | invalidateAll (vd : BitVec 8) (i : InvDesc)
  | invalidateRange (vd : BitVec 8) (i : InvDesc)
  | counterFlush (vd : BitVec 8) (i : InvDesc)
  | interfaceRegisterWrite (vd : BitVec 8) (off : Nat) (v : Word)
  | lockedBarConfigWrite (vd : BitVec 8)
  | ideIntegrityFailure (vd : BitVec 8)
  | vfEnable (n : Nat)
  | functionLevelReset (vd : BitVec 8)
  | windowRead (vd : BitVec 8) (off : Nat) (n : Nat)
  | windowWrite (vd : BitVec 8) (off : Nat) (bytes : List (BitVec 8))
  | getTdispVersion (r : SpdmReq)
  | getTdispCapabilities (r : SpdmReq)
  | lockInterfaceRequest (r : SpdmReq)
  | getDeviceInterfaceReport (r : SpdmReq)
  | getDeviceInterfaceState (r : SpdmReq)
  | startInterfaceRequest (r : SpdmReq)
  | stopInterfaceRequest (r : SpdmReq)
  | ideKm (r : SpdmReq) (keys : List (BitVec 8))
  | getVersion (r : SpdmReq)
  | getCapabilities (r : SpdmReq)
  | negotiateAlgorithms (r : SpdmReq)
  | challenge (r : SpdmReq)
  | keyExchange (r : SpdmReq)
  | getMeasurements (r : SpdmReq)
  -- peers, power, module
  | peerAccess (link : BitVec 2) (remote : BitVec 8) (va : Word) (n : Nat) (a : PeerOp)
  | chinookLinkTraining (link : BitVec 2) (peerTime : Word)
  | chinookLinkDown (link : BitVec 2)
  | calmEntry
  | doldrumsEntry
  | wakeEvent
  | throttleEngage
  | throttleRelease
  | clockStop
  | clockRestart
  | moduleStart
  | rlen (v : Word)
  | rdata (v : Word)
  | rgo (v : Word)
  | recoveryVerifyDone
  | fatalError
  | healthRecord (unit : Nat)
  | pcieCompletionTimeout
  deriving DecidableEq, Repr

end Sys2Proof
end

