-- ==== Sys2Proof/Config.lean ====
section
/-! DEFINITION. What the spec leaves open, as opaque constants: free values (00_scope.md R3), the standards it only
names, and the outside world's inputs. No constant here has a value that a proof can see. -/

namespace Sys2Proof.Config

/-- What a read of host memory returns whose PCIe completion never comes (00 R3; 13 R345), by the counter of free values.
FREE VALUE, log entry 3. -/
opaque lostRead : Nat → BitVec 64

/-- Any other undefined value, by the counter of free values (00 R3). FREE VALUE, log entry 3. -/
opaque undefByte : Nat → Nat → BitVec 8

/-- FLTADDR, and the fields of a fault record, where no rule states them (an engine's fault, a refused bind; 16 R413, R417),
by the counter of free values. FREE VALUE, log entry 3. -/
opaque openAddr : Nat → BitVec 64

/-- FK9 cycles of a DIV for its operands (04 R124); read through `Machine.divCycles`, which keeps 6 to 24. Log entry 5. -/
opaque divCycles : BitVec 64 → BitVec 64 → Nat

/-- Further pieces that a copy job moves before the next turn may fall between, beyond the first (11 R301, R304): the engine's pace, by
the counter of free values. Log entry 8. -/
opaque copyBurst : Nat → Nat

/-- Where the Yarder keeps its scope group tables in the lowest 1 GiB, in units of 2 KiB (12 R318, 18 R477); read through
`Machine.scopePlace`. Log entry 32. -/
opaque scopeBase : Nat

/-- Lane steps from the feeding slices to a tile (10 R268); read through `Machine.reach`, which keeps 1 to 600. Log entry 5. -/
opaque reachDelay : Nat → Nat

/-- Whether an error changes a flit on its way, by the lane step, the tile it reaches and its lane (10 R273, R289); and its bytes
then, or where they come from a marked sector (16 R440). Log entry 72. -/
opaque flitWrong : Nat → Nat → BitVec 2 → Bool
opaque flitByte : Nat → Nat → BitVec 2 → Nat → BitVec 8

/-- SHAKE256 with 256 bits of output (03 R64). Uninterpreted, log entry 4. -/
opaque shake256 : List (BitVec 8) → BitVec 256

/-- KMAC256 under the module's save key with the customisation string FK9-SAVE (16 R427). Uninterpreted, log entry 4. -/
opaque kmacSave : List (BitVec 8) → BitVec 256

/-- SLH-DSA-SHAKE-256s verification: key, message, signature (17 R451, R455). Uninterpreted, log entry 4. -/
opaque slhVerify : List (BitVec 8) → List (BitVec 8) → List (BitVec 8) → Bool

/-- A signature by the device's identity key (17 R464). Uninterpreted, log entry 4. -/
opaque slhSign : List (BitVec 8) → List (BitVec 8)

/-- Whether Aqzoak's ROM accepts a configuration blob (18 R486). Uninterpreted, log entry 4. -/
opaque blobVerify : List (BitVec 8) → Bool

/-- Whether a firmware image verifies against a key hash of the blob (18 R487, R488). Uninterpreted, log entry 4. -/
opaque firmwareVerify : List (BitVec 8) → List (BitVec 8) → Bool

/-- The Calm and Doldrums intervals that a configuration blob sets, in TIME ticks; none where it leaves the default (18 R479, R486).
Log entry 5. -/
opaque calmInterval : List (BitVec 8) → Option (BitVec 64)
opaque doldrumsInterval : List (BitVec 8) → Option (BitVec 64)

/-- The ROM version of measurement block 3 (17 R465). Log entry 4. -/
opaque romVersion : List (BitVec 8)

/-- SHA3 with 384 bits of output (17 R458). Uninterpreted, log entry 4. -/
opaque sha3 : List (BitVec 8) → BitVec 384

/-- The X.509 chain of slot 0, whose leaf carries the identity public key, from the configuration blob (17 R458, R464). Log entry 4. -/
opaque certChain : List (BitVec 8) → List (BitVec 8)

/-- The bytes of a response as SPDM 1.2 lays them out, its signature left out, from the request and the content (17 R458). Log entry 4. -/
opaque spdmResponse : List (BitVec 8) → List (BitVec 8) → List (BitVec 8)

/-- Translation by a peer module of an address of one of its devices: bytes it serves, or a refusal (17 R473). Log entry 11. -/
opaque peerAllows : Nat → BitVec 2 → BitVec 8 → Nat → Bool → Bool

/-- Whether the matrix port takes a bank of a tile in a cycle in which a matrix job runs there, by the counter of input draws (7 R197). Log entry
94. -/
opaque matrixBank : Nat → Nat → Nat → Bool

/-- Whether the junction temperature stands at or above 105 °C in a cycle, by the counter of input draws (18 R482, R484). Log entry 42. -/
opaque tooHot : Nat → Bool

/-- The errors that ECC meets at a boundary, by the counter of input draws (16 R439, R440; 18 R489). Log entry 23. -/
opaque upsets : Nat → List Upset

/-- The clusters that VD 0 has out of service, by the counter of input draws (15 R385; 16 R437). Log entry 53. -/
opaque outOfService : Nat → List Nat

/-- What the outside world and the engines' own time bring before each cycle, as tile and step (log entries 2 and 8). -/
opaque inputs : Nat → List (Nat × Instr)

end Sys2Proof.Config
end

