-- ==== Sys2Proof/Machine/State.lean ====
section
/-! DEFINITION. The state of the module as plain data, the reasons a step may stop, and the state right after reset.
Each field's docstring names the rule of spec/ that gives the machine that state. -/

namespace Sys2Proof.Machine

/-! ## A tile: registers -/

/-- What a result in flight writes when it lands, to physical registers chosen at issue (R87). -/
inductive Result where
  /-- a general register -/
  | g (r : Reg) (v : Word)
  /-- a predicate pair: `d` takes `c`, `e` its complement (R111) -/
  | pair (d e : BitVec 5) (c : Bool)
  /-- the bits of `mask` of a vector register -/
  | v (r : Reg) (mask val : VWord)
  /-- the bits of `mask` of a lane mask -/
  | k (r : BitVec 3) (mask val : Mask)
  /-- a general register and one predicate together (R410) -/
  | gp (r : Reg) (v : Word) (p : BitVec 5) (c : Bool)
  deriving DecidableEq, Repr

/-- A result in flight (R49): counted cycles to its declared landing, cycles the FK9 still needs, the slot rank of
R44, and its float flags (R145). -/
structure Pending where
  res    : Result
  due    : Nat
  ready  : Nat
  slot   : Nat
  flags  : BitVec 5
  deriving DecidableEq, Repr

/-- The register files, operand latches and float control of a tile. -/
structure Regs where
  /-- g0–g63 (R105) -/
  g        : Vector Word 64 := Vector.replicate 64 0
  /-- physical vector registers (R105, R109) -/
  v        : Vector VWord 64 := Vector.replicate 64 0
  /-- physical predicates, bit n (R105, R109) -/
  p        : BitVec 32 := 0
  /-- lane masks (R105) -/
  k        : Vector Mask 8 := Vector.replicate 8 0
  /-- matrix parameter registers (R105, R217) -/
  mp       : Vector Word 8 := Vector.replicate 8 0
  /-- S latches (R46) -/
  sa       : Word := 0
  sb       : Word := 0
  /-- V latches (R46) -/
  va       : VWord := 0
  vb       : VWord := 0
  vc       : VWord := 0
  /-- M latches (R46) -/
  ma       : VWord := 0
  mb       : VWord := 0
  /-- RBASE vb and pb (R110) -/
  rbVb     : BitVec 5 := 0
  rbPb     : BitVec 4 := 0
  /-- FPCTL ftz (R142) -/
  ftz      : Bool := false
  /-- FPFLAGS: nv dz of uf nx from bit 4 to bit 0 (R145) -/
  fpflags  : BitVec 5 := 0
  /-- results in flight, in issue order (R49) -/
  inflight : List Pending := []
  deriving DecidableEq, Repr

/-! ## A tile: control -/

/-- One hardware loop level (R83, R429). -/
structure LoopLevel where
  active  : Bool := false
  first   : Nat := 0
  len     : Nat := 0
  count   : Nat := 0
  rotate  : Bool := false
  isFirst : Bool := false
  deriving DecidableEq, Repr

/-- A tagged overlay frame: the image digest, the page and its 512 syllable words (R64). -/
structure Frame where
  digest : BitVec 256
  page   : Nat
  words  : SMap Word
  deriving DecidableEq, Repr

/-- A fault as a tile takes it: code (R412), FLTADDR, and the fields of its record (R417, R418). -/
structure TFault where
  code   : BitVec 8
  addr   : Word
  cause  : Nat := 0
  engine : Nat := 0
  tag    : Nat := 0
  detail : BitVec 256 := 0
  deriving DecidableEq, Repr

/-- What a tile is doing (R384, R388, R419, R430). -/
inductive RunState where
  /-- held by no bind -/
  | free
  /-- fetching and issuing -/
  | running
  /-- END executed, engines still draining (R16, R92) -/
  | ended
  /-- halted at a bundle boundary (R77, R419) -/
  | stopped
  deriving DecidableEq, Repr

/-- The global access a tile is held on (R345, R348). -/
inductive GKind where
  | ldg | amo (op : AmoOp) | acas (expected : Word)
  deriving DecidableEq, Repr

/-- A translation cache entry (R371). -/
structure TlbEnt where
  vd      : BitVec 8
  base    : Nat
  size    : Nat
  addr    : Nat
  res     : BitVec 2
  r       : Bool
  w       : Bool
  wb      : Bool
  /-- the leaf it was filled from, for a fault's record (R383) -/
  leaf    : Word
  /-- fill count of a counted page, its leaf's physical address and the local delta (R376) -/
  counted : Option (Nat × Nat)
  delta   : Nat := 0
  deriving DecidableEq, Repr

/-- What holds a write at a cluster's port: the page, base and size, and whether it waits for a snapshot pool page (R467), not for an
invalidation (R379). -/
structure Hold where
  base  : Nat
  size  : Nat
  snap  : Bool
  /-- SNAPHOLD has counted the write (R467) -/
  noted : Bool := false
  /-- what it waited for has come: the write translates again (R379) -/
  again : Bool := false
  deriving DecidableEq, Repr

/-- A global access in flight, with its operands as read at issue. -/
structure GAccess where
  kind  : GKind
  va    : Word
  width : Width
  order : Order
  scope : Scope
  data  : Word
  dest  : Reg
  /-- the translation an AMO or ACAS found when its bundle issued (R371, R379) -/
  ent   : Option TlbEnt := none
  /-- the counter notification to be posted once the access is performed (R377) -/
  note  : Option (BitVec 256) := none
  /-- a result of a higher slot class lands in its destination in the same counted cycle (R44) -/
  lost  : Bool := false
  deriving DecidableEq, Repr

/-- The body of a LOOP whose guard was false, in the body of an active level: that level, the body's first address and the address after it
(R84). -/
structure PlainBody where
  level : Fin 6
  first : Nat
  next  : Nat
  deriving DecidableEq, Repr

/-- The program counter and what decides the next bundle. -/
structure Ctl where
  /-- address of the bundle to issue next; a wild target keeps all its bits (R41, R69) -/
  pc       : Word := 0
  /-- loop levels 0 to 5 (R83) -/
  loops    : Vector LoopLevel 6 := Vector.replicate 6 {}
  /-- return stack, top first, at most 8 (R94) -/
  rstack   : List Word := []
  /-- loop buffer: body addresses and their words (R82) -/
  loopBuf  : SMap Word := []
  /-- the bodies around pc that run once as ordinary code, fetched from instruction memory, not from the buffer (R84) -/
  plain    : List PlainBody := []
  /-- counted cycles of a loop fill still to come (R84) -/
  fillLeft : Nat := 0
  /-- the LOOP bundle at pc has had its fill (R84) -/
  filled   : Bool := false
  /-- the empty cycle after a taken transfer (R74) -/
  bubble   : Bool := false
  /-- bank-conflict cycles still to hold the bundle at pc, once counted (R26, R196) -/
  bankLeft : Option Nat := none
  /-- point watchdog (R80) -/
  wdog     : Nat := 0
  /-- overlay frames with a tag, most recently fetched first (R64, R68) -/
  frames   : List Frame := []
  run      : RunState := .free
  /-- a halt request has reached the tile (R423) -/
  haltReq  : Bool := false
  /-- this tile raised the fault or trap of the halt (R430) -/
  faulted  : Bool := false
  /-- a TRAP waits for its post: its code and the address of its bundle (R100) -/
  trapped  : Option (BitVec 16 × Word) := none
  /-- FLTCODE and FLTADDR (R413) -/
  fltcode  : BitVec 8 := 0
  fltaddr  : Word := 0
  /-- deferred faults for the next boundary (R412, R415) -/
  deferred : List TFault := []
  /-- the access the tile is held on (R345) -/
  gacc     : Option GAccess := none
  /-- TIME at which the WAITM at pc reached issue (R364) -/
  waitT0   : Option Word := none
  /-- the one read of that WAITM has been made (R364) -/
  waitRead : Bool := false
  /-- TIME at which that WAITM times out, and whether what it waits for has come (R364) -/
  waitDue  : Option Nat := none
  waitOut  : Bool := false
  /-- what holds the write of the bundle at pc, which has not issued: an AMO, an ACAS or a commit (R379, R381, R467) -/
  portHeld : Option Hold := none
  /-- CYCLE of the tile's END, as its arrival at later barriers (R321) -/
  endedAt  : Word := 0
  /-- a barrier of the bundle at pc has been released (R321) -/
  barOpen  : Bool := false
  deriving DecidableEq, Repr

/-! ## A tile: memories -/

/-- The memories of a tile. Unlisted bytes, marks, slots and elements are zero (R37, R224, R290). -/
structure TMem where
  /-- scratchpad program area (R190, R191) -/
  spad   : SMap Byte := []
  /-- Coppice partition (R243) -/
  cpart  : SMap Byte := []
  /-- poisoned 64-byte blocks (R290) -/
  poison : SMap Bool := []
  /-- spill memory (R114) -/
  spill  : SMap Byte := []
  /-- table store entries (R186) -/
  tstore : SMap Word := []
  /-- table headers 0 to 3 (R186, R187) -/
  thdr   : Vector (BitVec 128) 4 := Vector.replicate 4 0
  /-- routine store slots (R224) -/
  rstore : SMap (BitVec 32) := []
  /-- entry table: [12] valid, [11:0] start slot (R224, R429) -/
  rentry : SMap (BitVec 13) := []
  /-- accumulators, element (m, n) at 128 m + n (R215) -/
  acc    : SMap (BitVec 40) := []
  /-- sticky accumulator overflow (R157) -/
  aovf   : Bool := false
  deriving DecidableEq, Repr

/-! ## A tile: engines -/

/-- A scratchpad byte range of a footprint (R32). -/
structure FRange where
  base  : Nat
  len   : Nat
  write : Bool
  deriving DecidableEq, Repr

/-- An operand header's fields (R154). -/
structure Operand where
  bstride : Nat
  pstride : Nat
  scale   : Nat
  data    : Nat
  k       : Nat
  rows    : Nat
  version : BitVec 16
  seed    : BitVec 16
  gdiv    : Nat
  sparse  : Nat
  u       : Bool
  planes  : Nat
  deriving DecidableEq, Repr

/-- The snapshot of a matrix call: mp0–mp7, its MC fields and both headers (R220). -/
structure MCallSnap where
  mp      : Vector Word 8
  routine : BitVec 8
  tag     : BitVec 8
  pa      : Nat
  pb      : Nat
  a       : Operand
  b       : Operand
  deriving DecidableEq, Repr

/-- A job of the matrix queue (R218, R247, R259, R262). -/
inductive MJob where
  | call (c : MCallSnap)
  | calld (c : MCallSnap)
  | mldr (addr : Nat) (desc : Word)
  | cpbind (a b : Word)
  | cpinv (layer : Option (BitVec 16))
  | cpsav (a b : Word)
  | cprst (a b : Word)
  deriving DecidableEq, Repr

/-- A matrix queue entry with its footprint and issue serial (R33, R221). -/
structure MEntry where
  job    : MJob
  fp     : List FRange
  serial : Nat
  /-- store-queue entries issued before it that have not left the queue (R262) -/
  behind : Nat := 0
  /-- a CPSAV or CPRST has begun in its turn (R219, R262), and the bytes of its record that have moved since -/
  begun  : Bool := false
  got    : List Byte := []
  /-- what holds a write of a CPSAV (R379, R467) -/
  wb     : Option Hold := none
  deriving DecidableEq, Repr

/-- A staging buffer's flag (R225). -/
inductive BufState where
  | empty | loaded | packed
  deriving DecidableEq, Repr

/-- A staging buffer: its flag, and the row words of its planes at 128 plane + row (R225). -/
structure Buf where
  st    : BufState := .empty
  words : SMap (BitVec 32) := []
  deriving DecidableEq, Repr

/-- An active RPT counter: remaining count, first body slot and last body slot (R229). -/
structure Counter where
  left  : Nat
  first : Nat
  last  : Nat
  deriving DecidableEq, Repr

/-- How the running matrix job computes: MCALL, or MCALLD in full or delta mode (R250, R252). -/
inductive RunMode where
  | plain | full | delta
  deriving DecidableEq, Repr

/-- The state of a running routine (R225) and of an MCALLD's scan (R251). -/
structure MRun where
  upc    : Nat
  aptr   : Int := 0
  bptr   : Int := 0
  kb     : Int := 0
  a0     : Buf := {}
  a1     : Buf := {}
  b0     : Buf := {}
  b1     : Buf := {}
  /-- loads on the matrix port in issue order: `true` for a B buffer, the buffer, the panel's address and K-block (R231) -/
  loads  : List (Bool × BitVec 1 × Nat × Int) := []
  /-- step sums, element (m, n) at 128 m + n -/
  sums   : SMap Int := []
  l0     : Option Counter := none
  l1     : Option Counter := none
  /-- array cycles since job start or YLD -/
  y      : Nat := 0
  mode   : RunMode := .plain
  /-- q(n, k) of the scan at 32·NK·n + k -/
  q      : SMap Int := []
  /-- some SHACC of this job saturated (R253) -/
  ovf    : Bool := false
  deriving DecidableEq, Repr

/-- The shape an MCALLD compares (R244, R245). -/
structure CopShape where
  rr : Nat
  cc : Nat
  nk : Nat
  pa : Nat
  pb : Nat
  au : Bool
  bu : Bool
  mb : Nat
  nb : Nat
  g  : Nat
  deriving DecidableEq, Repr

/-- The shape of an entry at launch: the one whose fields a save record holds as zeros (R261). No rule states it, and no MCALLD
compares it before the entry is valid. DESIGN CHOICE, log entry 70. -/
def CopShape.launch : CopShape :=
  { rr := 1, cc := 1, nk := 1, pa := 1, pb := 1, au := false, bu := false, mb := 0, nb := 0, g := 0 }

/-- A Coppice entry (R244). What an entry that no CPBIND has bound holds of the layer, vd, d, s, N, offset, size and B's scales no rule
states: zeros, and for d, which R244 keeps from 1 to 8, 1, as a save record of zeros gives it (R261). DESIGN CHOICE, log entry 70. -/
structure CopEntry where
  bound   : Bool := false
  layer   : BitVec 16 := 0
  vd      : BitVec 8 := 0
  d       : Nat := 1
  s       : Nat := 0
  n       : Nat := 0
  offset  : Nat := 0
  size    : Nat := 0
  valid   : Bool := false
  version : BitVec 16 := 0
  shape   : CopShape := .launch
  bscale  : SMap Byte := []
  count   : BitVec 8 := 0
  gen     : BitVec 16 := 0
  ovf     : Bool := false
  reason  : BitVec 4 := 0
  refused : Bool := false
  deriving DecidableEq, Repr

/-- The state of a copy job (R300, R314). -/
inductive CState where
  | waiting | running | killed
  /-- cancelled at a halt for save, to be recorded (R381) -/
  | recorded
  deriving DecidableEq, Repr

/-- A copy job: the card as read, the far value in use, its card address and instruction, and how many bytes of the
iteration order have moved (R302 to R304, R311). -/
structure CJob where
  card     : BitVec 512
  far      : Word
  cardAddr : Nat
  cpys     : Bool
  serial   : Nat
  /-- its declared footprint (R305) -/
  fp       : List FRange
  st       : CState := .waiting
  moved    : Nat := 0
  /-- S2T packets still on the fabric (R306) -/
  packets  : Nat := 0
  /-- store-queue entries that were issued before it and have not left the queue (R307) -/
  behind   : Nat := 0
  /-- what holds a global write of the job (R379, R381, R467) -/
  wb       : Option Hold := none
  deriving DecidableEq, Repr

/-- A capture in progress (R286 to R289). -/
structure Capture where
  lap       : Nat
  first     : Nat
  lane      : BitVec 2
  version   : BitVec 16
  /-- weight tiles of the segment wanted in this lap -/
  wanted    : List Nat
  /-- weight tiles that failed so far in this lap -/
  bad       : List Nat := []
  late      : Bool := false
  mended    : Bool := false
  badtile   : Option Nat := none
  /-- the CRC-32C so far of the weight tile whose flits arrive (R273) -/
  crc       : BitVec 32 := 0xFFFFFFFF
  /-- its last flit has passed; its staged flits are written before it ends (R288) -/
  passed    : Bool := false
  deriving DecidableEq, Repr

/-- A captured flit in the staging buffer: where it goes, its bytes and its job's serial (R198, R288). -/
structure Staged where
  addr   : Nat
  bytes  : List Byte
  serial : Nat
  /-- its weight tile has failed: its bytes are written and the poison marks stay (R289 to R291) -/
  bad    : Bool := false
  /-- its 64-byte blocks still to be written: a block that loses its bank retries (R197) -/
  left   : List Nat := [0, 1, 2, 3]
  deriving DecidableEq, Repr

/-- The state of a board job (R285 to R291). -/
inductive BState where
  /-- before arming -/
  | waiting
  /-- armed under W for the lap after `lap`, whose map is checked when it begins (R287) -/
  | nextLap (lap : Nat)
  /-- capturing -/
  | capturing (c : Capture)
  /-- awaiting the repair lap after `c.lap` (R289) -/
  | repair (c : Capture)
  /-- ended with this status, version, lap and badtile, not yet completed (R291) -/
  | over (status : BitVec 8) (version : BitVec 16) (lap : Nat) (badtile : Nat)
  /-- cancelled at a halt for save, to be recorded (R296) -/
  | recorded
  deriving DecidableEq, Repr

/-- A board job (R283). -/
structure BJob where
  card     : BitVec 256
  cardAddr : Nat
  win      : Window
  repair   : Bool
  serial   : Nat
  /-- its footprint (R283) -/
  fp       : List FRange
  st       : BState := .waiting
  deriving DecidableEq, Repr

/-- What a store-queue entry performs (R346, R401, R406). -/
inductive SqKind where
  | stg | red (op : AmoOp) | mbxw (idx : BitVec 4) | jdone (raise : BitVec 32)
  deriving DecidableEq, Repr

/-- A store-queue entry (R346, R429). -/
structure SqEntry where
  kind  : SqKind
  va    : Word
  data  : Word
  width : Width
  order : Order
  scope : Scope
  /-- what holds it at its cluster's port (R379, R467) -/
  wb    : Option Hold := none
  /-- its write has gone to the host or a peer and is not yet complete or acknowledged there, which system scope waits for (R359) -/
  sent  : Bool := false
  /-- an MBXW written whose notification is not posted yet (R397) -/
  done  : Bool := false
  deriving DecidableEq, Repr

/-- The tile's monitor: armed on a sector of device memory, or in poll mode since a TIME; and a recorded wake (R363). -/
structure Monitor where
  va     : Word
  sector : Option Nat
  since  : Word
  wake   : Bool := false
  deriving DecidableEq, Repr

/-- A tile's mark on one barrier entry (R321, R323, R429): the CYCLE of arrival, and the kind of its BAR, which a saved
context does not hold. -/
structure Episode where
  count   : BitVec 16 := 0
  arrived : Option (Option BarKind × Word) := none
  deriving DecidableEq, Repr

/-- The engines of a tile and its fabric port. -/
structure Eng where
  /-- matrix queue, oldest first, at most 4 (R218) -/
  mq      : List MEntry := []
  /-- the running routine of the oldest job (R225) -/
  mrun    : Option MRun := none
  /-- MSTAT ftag and fcause, ENGST mfault and pfault (R240, R414) -/
  mftag   : BitVec 8 := 0
  mfcause : BitVec 8 := 0
  mfault  : Bool := false
  pfault  : Bool := false
  /-- Coppice entries (R244) -/
  ents    : Vector CopEntry 64 := Vector.replicate 64 {}
  /-- Yarder broadcasts not yet applied: a device, or one of its layers (R257, R258) -/
  bcasts  : List (Option (BitVec 16)) := []
  /-- copy queues 0 to 3, oldest first, at most 16 each (R299) -/
  cq      : Vector (List CJob) 4 := Vector.replicate 4 []
  /-- CSTAT ftag and fcause, ENGST cfault (R313, R414) -/
  cftag   : Vector (BitVec 8) 4 := Vector.replicate 4 0
  cfcause : Vector (BitVec 8) 4 := Vector.replicate 4 0
  cfault  : BitVec 4 := 0
  /-- port queue, oldest first, at most 8 (R284) -/
  bq      : List BJob := []
  /-- the staging buffer of the boarding port, at most 64 flits (R198, R288) -/
  stage   : List Staged := []
  /-- banks that timed accesses take in the present cycle, as far as its bundle has issued or been held by them (R194, R197) -/
  taken   : List Nat := []
  /-- ENGST bfault (R414) -/
  bfault  : Bool := false
  /-- store queue, oldest first, at most 32 (R346) -/
  sq      : List SqEntry := []
  mon     : Option Monitor := none
  /-- input latches N S E W (R328) -/
  latches : Vector VWord 4 := Vector.replicate 4 0
  /-- XMIT data on links: CYCLE from which it is visible, latch, value (R329) -/
  links   : List (Word × BitVec 2 × VWord) := []
  /-- barrier marks per scope entry (R321) -/
  epi     : SMap Episode := []
  /-- the open transfer phase's entry (R324) -/
  phase   : Option (BitVec 5) := none
  /-- issue serial of the next engine job (R33) -/
  serial  : Nat := 0
  deriving DecidableEq, Repr

/-! ## A tile: its place and its work -/

/-- A page of the overlay map as bound: state 0 absent, 1 preload, 2 demand (R65), its content offset and hash, and the
content's own virtual address once the host has mapped it (R70). -/
structure PageEnt where
  page   : Nat
  state  : BitVec 2
  offset : Nat
  hash   : BitVec 256
  mapped : Option Nat := none
  deriving DecidableEq, Repr

/-- The launch a tile serves. -/
structure Place where
  /-- the bind record that holds the tile (R384) -/
  slot     : Option Nat := none
  /-- TILEXY (R22) -/
  x        : Nat := 0
  y        : Nat := 0
  /-- SHAPE (R22) -/
  w        : Nat := 1
  h        : Nat := 1
  /-- VDID (R444) -/
  vd       : BitVec 8 := 0
  /-- PPMAX (R79) -/
  ppmax    : Nat := 3000
  /-- declared latencies (R48) -/
  lat      : Vector (BitVec 8) 16 := #v[1, 3, 4, 2, 4, 6, 2, 6, 24, 20, 1, 8, 4, 8, 0, 0]
  /-- Coppice claim C in bytes and entry claim E (R190, R243) -/
  coppice  : Nat := 0
  ecount   : Nat := 0
  /-- schedule table address (R407) -/
  st       : Nat := 0
  /-- the digest frames must carry and the overlay map (R64, R65) -/
  digest   : BitVec 256 := 0
  image    : BitVec 32 := 0
  pages    : List PageEnt := []
  /-- scope group entries 2 to 31 (R318) -/
  scopes   : SMap (BitVec 512) := []
  /-- SCHED (R409) -/
  schedN   : BitVec 16 := 0
  schedPos : BitVec 16 := 0
  schedProg : Bool := false
  /-- JCB marks (R405) -/
  pend     : BitVec 32 := 0
  posted   : Bool := false
  thisRun  : Bool := false
  /-- mailbox copy and MBXST (R398, R399) -/
  mbx      : Vector Word 64 := Vector.replicate 64 0
  mbxFresh : Word := 0
  /-- THROTTLE stop since the bind (R484) -/
  stopSeen : Bool := false
  deriving DecidableEq, Repr

/-- A tile (R38). -/
structure Tile where
  regs  : Regs := {}
  ctl   : Ctl := {}
  mem   : TMem := {}
  eng   : Eng := {}
  place : Place := {}
  deriving DecidableEq, Repr

/-! ## Slot table -/

/-- What a tile leaves with its bind record at a save, since the saved context has no place for it: the copy jobs that wait behind
write-block, queue by queue, and for a tile recorded as ended the memories that they read (R309, R315, R381, R428). DESIGN CHOICE, log
entry 31. -/
structure Carry where
  jobs : Vector (List CJob) 4 := Vector.replicate 4 []
  mem  : TMem := {}
  deriving DecidableEq, Repr

/-- States of a bind record (R388). -/
inductive BindState where
  | empty | bound | running | halting | saved | leaving
  deriving DecidableEq, Repr

/-- A bind record (R387) with the Yarder's own marks on it. -/
structure Bind where
  save     : Nat := 0
  scope    : Nat := 0
  mbox     : Nat := 0
  jcb      : Nat := 0
  deadline : Nat := 0
  slice    : Nat := 0
  image    : BitVec 32 := 0
  gen      : BitVec 16 := 0
  stream   : BitVec 16 := 0
  vd       : BitVec 8 := 0
  col0     : Nat := 0
  row0     : Nat := 0
  w        : Nat := 1
  h        : Nat := 1
  prio     : Nat := 0
  base     : Nat := 0
  waited   : Nat := 0
  state    : BindState := .empty
  nd       : Bool := false
  cp       : Bool := false
  la       : Bool := false
  start    : Word := 0
  runc     : Word := 0
  /-- TIME from which the next span of its ageing counts while saved (R390) -/
  agedAt   : Word := 0
  /-- first start made: a start from bound is a first start, a restart or a resume -/
  started  : Bool := false
  resume   : Bool := false
  /-- a halt is placed at the next lap boundary (R391, R393) -/
  planned  : Bool := false
  /-- the granule whose write by its start or save SNAPHOLD has counted as held (R467) -/
  saveHeld : Option Nat := none
  /-- its save area has failed after a fault, and only the header is still to be written (R432) -/
  saveBad  : Bool := false
  /-- a YIELD of this slice (R99) -/
  yielded  : Bool := false
  /-- the halt under way: requested, by a fault, discard decided (R419, R423, R424) -/
  halt     : Bool := false
  fault    : Bool := false
  /-- the clusters have chosen their action (R424) -/
  decided  : Bool := false
  discard  : Bool := false
  resumable : Bool := true
  /-- the host's reply is awaited (R419) -/
  await    : Bool := false
  /-- fault records posted for this halt (R417) -/
  seq      : Nat := 0
  /-- the raft ids that its start resolved, with model and layer (R274, R280) -/
  rafts     : List (BitVec 16 × BitVec 16 × BitVec 16) := []
  /-- values for g4 and g5 of the trapping tiles, and those tiles by region index with the addresses of their TRAPs (R100, R420) -/
  reply    : Option (Word × Word) := none
  traps    : List (Nat × Word) := []
  /-- tiles of drained clusters, by region index (R424) -/
  ended    : List Nat := []
  /-- the digest its frames carry and its overlay map, as reloads and mapped pages leave them (R64, R70, R72) -/
  digest   : BitVec 256 := 0
  pages    : List PageEnt := []
  /-- schedule cursors and JCB posted marks kept for a restart, by region index: pos, posted (R405, R411) -/
  kept     : List (Nat × BitVec 16 × Bool) := []
  /-- LAP of the origin tile at the halt (R427) -/
  lapAt    : Nat := 0
  /-- the arriving job's arrival plus its deadline, for which the gang halts (R424), and the TIME by which it must (R391) -/
  due      : Option Nat := none
  haltBy   : Option Nat := none
  /-- the tiles of drained clusters that have freed, by region index, as they were then (R424) -/
  gone     : SMap Tile := []
  /-- what the saved context has no place for, by region index (R309, R315, R381) -/
  carry    : SMap Carry := []
  deriving DecidableEq, Repr

/-! ## Clusters, slices and memories -/

/-- A cluster: its translation cache, most recently used first (R371), and whether it is withheld (R385). -/
structure Cluster where
  tlb      : List TlbEnt := []
  withheld : Bool := false
  deriving DecidableEq, Repr

/-- A cache line of a slice, by line address (R332, R336). -/
structure Line where
  line   : Nat
  valid0 : Bool
  valid1 : Bool
  dirty0 : Bool
  dirty1 : Bool
  count  : BitVec 8
  disc   : Bool
  owner  : Option Nat
  /-- the virtual device whose access protected it (R339) -/
  vd     : BitVec 8
  /-- the virtual devices whose accesses it has served since its fill, by number (R442) -/
  users  : List Nat := []
  deriving DecidableEq, Repr

/-- Device, host, flash and peer memory, and the slices' lines. -/
structure MemSys where
  /-- LPDDR6 by physical address, as the slices present it (R334, R476) -/
  dmem    : SMap Byte := []
  /-- poisoned 128-byte sectors (R440) -/
  dpoison : SMap Bool := []
  /-- host memory by bus address (R369, R395) -/
  hmem    : SMap Byte := []
  /-- flash pages: handle, owner, key generation, content (R378, R470) -/
  flash   : List (Nat × BitVec 8 × Nat × SMap Byte) := []
  nextHandle : Nat := 1
  /-- peers' memory: link, remote device and the bytes of its space (R473) -/
  peer    : List (BitVec 2 × BitVec 8 × SMap Byte) := []
  /-- lines of the sixteen slices, most recently used first (R332, R336) -/
  lines   : List Line := []
  deriving DecidableEq, Repr

/-! ## The Flume -/

/-- A lap on the ring: its number, the lane step at which it began, its length when it has ended early or whole, and
its map (R266 to R268, R503). -/
structure LapRec where
  lap    : Nat
  start  : Nat
  laplen : Nat
  deriving DecidableEq, Repr

/-- The Flume (R265 to R279, R503). -/
structure Flume where
  /-- lane steps since module reset, at the feeding slices -/
  steps : Nat := 0
  /-- compute cycles since the first cycle of the current lap (R267) -/
  t     : Nat := 0
  /-- lane steps of the current lap -/
  pos   : Nat := 0
  /-- laps, newest first -/
  laps  : List LapRec := [{ lap := 0, start := 0, laplen := 0 }]
  /-- published maps: `from` and the half, newest first (R278) -/
  maps  : List (Nat × LapHalf) := [(0, { laplen := 0, pace := 0, rafts := [], commits := [] })]
  deriving DecidableEq, Repr

/-! ## Virtual devices -/

/-- A queue's setting: bus address of the header and k (R395, R446). -/
structure EqReg where
  raw : Word := 0
  deriving DecidableEq, Repr

/-- A job known to a stream (R387, R449). -/
structure Job where
  gen      : BitVec 16
  image    : BitVec 32
  jcb      : Nat
  mbox     : Nat
  save     : Nat
  deadline : Nat
  nd       : Bool
  cp       : Bool
  la       : Bool
  /-- TIME of arrival at the head of its stream (R387) -/
  arrived  : Option Word := none
  waited   : Nat := 0
  prio     : Nat := 0
  /-- TIME from which the next span of its ageing counts (R390) -/
  agedAt   : Word := 0
  /-- it holds bind record `slot` -/
  slot     : Option Nat := none
  /-- its gang has left; its completion record is not posted (R449) -/
  left     : Bool := false
  /-- its completion record is posted (R404) -/
  posted   : Bool := false
  deriving DecidableEq, Repr

/-- An open stream (R12, R17). -/
structure StreamSt where
  num    : BitVec 16
  prio   : Nat
  closed : Bool := false
  jobs   : List Job := []
  /-- number of the Yarder's choice that last took this stream, for its round robin (R390) -/
  served : Nat := 0
  deriving DecidableEq, Repr

/-- A published image as the Landing keeps it (R451 to R455). -/
structure Image where
  handle   : BitVec 32
  retired  : Bool := false
  /-- virtual address and length of the bytes, which the device keeps (R455) -/
  addr     : Nat
  len      : Nat
  digest   : BitVec 256
  /-- the header and the section table (R452, R453) -/
  head     : BitVec 2560
  /-- kind, offset, length and digest of each section other than kind 3 -/
  secs     : List (Nat × Nat × Nat × BitVec 256)
  w        : Nat
  h        : Nat
  ppmax    : Nat
  lat      : Vector (BitVec 8) 16
  cpages   : Nat
  entries  : Nat
  pinned   : Nat
  st       : Nat
  pages    : List PageEnt
  points   : List Nat
  spans    : List (Nat × Nat)
  slots    : SMap (BitVec 32)
  rentry   : SMap (BitVec 13)
  /-- device physical address of the scope group table (R318, R387, R477) -/
  scopeAt  : Nat
  /-- schedule tables: coordinates, or the default, and items -/
  sched    : List (Option (Nat × Nat) × List (BitVec 32))
  data     : List (Nat × List Byte)
  rafts    : List (BitVec 16 × BitVec 16 × List Nat)
  deriving DecidableEq, Repr

/-- The quota record (R450). -/
structure Quota where
  raw : BitVec 256 := 0
  deriving DecidableEq, Repr

/-- A session context (R469, R470). -/
structure Session where
  id    : BitVec 32
  base  : Nat
  bytes : Nat
  age   : Nat
  gen   : Nat
  /-- TIME of its definition -/
  since : Word := 0
  deriving DecidableEq, Repr

/-- An unreleased snapshot: number, and the granules copied since with the pool addresses of their copies (R467). -/
structure Snap where
  num    : Nat
  copies : List (Nat × Nat)
  deriving DecidableEq, Repr

/-- A record waiting to be posted: one or two slots of 256 bits (R396, R416). -/
structure Rec where
  slots  : List (BitVec 256)
  /-- dropped when the queue is full: access counters, and kinds 0x32 and 0x40 (R397, R471, R489) -/
  drops  : Bool := false
  /-- the tile whose MBXW entry it ends (R397); none once a discard has dropped that entry -/
  tile   : Option Nat := none
  deriving DecidableEq, Repr

/-- A Skidder transfer in flight (R378, R472). -/
structure Skid where
  va     : Nat
  pa     : Nat
  size   : Nat
  /-- true: page-in; false: page-out -/
  into   : Bool
  /-- leaf location and the leaf as it stood -/
  leafPa : Nat
  leaf   : Word
  /-- bind generation or context generation it carries, and whether it was caused by a bind -/
  gen    : Nat
  bybind : Bool
  ctx    : Option (BitVec 32) := none
  /-- the interface has left RUN since it began (R472) -/
  stale  : Bool := false
  /-- the function has been reset since it began, and its pages are no pool's (R443, R472) -/
  orphan : Bool := false
  /-- the handle of a page-out (R378) -/
  handle : Nat := 0
  deriving DecidableEq, Repr

/-- An invalidation descriptor waiting for completion (R373, R374). -/
structure InvWait where
  desc   : InvDesc
  issuer : BitVec 8
  /-- the write of its token is held, and counted (R467) -/
  held   : Bool := false
  deriving DecidableEq, Repr

/-- TDISP states (R459). -/
inductive TState where
  | unlocked | locked | run | error
  deriving DecidableEq, Repr

/-- A virtual device's interface and objects (R443 to R450, R460 to R472). -/
structure VDev where
  enabled    : Bool := false
  tstate     : TState := .unlocked
  tcause     : BitVec 8 := 0
  ptroot     : Word := 0
  wbase      : Word := 0
  eq         : Vector EqReg 4 := Vector.replicate 4 {}
  thresh     : Word := 0
  snap       : Word := 0
  snaplist   : Word := 0
  snaplen    : Word := 0
  cmdw       : Vector Word 8 := Vector.replicate 8 0
  cmdq       : List Cmd := []
  /-- a write of the oldest command is held for lack of a snapshot pool page, and counted (R467) -/
  cmdHeld    : Bool := false
  /-- status and value of the oldest command, carried out but for its completion word, which is held (R467) -/
  cmdRes     : Option (Nat × Nat) := none
  /-- commands posted while 16 waited, whose status 7 is held (R447, R467) -/
  cmdBusy    : List Cmd := []
  invw       : Vector Word 4 := Vector.replicate 4 0
  invq       : List InvWait := []
  pinev      : Word := 0
  pinref     : Word := 0
  werr       : Word := 0
  stale      : Word := 0
  snaphold   : Word := 0
  snapskip   : Word := 0
  cmderr     : Word := 0
  eqdrop     : Word := 0
  quota      : Quota := {}
  keys       : Vector (BitVec 256) 4 := Vector.replicate 4 0
  /-- the memory pool as set by POOL, and pages of left contexts returned to it from elsewhere (R449, R469) -/
  poolBase   : Nat := 0
  poolBytes  : Nat := 0
  /-- pool ranges in use: base and size (R469) -/
  poolUsed   : List (Nat × Nat) := []
  poolExtra  : List (Nat × Nat) := []
  models     : List (BitVec 16) := []
  /-- Chinook pairings: remote device by link (R473) -/
  pairs      : Vector (Option (BitVec 8)) 4 := Vector.replicate 4 none
  streams    : List StreamSt := []
  genCtr     : BitVec 16 := 0
  images     : List Image := []
  nextImage  : BitVec 32 := 1
  sess       : List Session := []
  sessGen    : Nat := 0
  snaps      : List Snap := []
  snapNo     : Nat := 0
  snapAt     : Word := 0
  /-- granules written since the last snapshot, and entries appended to SNAPLIST (R467) -/
  dirty      : List Nat := []
  snapProd   : Nat := 0
  /-- records waiting for each queue (R396) -/
  recs       : Vector (List Rec) 4 := Vector.replicate 4 []
  skid       : List Skid := []
  /-- translations that clusters have filled: page base, page size, TIME of the last fill (R470) -/
  fills      : List (Nat × Nat × Word) := []
  storageKey : Nat := 0
  ideKeys    : List Byte := []
  deriving DecidableEq, Repr

/-! ## The module -/

/-- Power and start states (R478, R487, R488, R442). -/
inductive Power where
  | starting | recovery | active | calm | doldrums | fatal
  deriving DecidableEq, Repr

/-- The recovery registers' phase (R488). -/
inductive RStat where
  | waiting | receiving | verifying | refused | accepted
  deriving DecidableEq, Repr

/-- Time, clocks, power and start-up. -/
structure Mod where
  /-- CYCLE (R28) -/
  cycle    : Word := 0
  /-- TIME (R29) -/
  time     : Word := 0
  /-- TIME in the newest compute cycle, and in the one before (R331) -/
  cycTime  : Word := 0
  prevTime : Word := 0
  /-- thirtieths of a TIME tick gone in the current tick (R394: 15 nominal cycles a tick) -/
  sub      : Nat := 0
  power    : Power := .starting
  /-- entry to Doldrums is under way (R480) -/
  entering : Bool := false
  idleSince : Word := 0
  calmSince : Word := 0
  /-- THROTTLE div, hot, clock stopped, events; TIME of the last change (R482 to R484) -/
  div      : Bool := false
  hot      : Bool := false
  stopped  : Bool := false
  events   : BitVec 32 := 0
  changed  : Option Word := none
  /-- recovery mode (R488) -/
  rstat    : RStat := .waiting
  rlen     : Word := 0
  rbuf     : List Byte := []
  /-- flash's configuration blob and firmware image (R477, R486) -/
  blob     : List Byte := []
  fw       : List Byte := []
  /-- the Yarder's choices so far, for its round robin (R390) -/
  chosen   : Nat := 0
  /-- virtual functions enabled (R443) -/
  numVFs   : Nat := 0
  /-- corrected errors per unit: total, and total at the unit's last record (R489) -/
  health   : SMap (Nat × Nat) := []
  /-- units whose record is to be posted, and spans of 10 s gone at the last round (R489) -/
  healthDue : List Nat := []
  healthAt : Nat := 0
  deriving DecidableEq, Repr

/-- An answer sent over DOE or to a requester (R457 to R465). -/
inductive Reply where
  | tdispVersion (major minor : Nat)
  | tdispCapabilities
  | lockAccepted (vd : BitVec 8)
  | report (vd : BitVec 8) (bytes : List Byte)
  | tdispState (vd : BitVec 8) (code : BitVec 2)
  | started (vd : BitVec 8)
  | stopped (vd : BitVec 8)
  | tdispError (vd : BitVec 8)
  | ideKeysSet (vd : BitVec 8)
  | version (v : Nat)
  | capabilities
  | algorithms (measHash baseHash baseAsym extAsymRegistry extAsymId dhe aead reqBaseAsym keySchedule : Nat) (asymSelected : Bool)
  | challengeAuth (chain : BitVec 384) (signature : List Byte)
  | keyExchangeRsp (signature : List Byte)
  | measurements (blocks : List (Nat × List Byte)) (signature : Option (List Byte))
  | spdmError
  | windowData (vd : BitVec 8) (bytes : List Byte)
  | peerData (link : BitVec 2) (bytes : List Byte)
  | peerRefused (link : BitVec 2)
  /-- the error status of a refused invalidation descriptor (R373) -/
  | invalRefused (vd : BitVec 8)
  deriving DecidableEq, Repr

/-- The SPDM connection of function 0's DOE mailbox (R457, R458). -/
structure Doe where
  versioned  : Bool := false
  capable    : Bool := false
  negotiated : Bool := false
  asym       : Bool := false
  session    : Bool := false
  /-- the messages from GET_VERSION to ALGORITHMS, and the measurement exchanges since the last signed one, which the signed messages
  cover (R458) -/
  transcript : List Byte := []
  measured   : List Byte := []
  replies    : List Reply := []
  deriving DecidableEq, Repr

/-- A Chinook link (R473, R475). -/
structure Link where
  up       : Bool := false
  peerTime : Word := 0
  deriving DecidableEq, Repr

/-- An S2T packet on the fabric: 64-byte block pieces of a copy job (R306, R317). Tiles are physical numbers. -/
structure Packet where
  src    : Nat
  queue  : BitVec 2
  serial : Nat
  /-- where it is and where it goes, region-relative -/
  x      : Nat
  y      : Nat
  dx     : Nat
  dy     : Nat
  addr   : Nat
  bytes  : List Byte
  deriving DecidableEq, Repr

/-! ## The whole machine -/

/-- A turn of the agenda: what acts next. -/
inductive Turn where
  /-- one compute cycle of a tile's slots: BUNDLE_ISSUE -/
  | issue (tile : Nat)
  /-- the next micro-op of a tile's running routine -/
  | micro (tile : Nat)
  /-- the interface of a virtual device carries out its oldest waiting command -/
  | serve (vd : BitVec 8)
  /-- a step of the table, on a tile where it is a tile's -/
  | event (tile : Nat) (i : Instr)
  /-- HEALTH_RECORD of a unit that is due -/
  | health (unit : Nat)
  deriving DecidableEq, Repr

/-- The module, its host and its peers. -/
structure State where
  /-- physical number 32·row + column of the tile in focus, and that tile -/
  cur      : Nat := 0
  tile     : Tile := {}
  /-- the other tiles; an unlisted tile is as at reset -/
  others   : SMap Tile := []
  binds    : SMap Bind := []
  clusters : SMap Cluster := []
  mem      : MemSys := {}
  flume    : Flume := {}
  vds      : SMap VDev := [(0, { enabled := true })]
  mod      : Mod := {}
  links    : Vector Link 4 := Vector.replicate 4 {}
  packets  : List Packet := []
  doe      : Doe := {}
  /-- the turns to come -/
  agenda   : List Turn := [.event 0 .moduleStart]
  /-- the counter of free values -/
  fresh    : Nat := 0
  /-- the counter of input draws -/
  ticks    : Nat := 0
  deriving DecidableEq, Repr

/-- The model's own stops. Nothing the spec describes ends here: every fault of R412 is taken by the machine. -/
inductive Fault where
  /-- Raised by `step` for a turn that names a tile beyond the 512 of the die (R12): the state is not one of the
  hardware's. Safe. -/
  | noSuchTile
  deriving DecidableEq, Repr

/-- Why the model gives no next state. -/
inductive Refusal where
  /-- Raised by `exec` for an instruction without a meaning yet. Safe. -/
  | notModelled (mnemonic : String)
  deriving DecidableEq, Repr

/-- The machine right after module reset: CYCLE, TIME and LAP zero, the Flume idle, no bind, and the start of R487 to
come (R28, R29, R269, R487). -/
def State.reset : State := {}

end Sys2Proof.Machine
end

