-- ==== Sys2Proof/Machine/Ops.lean ====
section
/-! DEFINITION. The named operations every meaning goes through: sparse tables and bytes, tiles in and out of focus,
register files with their latency windows (02 R44, R49; 04 R105 to R111), results in flight, taking a fault
(16 R412 to R419), scratchpad bytes and poison (07, 10 R290), footprints (01 R31 to R35), sync words (07 R200 to R204). -/

namespace Sys2Proof.Machine

/-! ## Sparse tables and bytes -/

/-- The value at key `k`; `d` where none is listed. -/
def smGet {α : Type} (d : α) : SMap α → Nat → α
  | [], _ => d
  | (k', v) :: t, k => if k' = k then v else smGet d t k

/-- The table with `k` listed as `v`, whatever `v` is. -/
def smSet {α : Type} (k : Nat) (v : α) : SMap α → SMap α
  | [] => [(k, v)]
  | (k', v') :: t => if k < k' then (k, v) :: (k', v') :: t else if k = k' then (k, v) :: t else (k', v') :: smSet k v t

/-- The table with nothing listed at `k`. -/
def smDel {α : Type} (k : Nat) : SMap α → SMap α
  | [] => []
  | (k', v') :: t => if k = k' then t else (k', v') :: smDel k t

/-- The table that reads `v` at `k`, in canonical form: `v = d` is not listed. -/
def smPut {α : Type} [DecidableEq α] (d : α) (k : Nat) (v : α) (m : SMap α) : SMap α :=
  if v = d then smDel k m else smSet k v m

/-- Canonical form: keys strictly rising and no default value listed. -/
def smWf {α : Type} [DecidableEq α] (d : α) : SMap α → Bool
  | [] => true
  | [(_, v)] => decide (v ≠ d)
  | (k, v) :: (k', v') :: t => decide (v ≠ d) && decide (k < k') && smWf d ((k', v') :: t)

/-- The canonical form of a byte memory. -/
abbrev Memory.wf (m : SMap Byte) : Bool := smWf 0 m

/-- The `n` bytes from `a` as a little-endian number (00 R6). -/
def readB (m : SMap Byte) (a : Nat) : Nat → Nat
  | 0 => 0
  | n + 1 => (smGet 0 m a).toNat + 256 * readB m (a + 1) n

/-- The `n` bytes from `a` as a list. -/
def readList (m : SMap Byte) (a : Nat) : Nat → List Byte
  | 0 => []
  | n + 1 => smGet 0 m a :: readList m (a + 1) n

/-- One byte stored. -/
def putB (a : Nat) (b : Byte) (m : SMap Byte) : SMap Byte := smPut 0 a b m

/-- The low `n` bytes of `v` stored from `a`, little-endian (00 R6). -/
def writeB (a : Nat) : Nat → Nat → SMap Byte → SMap Byte
  | 0, _, m => m
  | n + 1, v, m => writeB (a + 1) n (v / 256) (putB a (BitVec.ofNat 8 v) m)

/-- A table moved up by `n`. -/
def shiftMap {α : Type} (n : Nat) (m : SMap α) : SMap α := m.map fun x => (x.1 + n, x.2)

/-- The entries in `[lo, lo + n)`, moved down to 0. -/
def sliceMap {α : Type} (lo n : Nat) (m : SMap α) : SMap α :=
  (m.filter fun x => decide (lo ≤ x.1 ∧ x.1 < lo + n)).map fun x => (x.1 - lo, x.2)

/-- A list of bytes stored from `a`. -/
def writeList (a : Nat) : List Byte → SMap Byte → SMap Byte
  | [], m => m
  | b :: bs, m => writeList (a + 1) bs (putB a b m)

/-- The `n` low bytes of a number, least significant first. -/
def toBytes : Nat → Nat → List Byte
  | 0, _ => []
  | n + 1, v => BitVec.ofNat 8 v :: toBytes n (v / 256)

/-- The little-endian number of a byte list. -/
def ofBytes : List Byte → Nat
  | [] => 0
  | b :: bs => b.toNat + 256 * ofBytes bs

/-- Bits `hi .. lo` of a number. -/
def field (v hi lo : Nat) : Nat := v / 2 ^ lo % 2 ^ (hi + 1 - lo)

/-- A field read as two's complement of `w` bits (00 R9). -/
def sextN (w v : Nat) : Int := if v % 2 ^ w < 2 ^ (w - 1) then (v % 2 ^ w : Int) else (v % 2 ^ w : Int) - 2 ^ w

/-- An integer as the low `w` bits of its two's-complement form (00 R8). -/
def wrapN (w : Nat) (v : Int) : Nat := (v % (2 ^ w : Int)).toNat

/-- The first `n` naturals, ascending. -/
abbrev upTo (n : Nat) : List Nat := List.range n

/-! ## Focus -/

/-- Tile `p`, in focus or not. -/
def getTile (p : Nat) (s : State) : Tile := if p = s.cur then s.tile else smGet {} s.others p

/-- Tile `p` replaced. -/
def setTile (p : Nat) (t : Tile) (s : State) : State :=
  if p = s.cur then { s with tile := t } else { s with others := smSet p t s.others }

/-- Tile `p` changed by `f`. -/
def modTile (p : Nat) (f : Tile → Tile) (s : State) : State := setTile p (f (getTile p s)) s

/-- The same machine with tile `p` in focus. -/
def focusOn (p : Nat) (s : State) : State :=
  if p = s.cur then s
  else { s with cur := p, tile := smGet {} s.others p, others := smSet s.cur s.tile (smDel p s.others) }

def onTile (f : Tile → Tile) (s : State) : State := { s with tile := f s.tile }
def onRegs (f : Regs → Regs) (s : State) : State := onTile (fun t => { t with regs := f t.regs }) s
def onCtl (f : Ctl → Ctl) (s : State) : State := onTile (fun t => { t with ctl := f t.ctl }) s
def onMem (f : TMem → TMem) (s : State) : State := onTile (fun t => { t with mem := f t.mem }) s
def onEng (f : Eng → Eng) (s : State) : State := onTile (fun t => { t with eng := f t.eng }) s
def onPlace (f : Place → Place) (s : State) : State := onTile (fun t => { t with place := f t.place }) s
def onMod (f : Mod → Mod) (s : State) : State := { s with mod := f s.mod }

def getVd (vd : BitVec 8) (s : State) : VDev := smGet {} s.vds vd.toNat
def modVd (vd : BitVec 8) (f : VDev → VDev) (s : State) : State :=
  { s with vds := smSet vd.toNat (f (getVd vd s)) s.vds }

def getBind (b : Nat) (s : State) : Bind := smGet {} s.binds b
def modBind (b : Nat) (f : Bind → Bind) (s : State) : State := { s with binds := smSet b (f (getBind b s)) s.binds }

/-- The bind record that holds a tile, changed; nothing where none does. -/
def modBindOf (t : Tile) (f : Bind → Bind) (s : State) : State :=
  match t.place.slot with
  | some b => modBind b f s
  | none => s

/-- The bind record that holds a tile. -/
def bindOf (t : Tile) (s : State) : Bind :=
  match t.place.slot with
  | some b => getBind b s
  | none => {}

def modOwnBind (f : Bind → Bind) (s : State) : State := modBindOf s.tile f s
def ownBind (s : State) : Bind := bindOf s.tile s

/-- The physical tile at region-relative (x, y) of a bind (01 R19). -/
def tileAt (b : Bind) (x y : Nat) : Nat := 32 * (2 * b.row0 + y) + 4 * b.col0 + x

/-- The physical tiles of a bind's region in index order (16 R426). -/
def gangTiles (b : Bind) : List Nat :=
  (upTo (8 * b.w * b.h)).map fun j => tileAt b (j % (4 * b.w)) (j / (4 * b.w))

/-- The tiles that a bind holds: of a drained cluster that has freed, none (R424). -/
def heldTiles (slot : Nat) (s : State) : List Nat := (gangTiles (getBind slot s)).filter fun p => (getTile p s).place.slot == some slot

/-- The tiles of the gang of the tile in focus; the tile alone where no bind holds it. -/
def ownGang (s : State) : List Nat :=
  match s.tile.place.slot with
  | some b => heldTiles b s
  | none => [s.cur]

/-- A tile's index in its region (16 R426). -/
def regionIndex (b : Bind) (t : Tile) : Nat := t.place.y * 4 * b.w + t.place.x

/-- A state changed tile by tile over a list. -/
def overTiles (ps : List Nat) (f : Tile → Tile) (s : State) : State := ps.foldl (fun s p => modTile p f s) s

/-- `f` run with each listed tile in focus, and the focus put back. -/
def eachTile (ps : List Nat) (f : State → State) (s : State) : State :=
  focusOn s.cur (ps.foldl (fun s p => f (focusOn p s)) s)

/-! ## Loop state (R83 to R90) -/

/-- The innermost active level: the active one of highest number (R83). -/
def innermost (c : Ctl) : Option (Fin 6) :=
  if c.loops[5].active then some 5 else if c.loops[4].active then some 4 else if c.loops[3].active then some 3
  else if c.loops[2].active then some 2 else if c.loops[1].active then some 1 else if c.loops[0].active then some 0
  else none

/-- p1 (R86). -/
def loopFirst (c : Ctl) : Bool :=
  match innermost c with
  | some l => c.loops[l].isFirst
  | none => false

/-- p2 (R86). -/
def loopLast (c : Ctl) : Bool :=
  match innermost c with
  | some l => c.loops[l].count == 1
  | none => false

/-! ## Register files (R105 to R111) -/

/-- The physical vector register of a name (R109). -/
def physV (r : Regs) (n : Reg) : Reg :=
  if n.toNat < 32 then n else BitVec.ofNat 6 (32 + (n.toNat - 32 + r.rbVb.toNat) % 32)

/-- The physical predicate of a name (R109). -/
def physP (r : Regs) (n : BitVec 5) : BitVec 5 :=
  if n.toNat < 16 then n else BitVec.ofNat 5 (16 + (n.toNat - 16 + r.rbPb.toNat) % 16)

/-- A general register as read at issue: before a result in flight lands, what it held before, as R49 says of the FK9; g0 reads
zero (R105). -/
def readG (r : Regs) (n : Reg) : Word := if n = 0 then 0 else r.g[n.toNat]'n.isLt

/-- A predicate by name as read at issue (R86, R105, R109). -/
def readP (t : Tile) (n : BitVec 5) : Bool :=
  if n = 0 then true
  else if n = 1 then loopFirst t.ctl
  else if n = 2 then loopLast t.ctl
  else t.regs.p.getLsbD (physP t.regs n).toNat

/-- A vector register by name as read at issue (R49, R109). -/
def readV (r : Regs) (n : Reg) : VWord :=
  let q := physV r n
  r.v[q.toNat]'q.isLt

/-- A lane mask as read at issue; k0 is all ones (R49, R105). -/
def readK (r : Regs) (n : BitVec 3) : Mask := if n = 0 then BitVec.allOnes 256 else r.k[n.toNat]'n.isLt

/-- A predicate bit written; p0, p1 and p2 discard (R44). -/
def setPred (n : BitVec 5) (c : Bool) (p : BitVec 32) : BitVec 32 :=
  if n.toNat < 3 then p
  else if c then p ||| BitVec.twoPow 32 n.toNat else p &&& ~~~(BitVec.twoPow 32 n.toNat)

/-- A general register written; g0 discards (R44). -/
def setG (n : Reg) (v : Word) (r : Regs) : Regs :=
  if n = 0 then r else { r with g := r.g.set n.toNat v n.isLt }

/-- A result written to its physical registers: the first name of a pair is kept where both are one (R111). -/
def applyResult (res : Result) (r : Regs) : Regs :=
  match res with
  | .g n v => setG n v r
  | .pair d e c => { r with p := setPred d c (setPred e (!c) r.p) }
  | .v n m x => { r with v := r.v.set n.toNat (((r.v[n.toNat]'n.isLt) &&& ~~~m) ||| (x &&& m)) n.isLt }
  | .k n m x => if n = 0 then r else { r with k := r.k.set n.toNat (((r.k[n.toNat]'n.isLt) &&& ~~~m) ||| (x &&& m)) n.isLt }
  | .gp n v d c => let r' := setG n v r; { r' with p := setPred d c r'.p }

/-! ## Results in flight (R44, R48, R49) -/

/-- Cycles the FK9 takes for a class (R48). -/
def fk9Cycles : Nat → Nat
  | 0 => 1 | 1 => 3 | 2 => 4 | 3 => 2 | 4 => 4 | 5 => 6 | 6 => 2 | 7 => 6 | 8 => 24 | 9 => 20 | 10 => 1 | 11 => 8
  | 12 => 4 | 13 => 8 | _ => 1

/-- The latency the image declares for a class (R48, R49). -/
def declared (t : Tile) (cls : Nat) : Nat := (t.place.lat.toList.getD cls 0).toNat

/-- A result of latency class `cls` from slot rank `slot`, which the FK9 has ready after `ready` cycles. -/
def pushAt (slot cls ready : Nat) (flags : BitVec 5) (res : Result) (s : State) : State :=
  onRegs (fun r => { r with inflight := r.inflight ++
    [{ res := res, due := declared s.tile cls, ready := ready, slot := slot, flags := flags }] }) s

/-- A result of latency class `cls` at the FK9's own time for the class. -/
def pushRes (slot cls : Nat) (flags : BitVec 5) (res : Result) (s : State) : State :=
  pushAt slot cls (fk9Cycles cls) flags res s

/-- One landing: the registers and the sticky float flags (R145). -/
def landOne (r : Regs) (p : Pending) : Regs :=
  let r' := applyResult p.res r
  { r' with fpflags := r'.fpflags ||| p.flags }

def isDue (p : Pending) : Bool := p.due == 0 && p.ready == 0

/-- Results that land together, in rising order of slot class, so that the highest is kept (R44). Of two of one slot class, which no
rule orders, the later issued is kept. DESIGN CHOICE, log entry 55. -/
def inSlotOrder (ps : List Pending) : List Pending :=
  ps.filter (·.slot == 0) ++ ps.filter (·.slot == 1) ++ ps.filter (·.slot == 2) ++ ps.filter (2 < ·.slot)

/-- The latency interlock of R49: a declared latency has expired and the result is not ready. -/
def interlocked (r : Regs) : Bool := r.inflight.any fun p => p.due == 0 && p.ready != 0

/-- Whether a result writes general register `d`. -/
def writesG (d : Reg) : Result → Bool
  | .g r _ => r == d
  | .gp r _ _ _ => r == d
  | _ => false

/-- Whether a result of a higher slot class than S is to land in general register `d` in this counted cycle (R44). -/
def outranked (d : Reg) (r : Regs) : Bool := r.inflight.any fun p => p.due == 0 && p.slot != 0 && writesG d p.res

/-- The results whose declared latency has expired land together, none before the last of them is ready (R44, R49). -/
def landDue (r : Regs) : Regs :=
  if interlocked r then r
  else (inSlotOrder (r.inflight.filter isDue)).foldl landOne { r with inflight := r.inflight.filter (! isDue ·) }

/-- Results written as soon as they are ready, those ready together in rising slot order (R81). -/
def landByReady : Nat → Regs → Regs
  | 0, r => (inSlotOrder r.inflight).foldl landOne { r with inflight := [] }
  | n + 1, r =>
    let r' := (inSlotOrder (r.inflight.filter (·.ready == 0))).foldl landOne
      { r with inflight := r.inflight.filter (·.ready != 0) }
    if r'.inflight.isEmpty then r'
    else landByReady n { r' with inflight := r'.inflight.map fun p => { p with ready := p.ready - 1 } }

/-- The drain of a halt: every result in flight lands (R81). -/
def drainResults (r : Regs) : Regs := landByReady 32 r

/-- A counted cycle passes over the results in flight (R11, R49). -/
def countCycle (r : Regs) : Regs :=
  { r with inflight := r.inflight.map fun p => { p with due := p.due - 1, ready := p.ready - 1 } }

/-- A held cycle passes: only a result whose declared latency has expired goes on towards ready (R24, R49). -/
def heldCycle (r : Regs) : Regs :=
  { r with inflight := r.inflight.map fun p => if p.due = 0 then { p with ready := p.ready - 1 } else p }

/-! ## Event records (R395 to R397, R416 to R418) -/

/-- A record waits for its queue: 0 completions, 1 faults, 2 access counters, 3 storage (17 R446). -/
def queueRec (vd : BitVec 8) (q : Fin 4) (r : Rec) (s : State) : State :=
  modVd vd (fun v => { v with recs := v.recs.set q (v.recs[q] ++ [r]) }) s

/-- The records of MBXW entries of tile `p` that wait, when a discard drops those entries: they end none (R397, R436). -/
def unlinkRecs (vd : BitVec 8) (p : Nat) (s : State) : State :=
  modVd vd (fun v => { v with recs := v.recs.map fun rs => rs.map fun r => if r.tile = some p then { r with tile := none } else r }) s

/-- Fault record header (R417). -/
def faultHeader (time addr : Word) (pc : Nat) (resumable : Bool) (engine : Nat) (stream gen : BitVec 16) (x y : Nat)
    (code : BitVec 8) (tag cause seq : Nat) : BitVec 256 :=
  time ++ (addr ++ (BitVec.ofNat 20 pc ++ ((0 : BitVec 3) ++ (BitVec.ofBool resumable ++ (BitVec.ofNat 8 engine ++ (stream ++
    (gen ++ (BitVec.ofNat 8 x ++ (BitVec.ofNat 8 y ++ (code ++ (BitVec.ofNat 8 tag ++ (BitVec.ofNat 16 cause ++
      (BitVec.ofNat 8 seq ++ (0x20 : BitVec 8))))))))))))))

/-- A detail slot: `v` at bits 255:192, and `low` in the other bits above the code (R418). -/
def detailOf (v : Word) (low : Nat) (code : BitVec 8) : BitVec 256 :=
  v ++ (BitVec.ofNat 184 (low / 256) ++ code)

/-- Whether (x, y) is a member of entry `e` of the tile in focus's table. -/
def inScope (t : Tile) (e x y : Nat) : Bool :=
  if e = 0 then x == t.place.x && y == t.place.y
  else if e = 1 then decide (x < 4 * t.place.w ∧ y < 2 * t.place.h)
  else (smGet 0 t.place.scopes e).getLsbD (32 * y + x)

/-- Whether a tile is a member of the set of an open phase: of the one it runs in, or, once ended, of any of its gang's (R324, R326). -/
def inOpenPhase (s : State) (t : Tile) : Bool :=
  t.eng.phase.isSome ||
    match t.place.slot with
    | none => false
    | some k => (heldTiles k s).any fun q =>
      let u := getTile q s
      u.eng.phase.any fun e => inScope u e.toNat t.place.x t.place.y

/-- Whether R422 allows a resume after this fault of a tile. -/
def faultResumable (f : TFault) (s : State) (t : Tile) : Bool :=
  !(f.code == 0x02 && f.cause == 0) && !inOpenPhase s t && !(f.code == 0x06 && f.detail.extractLsb' 8 2 == 2)

/-! ## Halting and taking a fault (R77, R81, R415 to R419) -/

/-- The tile stops at the boundary before the bundle at pc; results in flight land (R77, R81), and the waits of its
bundle begin anew on resume (R324, R331, R364). -/
def haltTile (t : Tile) : Tile :=
  { t with
    regs := drainResults t.regs
    ctl := { t.ctl with run := .stopped, haltReq := false, bubble := false, fillLeft := 0, filled := false
                        bankLeft := none, waitT0 := none, waitRead := false, waitDue := none, waitOut := false, portHeld := none }
    eng := { t.eng with mon := none } }

/-- The tile gives up an open transfer phase (R326). -/
def abandonPhase (t : Tile) : Tile :=
  { t with eng := { t.eng with phase := none, latches := Vector.replicate 4 0, links := [] } }

/-- The bind of a gang that halts (R388, R419). -/
def bindHalting (b : Bind) : Bind :=
  { b with halt := true, state := if b.state = .running then .halting else b.state }

/-- A fault of tile `p` recorded: FLTCODE, FLTADDR and its record; its gang halts after a fault (R413, R416, R417, R419). -/
def recordFault (p : Nat) (s : State) (f : TFault) : State :=
  let t := getTile p s
  let b := bindOf t s
  let ok := faultResumable f s t && b.resumable
  let hdr := faultHeader s.mod.time f.addr t.ctl.pc.toNat ok f.engine b.stream b.gen t.place.x t.place.y f.code f.tag
    f.cause (min b.seq 255)
  s |> queueRec t.place.vd 1 { slots := [hdr, f.detail] }
    |> modTile p (fun t => { t with ctl := { t.ctl with fltcode := f.code, fltaddr := f.addr, faulted := true, deferred := [] } })
    |> modBindOf t (fun b => { bindHalting b with fault := true, seq := b.seq + 1, resumable := ok })

/-- The rank of a deferred fault in R415's order. -/
def deferredRank (f : TFault) : Nat :=
  if f.engine = 0 then 0 else if f.engine = 7 then 1 else if f.engine = 6 then 7 else f.engine + 1

/-- The deferred faults in the order of R415, first come first within a rank. -/
def deferredOrder (fs : List TFault) : List TFault :=
  (upTo 8).flatMap fun r => fs.filter (deferredRank · == r)

/-- The faults that wait for tile `p`'s next boundary, all recorded (R415). -/
def recordPending (s : State) (p : Nat) : State := (deferredOrder (getTile p s).ctl.deferred).foldl (recordFault p) s

/-- The pc after a FETCH fault of cause 0 holds the low 20 bits (R69). -/
def narrowPc (f : TFault) (c : Ctl) : Ctl :=
  if f.code = 0x02 ∧ f.cause = 0 then { c with pc := c.pc &&& 0xFFFFF } else c

/-- The tile stops at once, unless it has ended; a phase it is in is abandoned (R326). -/
def stopTile (t : Tile) : Tile := if t.ctl.run = .running then abandonPhase (haltTile t) else abandonPhase t

/-- The gang of the tile in focus halts: at once out of an open phase, where the faults that wait on its tiles are recorded, else
by requests (R326, R415, R419). -/
def haltOthers (s : State) : State :=
  let others := (ownGang s).filter (· ≠ s.cur)
  if inOpenPhase s s.tile then overTiles others stopTile (others.foldl recordPending s)
  else overTiles others (fun t => if t.ctl.run = .running then { t with ctl := { t.ctl with haltReq := true } } else t) s

/-- TAKING FAULTS, one operation: every fault given is recorded in order; the tile stops, marked as the one that raised
it; its results land; the other tiles of the gang halt (R415, R419). -/
def takeFaults (fs : List TFault) (s : State) : State :=
  if fs.isEmpty then s else onTile stopTile (haltOthers (fs.foldl (recordFault s.cur) s))

/-- The faults that wait for the next boundary of the tile in focus are taken (R415). -/
def takePending (s : State) : State := takeFaults (deferredOrder s.tile.ctl.deferred) s

/-- A halt request reaches every tile of a running gang (R419, R423). -/
def haltGang (slot : Nat) (s : State) : State :=
  let b := getBind slot s
  if b.state = .running then
    s |> overTiles (gangTiles b) (fun t => if t.ctl.run = .running then { t with ctl := { t.ctl with haltReq := true } } else t)
      |> modBind slot fun b => { bindHalting b with planned := false, haltBy := none }
  else s

/-- A fault taken at a boundary: after every deferred fault that waits there, which is recorded first (R415). -/
def takeFault (f : TFault) (s : State) : State :=
  onCtl (narrowPc f) (takeFaults (deferredOrder s.tile.ctl.deferred ++ [f]) s)

/-- A deferred fault: for the next bundle boundary of a running tile, at once on one that no longer issues
(R92, R412, R419). -/
def raiseDeferred (f : TFault) (s : State) : State :=
  if s.tile.ctl.run = .running then onCtl (fun c => { c with deferred := c.deferred ++ [f] }) s
  else takeFault f s

/-- A deferred fault of an engine (R412, R417): 1 matrix queue, 2 to 5 copy queues, 6 boarding port, 7 JCB sequencer. No rule
states its FLTADDR, which is a free value. -/
def raiseEngine (code : BitVec 8) (engine cause tag : Nat) (detail : BitVec 256) (s : State) : State :=
  raiseDeferred { code := code, addr := Config.openAddr s.fresh, cause := cause, engine := engine, tag := tag, detail := detail }
    { s with fresh := s.fresh + 1 }

/-- A precise fault of the bundle at pc, with `FLTADDR` there. -/
def faultAtPc (code : BitVec 8) (cause : Nat) (low : Nat) (s : State) : TFault :=
  { code := code, addr := s.tile.ctl.pc, cause := cause, detail := detailOf 0 low code }

/-- An address fault: ALIGN (4) or SPAD (3) at `addr` in a space of R418, by element. -/
def addrFault (code : BitVec 8) (addr : Word) (space elem : Nat) : TFault :=
  { code := code, addr := addr, detail := detailOf addr (space * 2 ^ 16 + elem * 2 ^ 8) code }

/-! ## Scratchpad (07 R190 to R199, 10 R290) -/

/-- The end of the program area: 2 MiB less the Coppice claim (R190). -/
def progEnd (t : Tile) : Nat := 0x200000 - t.place.coppice

/-- Whether `n` bytes from `a` lie in the program area. -/
def inProg (t : Tile) (a n : Nat) : Bool := decide (a + n ≤ progEnd t)

/-- The fault of a timed access of `n` bytes at `a` aligned to `al`: ALIGN before SPAD (R192, R208). -/
def spadFault (t : Tile) (a : Word) (n al elem : Nat) : Option TFault :=
  if a.toNat % al ≠ 0 then some (addrFault 0x04 a 0 elem)
  else if inProg t a.toNat n then none
  else some (addrFault 0x03 (BitVec.ofNat 64 (max a.toNat (progEnd t))) 0 elem)

/-- The first poisoned byte of `n` bytes from `a` (R208, R290). -/
def firstPoison (m : TMem) (a n : Nat) : Option Nat :=
  let blocks := (upTo ((a + n - 1) / 64 - a / 64 + 1)).map (a / 64 + ·)
  match blocks.find? fun b => smGet false m.poison b with
  | some b => some (max a (64 * b))
  | none => none

/-- The POISON fault of a timed load of `n` bytes at `a` (R290, R418). -/
def poisonFault (t : Tile) (a n : Nat) : Option TFault :=
  if n = 0 then none
  else
    match firstPoison t.mem a n with
    | some b => some { code := 0x06, addr := BitVec.ofNat 64 b
                       detail := detailOf (BitVec.ofNat 64 b) (12 * 2 ^ 100 + 1 * 2 ^ 8) 0x06 }
    | none => none

/-- Poison marks cleared from the blocks that one write of `n` bytes at `a` covers whole (R290). -/
def unpoison (a n : Nat) (m : SMap Bool) : SMap Bool :=
  let lo := (a + 63) / 64
  let hi := (a + n) / 64
  (upTo (hi - lo)).foldl (fun m j => smPut false (lo + j) false m) m

/-- Poison marks set on every block that `n` bytes from `a` touch (R289). -/
def poisonRange (a n : Nat) (m : SMap Bool) : SMap Bool :=
  if n = 0 then m else (upTo ((a + n - 1) / 64 - a / 64 + 1)).foldl (fun m j => smPut false (a / 64 + j) true m) m

/-- Bytes written to the program area in one access. -/
def spadWrite (a : Nat) (bs : List Byte) (m : TMem) : TMem :=
  { m with spad := writeList a bs m.spad, poison := unpoison a bs.length m.poison }

/-- A number of `n` bytes written to the program area in one access. -/
def spadStore (a n v : Nat) (m : TMem) : TMem :=
  { m with spad := writeB a n v m.spad, poison := unpoison a n m.poison }

/-! ## Footprints (01 R32 to R34) -/

/-- Whether two ranges share a byte. -/
def rangesMeet (a b : FRange) : Bool := decide (a.base < b.base + b.len) && decide (b.base < a.base + a.len)

/-- Two footprints overlap where a byte lies in a range of each and at least one is a write range (R32). -/
def fpOverlap (xs ys : List FRange) : Bool := xs.any fun x => ys.any fun y => rangesMeet x y && (x.write || y.write)

/-- The footprints of the engine jobs in flight, with their issue serials. A job cancelled at a halt for save has none: a job that
waits on an edge to it (R33) drains before the save, as R38 and R315 have it, and so before the reissue. DEDUCED, log entry 76. -/
def inFlightFp (e : Eng) : List (Nat × List FRange) :=
  e.mq.map (fun j => (j.serial, j.fp))
    ++ e.cq.toList.flatMap (fun q => (q.filter (·.st != .recorded)).map fun j => (j.serial, j.fp))
    ++ (e.bq.filter (·.st != .recorded)).map (fun j => (j.serial, j.fp))

/-- Whether no earlier job holds an edge against footprint `fp` (R33). -/
def edgesClear (e : Eng) (serial : Nat) (fp : List FRange) : Bool :=
  (inFlightFp e).all fun j => decide (serial ≤ j.1) || !fpOverlap j.2 fp

/-- Whether a timed access must wait: a store on any range, a load on a write range (R34). -/
def timedHeld (e : Eng) (a : FRange) : Bool :=
  (inFlightFp e).any fun j => j.2.any fun r => rangesMeet r a && (a.write || r.write)

/-! ## Sync words (07 R200, R201) -/

/-- A sync word after an update of `n` bytes (R201). -/
def syncUpdate (n : Nat) (w : BitVec 128) : BitVec 128 :=
  let count := (w.extractLsb' 0 36).toNat
  let target := (w.extractLsb' 64 36).toNat
  let gen := (w.extractLsb' 100 16).toNat
  let ov := w.extractLsb' 116 1
  let s := count + n
  let ov' : BitVec 1 := if 2 ^ 36 ≤ s then 1 else ov
  let s' := if 2 ^ 36 ≤ s then 2 ^ 36 - 1 else s
  let j := if target = 0 then 0 else s' / target
  (0 : BitVec 11) ++ (ov' ++ (BitVec.ofNat 16 (gen + j) ++ (BitVec.ofNat 36 target ++
    ((0 : BitVec 28) ++ BitVec.ofNat 36 (s' - j * target)))))

/-- The sync word at `a`. -/
def syncAt (m : TMem) (a : Nat) : BitVec 128 := BitVec.ofNat 128 (readB m.spad a 16)

/-- An update of the sync word at `a` applied (R201). -/
def syncAdd (a n : Nat) (m : TMem) : TMem := spadStore a 16 (syncUpdate n (syncAt m a)).toNat m

end Sys2Proof.Machine
end

