-- ==== Sys2Proof/Machine/Lap.lean ====
section
/-! DEFINITION. The Flume's laps as the feeding slices and a tile see them: 10_flume.md R265 to R279, R503. -/

namespace Sys2Proof.Machine

/-- Reach delay of a physical tile, 1 to 600 lane steps (R268). -/
def reach (p : Nat) : Nat := 1 + Config.reachDelay p % 600

/-- The half that governs lap `n`: the largest `from` not above it (R278). -/
def governing (f : Flume) (n : Nat) : LapHalf :=
  match f.maps.find? (·.1 ≤ n) with
  | some m => m.2
  | none => { laplen := 0, pace := 0, rafts := [], commits := [] }

/-- The lap at the Yarder's boundary, with its first lane step. -/
def topLap (f : Flume) : LapRec := f.laps.headD { lap := 0, start := 0, laplen := 0 }

/-- Pace and length of the lap at the feeding slices. -/
def topPace (f : Flume) : Nat := (governing f (topLap f).lap).pace
def topLen (f : Flume) : Nat := (governing f (topLap f).lap).laplen

/-- Whether a lane step occurs in this cycle (R267). -/
def laneStepDue (f : Flume) : Bool :=
  topLen f != 0 && decide (f.t * topPace f / 1024 < (f.t + 1) * topPace f / 1024)

/-- The lap and position of the flit that leaves the feeding slices in lane step `n`. -/
def flitAt (f : Flume) (n : Nat) : Nat × Nat :=
  match f.laps.find? (·.start ≤ n) with
  | some l => (l.lap, n - l.start)
  | none => (0, 0)

/-- The flit that reaches tile `p` in this cycle, or the next one to reach it: its lap and position (R268, R270). On the Flume idle since reset
it is the first of lap 0, which holds none: a job armed there takes lap 0 (R285), and no rule says whether it takes the next. DESIGN CHOICE,
log entry 101. -/
def nextFlit (f : Flume) (p : Nat) : Nat × Nat := flitAt f (f.steps - reach p)

/-- LAP of tile `p`: the lap of the flit that reaches it in this cycle, or of the last one that has (R269). -/
def lapOf (f : Flume) (p : Nat) : Nat :=
  let n := if laneStepDue f then f.steps + 1 else f.steps
  if n < reach p + 1 then 0 else (flitAt f (n - 1 - reach p)).1

/-- LAPPOS of tile `p` (R270). -/
def lapPos (f : Flume) (p : Nat) : Word :=
  (0 : BitVec 21) ++ (BitVec.ofNat 11 (governing f (lapOf f p)).pace ++ BitVec.ofNat 32 (nextFlit f p).2)

end Sys2Proof.Machine
end

