-- ==== Sys2Proof/WellFormed.lean ====
section
/-! DEFINITION. Which terms of `Instr` an encoding can denote: 02_encoding.md R50 to R54, 06_vector.md R168.
Steps that are no syllable and no micro-op have no encoding and are always well formed. -/

namespace Sys2Proof

/-- A held source has a zero register field (R47, R54). -/
def Src.ok (s : Src) : Bool := !s.held || s.r == 0

/-- The absent source: register field and hold bit zero (R50, R168). -/
def Src.zero : Src := ⟨0, false⟩

/-- Types 0 to 7 (R168). -/
def ElemTy.isInt : ElemTy → Bool
  | .i8 | .i16 | .i32 | .i64 | .u8 | .u16 | .u32 | .u64 => true
  | _ => false

/-- Types 8 to 10 (R168). -/
def ElemTy.isFloat : ElemTy → Bool
  | .bf16 | .fp16 | .fp32 => true
  | _ => false

/-- Types 0 to 10 (R168). -/
def ElemTy.isAny (t : ElemTy) : Bool := t.isInt || t.isFloat

/-- Types 0 to 3 (R168). -/
def ElemTy.isSignedInt : ElemTy → Bool
  | .i8 | .i16 | .i32 | .i64 => true
  | _ => false

/-- Width in bits (R136). -/
def ElemTy.bits : ElemTy → Nat
  | .i8 | .u8 => 8
  | .i16 | .u16 | .bf16 | .fp16 => 16
  | .i32 | .u32 | .fp32 => 32
  | .i64 | .u64 | .i40 => 64

/-- The widths a store accepts (R135, R205, R344, R348). -/
def Width.plain : Width → Bool
  | .w1 | .w2 | .w4 | .w8 => true
  | _ => false

/-- Whether `order` is relaxed or acquire (R344). -/
def Order.loadOk : Order → Bool
  | .rlx | .acq => true
  | _ => false

/-- Whether `order` is relaxed or release (R344, R348). -/
def Order.storeOk : Order → Bool
  | .rlx | .rel => true
  | _ => false

/-- pos + len ≤ 64 (R126). -/
def fieldOk (pos len1 : BitVec 6) : Bool := pos.toNat + len1.toNat + 1 ≤ 64

/-- The rounding and saturate fields VCVT accepts from `src` to `dst` (R181). -/
def cvtOk (dst src : ElemTy) (rnd : Rnd) (sat : Bool) : Bool :=
  if src.isInt && dst.isInt then rnd == .rne
  else if src.isFloat && dst.isInt then true
  else if src.isInt && dst.isFloat then !sat
  else if src.isFloat && dst.isFloat then
    !sat && (rnd == .rne || !(src == dst || dst == .fp32))
  else false

/-- Rounding is accepted only by a float ADD (R168, R179). -/
def redRndOk (op : RedOp) (ty : ElemTy) (rnd : Rnd) : Bool :=
  rnd == .rne || (ty.isFloat && op == .add)

/-- An optional operand is zero where the instruction does not read it (R168). -/
def Src.absent (s : Src) : Bool := s == Src.zero

/-- The well-formed terms. -/
def wellFormed : Instr → Bool
  | .add _ _ a b | .sub _ _ a b | .mul _ _ a b | .mulh _ _ _ a b | .div _ _ _ a b | .and _ _ a b | .or _ _ a b
  | .xor _ _ a b | .shl _ _ a b | .shr _ _ _ a b | .min _ _ _ a b | .max _ _ _ a b | .sel _ _ _ a b
  | .cmp _ _ _ _ a b | .waits _ a b | .waitm _ .w1 _ a b | .waitm _ .w2 _ a b | .waitm _ .w4 _ a b
  | .waitm _ .w8 _ a b | .mldr _ a b | .mwr _ a b | .cpbind _ a b | .cpsav _ a b | .cprst _ a b => a.ok && b.ok
  | .waitm _ _ _ _ _ => false
  | .addi _ _ a _ | .andi _ _ a _ | .ori _ _ a _ | .xori _ _ a _ | .shli _ _ a _ | .shri _ _ _ a _ | .clz _ _ a
  | .popc _ _ a | .movh _ _ a _ | .cmpi _ _ _ _ a _ | .bri _ a | .monitor _ a | .mbx _ _ a _ | .mbxw _ a _
  | .wrsr _ a _ | .jraise _ a | .mset _ _ a | .mrd _ _ a | .cpinvLayer _ a | .cpqry _ _ a => a.ok
  | .ext _ _ _ a pos len1 | .ins _ _ a pos len1 => a.ok && fieldOk pos len1
  | .lds _ _ _ base _ => base.ok
  | .sts _ w _ base _ => base.ok && w.plain
  | .stp _ w _ _ => w.plain
  | .ldg _ _ o _ base _ => base.ok && o.loadOk
  | .stg _ w o _ base _ => base.ok && w.plain && o.storeOk
  | .amo _ _ w _ _ _ base _ | .acas _ w _ _ _ base _ => base.ok && w.plain
  | .red _ op w o _ base _ => base.ok && w.plain && o.storeOk && op != .swap
  | .vadd _ ty _ _ _ a b | .vsub _ ty _ _ _ a b | .vmul _ ty _ _ _ a b | .vmulh _ ty _ _ a b | .vmin _ ty _ _ a b
  | .vmax _ ty _ _ a b | .vand _ ty _ _ a b | .vor _ ty _ _ a b | .vxor _ ty _ _ a b | .vshl _ ty _ _ _ a b
  | .vshr _ ty _ _ a b | .vcmp _ _ ty _ _ a b => ty.isInt && a.ok && b.ok
  | .vabs _ ty _ _ _ a => ty.isSignedInt && a.ok
  | .vsel _ ty _ _ a b | .vext _ ty _ a b | .vins _ ty _ a b => ty.isAny && a.ok && b.ok
  | .vmov _ ty _ _ a | .vbcast _ ty _ _ a => ty.isAny && a.ok
  | .vperm _ ty two _ _ a b c =>
      ty.isAny && a.ok && b.ok && (if two then c.ok && ty.bits != 8 else c.absent)
  | .vred _ op ty rnd _ _ a | .vscan _ op ty rnd _ _ a => ty.isAny && a.ok && redRndOk op ty rnd
  | .vfadd _ ty _ _ _ a b | .vfsub _ ty _ _ _ a b | .vfmul _ ty _ _ _ a b | .vfmin _ ty _ _ a b
  | .vfmax _ ty _ _ a b | .vfcmpK _ _ ty _ _ a b | .vfcmpP _ _ ty _ _ _ a b | .vfdiv _ ty _ _ _ a b =>
      ty.isFloat && a.ok && b.ok
  | .vfma _ ty _ _ _ a b c => ty.isFloat && a.ok && b.ok && c.ok
  | .vcvt _ dst src rnd sat _ _ a => a.ok && cvtOk dst src rnd sat
  | .qnt _ ty _ _ _ a b => ty.isInt && ty.bits != 64 && a.ok && b.ok
  | .scacc _ ty _ _ _ _ a b c => (ty == .i32 || ty == .i40) && a.ok && b.ok && c.ok
  | .bsc _ ty p _ _ a => ty.isFloat && a.ok && p != 0
  | .pln _ ty _ _ a | .upl _ ty _ _ _ a => ty.isInt && a.ok
  | .tli _ ty _ _ _ _ _ a => ty.isFloat && a.ok
  | .vld _ ty _ _ _ _ | .vst _ ty _ _ _ _ | .vlds _ ty _ _ _ _ _ | .vsts _ ty _ _ _ _ _ => ty.isAny
  | .vgath _ ty _ _ _ _ _ | .vscat _ ty _ _ _ _ _ => ty == .i32 || ty == .u32
  | .vldp _ _ _ | .vstp _ _ _ => true
  | .kop _ op _ _ kb => op != .not || kb == 0
  | .vmadd _ ty _ _ _ a b c => ty.isInt && a.ok && b.ok && c.ok
  | .vpopc _ ty _ _ a | .vclz _ ty _ _ a => ty.isInt && a.ok
  | .vpack _ ty _ _ _ a b => ty.isInt && ty.bits != 64 && a.ok && b.ok
  | .vunpk _ ty _ _ _ a => ty.isInt && ty.bits != 8 && a.ok
  | .vfrnd _ ty _ _ _ a => ty.isFloat && a.ok
  | .rpt _ s _ => s.toNat ≤ 8
  | .bundleIssue | .resultLanding | .watchdog | .overlayPageIn | .tileFree | .nop _ | .movi _ _ _ | .pand _ _ _ _ _ _
  | .pset _ _ _ _ | .ldp _ _ _ _ | .ldgComplete | .storeQueuePerform _ | .fence _ _ _ | .br _ _
  | .brt _ _ _ _ _ _ _ | .call _ _ | .ret _ | .loop _ _ _ _ _ | .lbrk _ _ | .endTask _ | .monitorPollWake
  | .waitmTimeout | .next _ _ _ | .align _ _ | .bar _ _ _ | .barrierRelease _ | .rdsr _ _ _ | .trap _ _ | .yield _
  | .jdone _ | .tld _ _ _ _ | .mcall _ _ _ _ _ | .mcalld _ _ _ _ _ | .mget _ _ _ | .mzr _ | .mstat _ _ | .mdrn _
  | .cpinvAll _ | .cpy _ _ _ | .cpys _ _ _ _ | .board _ _ _ _ | .lapw _ _ | .xmit _ _ _ | .xsel _ _ _ | .xmitArrival
  | .swinit _ _ _ | .swadd _ _ _ | .swrd _ _ _ | .pref _ _ _ | .slch _ _ _ | .cdrn _ _ | .cstat _ _ _ | .ckill _ _
  | .killedJobRelease _ _ | .copyJobStart _ | .copyJobComplete _ _ | .copyJobRunFault _ _ | .s2tPacketHop _
  | .matrixJobStart | .panelLoadArrival | .mldrJob | .cpbindJob | .cpinvJob | .cpsavJob | .cprstJob
  | .coppiceBroadcastApply | .uopEnd | .uInit | .lda _ | .ldb _ | .pat _ | .step _ _ _ | .stepAll _ _ | .shacc
  | .padd _ | .paddImm _ _ | .zgt _ | .yld | .laneStep | .boardArm _ | .boardComplete _ | .lapMapPublish _ _
  | .pageWalk _ _ _ _ | .flashPageIn _ _ | .coldPageOut _ _ _ | .skidderTransferEnd _ _ | .snapshot _
  | .invalidationComplete _ | .eventRecordPost _ _ | .haltRequest _ | .tileHalt | .gangStopped _ _ | .contextSave _
  | .gangDiscard _ | .yarderBind _ _ _ _ _ | .gangStart _ | .gangResume _ | .sliceEnd _ | .priorityAgeing _ _
  | .publish _ _ | .retire _ _ | .openStream _ _ | .closeStream _ _ | .submit _ _ | .mboxw _ _ | .jpost _ _
  | .replyResume _ _ | .replyRestart _ _ | .replyEnd _ _ | .mappage _ _ | .reload _ _ | .sessionDefine _ _
  | .sessionRemove _ _ | .snapread _ _ | .snaprel _ _ | .quota _ _ | .enroll _ _ | .pool _ _ | .slots _ _ | .dump _ _
  | .pair _ _ | .accessOpen _ _ | .accessClose _ _ | .invalidateAll _ _ | .invalidateRange _ _ | .counterFlush _ _
  | .interfaceRegisterWrite _ _ _ | .lockedBarConfigWrite _ | .ideIntegrityFailure _ | .vfEnable _
  | .functionLevelReset _ | .windowRead _ _ _ | .windowWrite _ _ _ | .getTdispVersion _ | .getTdispCapabilities _
  | .lockInterfaceRequest _ | .getDeviceInterfaceReport _ | .getDeviceInterfaceState _ | .startInterfaceRequest _
  | .stopInterfaceRequest _ | .ideKm _ _ | .getVersion _ | .getCapabilities _ | .negotiateAlgorithms _ | .challenge _
  | .keyExchange _ | .getMeasurements _ | .peerAccess _ _ _ _ _ | .chinookLinkTraining _ _ | .chinookLinkDown _
  | .calmEntry | .doldrumsEntry | .wakeEvent | .throttleEngage | .throttleRelease | .clockStop | .clockRestart
  | .moduleStart | .rlen _ | .rdata _ | .rgo _ | .recoveryVerifyDone | .fatalError | .healthRecord _
  | .pcieCompletionTimeout | .unknownOp _ _ => true

end Sys2Proof
end

