-- ==== Sys2Proof/Decode.lean ====
section
/-! DEFINITION. Decoding of syllables, micro-ops and bundles, and the encoder: 02_encoding.md R39 to R54,
08_matrix.md R226. A word is split from its most significant field down, as R50 prints the formats. -/

namespace Sys2Proof

/-! ## Splitting and codes -/

/-- The top `m` of `m + n` bits. -/
def hiBits (m n : Nat) (x : BitVec (m + n)) : BitVec m := x.extractLsb' n m

/-- The low `n` of `m + n` bits. -/
def loBits (m n : Nat) (x : BitVec (m + n)) : BitVec n := x.extractLsb' 0 n

/-- A one-bit field as a Bool. -/
def isSet (b : BitVec 1) : Bool := b == 1

/-- A Bool as a one-bit field. -/
def bit (b : Bool) : BitVec 1 := if b then 1 else 0

/-- Why a word or a bundle is no instruction (R54). -/
inductive DecodeErr where
  | unassignedOpcode | classMismatch | reservedNonzero | reservedCode | notWellFormed
  | templateOrder | noStop | pointNotFirst
  deriving DecidableEq, Repr

/-- A check of R54: refuse with `e` unless `c`. -/
def require (c : Bool) (e : DecodeErr) (i : Instr) : Except DecodeErr Instr := if c then .ok i else .error e

/-- A code the tables may mark reserved. -/
def withCode {α : Type} (o : Option α) (k : α → Except DecodeErr Instr) : Except DecodeErr Instr :=
  match o with
  | some a => k a
  | none => .error .reservedCode

def ElemTy.ofCode (c : BitVec 4) : Option ElemTy :=
  match c.toNat with
  | 0 => some .i8 | 1 => some .i16 | 2 => some .i32 | 3 => some .i64
  | 4 => some .u8 | 5 => some .u16 | 6 => some .u32 | 7 => some .u64
  | 8 => some .bf16 | 9 => some .fp16 | 10 => some .fp32 | 12 => some .i40
  | _ => none

def ElemTy.code : ElemTy → BitVec 4
  | .i8 => 0 | .i16 => 1 | .i32 => 2 | .i64 => 3 | .u8 => 4 | .u16 => 5 | .u32 => 6 | .u64 => 7
  | .bf16 => 8 | .fp16 => 9 | .fp32 => 10 | .i40 => 12

def Rnd.ofCode (c : BitVec 2) : Rnd :=
  match c.toNat with
  | 0 => .rne | 1 => .rtz | 2 => .rdn | _ => .rup

def Rnd.code : Rnd → BitVec 2
  | .rne => 0 | .rtz => 1 | .rdn => 2 | .rup => 3

def Width.ofCode (c : BitVec 3) : Option Width :=
  match c.toNat with
  | 0 => some .w1 | 1 => some .w2 | 2 => some .w4 | 3 => some .w8 | 4 => some .s1 | 5 => some .s2 | 6 => some .s4
  | _ => none

def Width.code : Width → BitVec 3
  | .w1 => 0 | .w2 => 1 | .w4 => 2 | .w8 => 3 | .s1 => 4 | .s2 => 5 | .s4 => 6

def Order.ofCode (c : BitVec 2) : Order :=
  match c.toNat with
  | 0 => .rlx | 1 => .acq | 2 => .rel | _ => .ar

def Order.code : Order → BitVec 2
  | .rlx => 0 | .acq => 1 | .rel => 2 | .ar => 3

def FenceKind.ofCode (c : BitVec 2) : Option FenceKind :=
  match c.toNat with
  | 1 => some .acq | 2 => some .rel | 3 => some .full | _ => none

def FenceKind.code : FenceKind → BitVec 2
  | .acq => 1 | .rel => 2 | .full => 3

def Cond.ofCode (c : BitVec 3) : Cond :=
  match c.toNat with
  | 0 => .eq | 1 => .ne | 2 => .lt | 3 => .le | 4 => .gt | 5 => .ge | 6 => .ltu | _ => .geu

def Cond.code : Cond → BitVec 3
  | .eq => 0 | .ne => 1 | .lt => 2 | .le => 3 | .gt => 4 | .ge => 5 | .ltu => 6 | .geu => 7

def VCond.ofCode (c : BitVec 3) : Option VCond :=
  match c.toNat with
  | 0 => some .eq | 1 => some .ne | 2 => some .lt | 3 => some .le | 4 => some .gt | 5 => some .ge | _ => none

def VCond.code : VCond → BitVec 3
  | .eq => 0 | .ne => 1 | .lt => 2 | .le => 3 | .gt => 4 | .ge => 5

def FCond.ofCode (c : BitVec 3) : Option FCond :=
  match c.toNat with
  | 0 => some .eq | 1 => some .ne | 2 => some .lt | 3 => some .le | 4 => some .gt | 5 => some .ge | 6 => some .unord
  | _ => none

def FCond.code : FCond → BitVec 3
  | .eq => 0 | .ne => 1 | .lt => 2 | .le => 3 | .gt => 4 | .ge => 5 | .unord => 6

def MulhOp.ofCode (c : BitVec 3) : Option MulhOp :=
  match c.toNat with
  | 0 => some .s | 1 => some .u | 2 => some .su | _ => none

def MulhOp.code : MulhOp → BitVec 3
  | .s => 0 | .u => 1 | .su => 2

def DivOp.ofCode (c : BitVec 3) : Option DivOp :=
  match c.toNat with
  | 0 => some .s | 1 => some .u | 2 => some .rems | 3 => some .remu | _ => none

def DivOp.code : DivOp → BitVec 3
  | .s => 0 | .u => 1 | .rems => 2 | .remu => 3

def PandOp.ofCode (c : BitVec 3) : Option PandOp :=
  match c.toNat with
  | 0 => some .and | 1 => some .nb | 2 => some .or | 3 => some .xor | _ => none

def PandOp.code : PandOp → BitVec 3
  | .and => 0 | .nb => 1 | .or => 2 | .xor => 3

def AmoOp.ofCode (c : BitVec 4) : Option AmoOp :=
  match c.toNat with
  | 0 => some .swap | 1 => some .add | 2 => some .and | 3 => some .or | 4 => some .xor | 5 => some .min
  | 6 => some .max | 7 => some .minu | 8 => some .maxu | _ => none

def AmoOp.code : AmoOp → BitVec 4
  | .swap => 0 | .add => 1 | .and => 2 | .or => 3 | .xor => 4 | .min => 5 | .max => 6 | .minu => 7 | .maxu => 8

def RedOp.ofCode (c : BitVec 2) : Option RedOp :=
  match c.toNat with
  | 0 => some .add | 1 => some .min | 2 => some .max | _ => none

def RedOp.code : RedOp → BitVec 2
  | .add => 0 | .min => 1 | .max => 2

def KopOp.ofCode (c : BitVec 3) : Option KopOp :=
  match c.toNat with
  | 0 => some .and | 1 => some .or | 2 => some .xor | 3 => some .andn | 4 => some .not | _ => none

def KopOp.code : KopOp → BitVec 3
  | .and => 0 | .or => 1 | .xor => 2 | .andn => 3 | .not => 4

def BarKind.ofCode (c : BitVec 2) : Option BarKind :=
  match c.toNat with
  | 0 => some .plain | 1 => some .open_ | 2 => some .close_ | _ => none

def BarKind.code : BarKind → BitVec 2
  | .plain => 0 | .open_ => 1 | .close_ => 2

def Dir.ofCode (c : BitVec 2) : Dir :=
  match c.toNat with
  | 0 => .north | 1 => .south | 2 => .east | _ => .west

def Dir.code : Dir → BitVec 2
  | .north => 0 | .south => 1 | .east => 2 | .west => 3

/-- The queue field of CDRN and CKILL: 0 to 3, or 15 (R53). -/
def QSel.ofCode (c : BitVec 4) : Option QSel :=
  if c.toNat < 4 then some (.one (c.setWidth 2)) else if c = 15 then some .all else none

def QSel.code : QSel → BitVec 4
  | .one q => q.setWidth 4
  | .all => 15

/-- flags[30:27] of BOARD: W, N, R, zero (R53). -/
def Window.ofCode (c : BitVec 2) : Option Window :=
  match c.toNat with
  | 0 => some .neither | 1 => some .nowait | 2 => some .wait | _ => none

def Window.code : Window → BitVec 2
  | .neither => 0 | .nowait => 1 | .wait => 2

def PaddTgt.ofCode (c : BitVec 2) : Option PaddTgt :=
  match c.toNat with
  | 0 => some .a | 1 => some .b | 2 => some .k | _ => none

def PaddTgt.code : PaddTgt → BitVec 2
  | .a => 0 | .b => 1 | .k => 2

/-- The scope code with the entry and displacement fields of SMEM (R50, R51). -/
def ScopeDisp.ofCode (sc : BitVec 3) (disp : BitVec 26) : Option ScopeDisp :=
  match sc.toNat with
  | 0 => some (.tile disp)
  | 1 => some (.group (hiBits 5 21 disp) (loBits 5 21 disp))
  | 2 => some (.region disp) | 3 => some (.device disp) | 4 => some (.system disp)
  | _ => none

def ScopeDisp.code : ScopeDisp → BitVec 3
  | .tile _ => 0 | .group _ _ => 1 | .region _ => 2 | .device _ => 3 | .system _ => 4

def ScopeDisp.field : ScopeDisp → BitVec 26
  | .tile d | .region d | .device d | .system d => d
  | .group e d => e ++ d

/-- The scope code with an entry field that is zero unless the scope is 1 (R50, R51). -/
def Scope.ofCode (sc : BitVec 3) (grp : BitVec 5) : Option Scope :=
  match sc.toNat with
  | 0 => if grp = 0 then some .tile else none
  | 1 => some (.group grp)
  | 2 => if grp = 0 then some .region else none
  | 3 => if grp = 0 then some .device else none
  | 4 => if grp = 0 then some .system else none
  | _ => none

def Scope.code : Scope → BitVec 3
  | .tile => 0 | .group _ => 1 | .region => 2 | .device => 3 | .system => 4

def Scope.entry : Scope → BitVec 5
  | .group e => e
  | _ => 0

/-! ## The syllable and its payload formats (R39, R50) -/

/-- A syllable's fields (R39). -/
structure Syllable where
  hdr  : Hdr
  tmpl : BitVec 2
  op   : BitVec 8
  pay  : BitVec 47
  deriving DecidableEq, Repr

def Syllable.pack (s : Syllable) : BitVec 64 :=
  bit s.hdr.stop ++ (s.tmpl ++ (bit s.hdr.pp ++ (s.hdr.guard ++ (s.op ++ s.pay))))

def Syllable.unpack (w : BitVec 64) : Syllable :=
  let r1 := loBits 1 63 w
  let r2 := loBits 2 61 r1
  let r3 := loBits 1 60 r2
  let r4 := loBits 5 55 r3
  { hdr := ⟨isSet (hiBits 1 63 w), isSet (hiBits 1 60 r2), hiBits 5 55 r3⟩
    tmpl := hiBits 2 61 r1
    op := hiBits 8 47 r4
    pay := loBits 8 47 r4 }

/-- SRR: d a b ha hb sub aux ext. -/
structure SRR where
  d   : BitVec 6
  a   : BitVec 6
  b   : BitVec 6
  ha  : BitVec 1
  hb  : BitVec 1
  sub : BitVec 3
  aux : BitVec 5
  ext : BitVec 19
  deriving DecidableEq, Repr

def SRR.pack (f : SRR) : BitVec 47 := f.d ++ (f.a ++ (f.b ++ (f.ha ++ (f.hb ++ (f.sub ++ (f.aux ++ f.ext))))))

def SRR.unpack (w : BitVec 47) : SRR :=
  let r1 := loBits 6 41 w
  let r2 := loBits 6 35 r1
  let r3 := loBits 6 29 r2
  let r4 := loBits 1 28 r3
  let r5 := loBits 1 27 r4
  let r6 := loBits 3 24 r5
  { d := hiBits 6 41 w, a := hiBits 6 35 r1, b := hiBits 6 29 r2, ha := hiBits 1 28 r3, hb := hiBits 1 27 r4
    sub := hiBits 3 24 r5, aux := hiBits 5 19 r6, ext := loBits 5 19 r6 }

/-- SRI: d a ha imm. -/
structure SRI where
  d   : BitVec 6
  a   : BitVec 6
  ha  : BitVec 1
  imm : BitVec 34
  deriving DecidableEq, Repr

def SRI.pack (f : SRI) : BitVec 47 := f.d ++ (f.a ++ (f.ha ++ f.imm))

def SRI.unpack (w : BitVec 47) : SRI :=
  let r1 := loBits 6 41 w
  let r2 := loBits 6 35 r1
  { d := hiBits 6 41 w, a := hiBits 6 35 r1, ha := hiBits 1 34 r2, imm := loBits 1 34 r2 }

/-- SRI-C: 0 pt a ha cond pc imm. -/
structure SRIC where
  z    : BitVec 1
  pt   : BitVec 5
  a    : BitVec 6
  ha   : BitVec 1
  cond : BitVec 3
  pc   : BitVec 5
  imm  : BitVec 26
  deriving DecidableEq, Repr

def SRIC.pack (f : SRIC) : BitVec 47 := f.z ++ (f.pt ++ (f.a ++ (f.ha ++ (f.cond ++ (f.pc ++ f.imm)))))

def SRIC.unpack (w : BitVec 47) : SRIC :=
  let r1 := loBits 1 46 w
  let r2 := loBits 5 41 r1
  let r3 := loBits 6 35 r2
  let r4 := loBits 1 34 r3
  let r5 := loBits 3 31 r4
  { z := hiBits 1 46 w, pt := hiBits 5 41 r1, a := hiBits 6 35 r2, ha := hiBits 1 34 r3, cond := hiBits 3 31 r4
    pc := hiBits 5 26 r5, imm := loBits 5 26 r5 }

/-- SBR-B: 0 disp. -/
structure SBRB where
  z    : BitVec 15
  disp : BitVec 32
  deriving DecidableEq, Repr

def SBRB.pack (f : SBRB) : BitVec 47 := f.z ++ f.disp

def SBRB.unpack (w : BitVec 47) : SBRB := { z := hiBits 15 32 w, disp := loBits 15 32 w }

/-- SBR-T: t0 t1 t2 t3 0 stride−1 disp. -/
structure SBRT where
  t0     : BitVec 5
  t1     : BitVec 5
  t2     : BitVec 5
  t3     : BitVec 5
  z      : BitVec 4
  stride : BitVec 3
  disp   : BitVec 20
  deriving DecidableEq, Repr

def SBRT.pack (f : SBRT) : BitVec 47 := f.t0 ++ (f.t1 ++ (f.t2 ++ (f.t3 ++ (f.z ++ (f.stride ++ f.disp)))))

def SBRT.unpack (w : BitVec 47) : SBRT :=
  let r1 := loBits 5 42 w
  let r2 := loBits 5 37 r1
  let r3 := loBits 5 32 r2
  let r4 := loBits 5 27 r3
  let r5 := loBits 4 23 r4
  { t0 := hiBits 5 42 w, t1 := hiBits 5 37 r1, t2 := hiBits 5 32 r2, t3 := hiBits 5 27 r3, z := hiBits 4 23 r4
    stride := hiBits 3 20 r5, disp := loBits 3 20 r5 }

/-- SLP: level count rotate len−1 0. -/
structure SLP where
  level  : BitVec 3
  count  : BitVec 6
  rotate : BitVec 1
  len1   : BitVec 6
  z      : BitVec 31
  deriving DecidableEq, Repr

def SLP.pack (f : SLP) : BitVec 47 := f.level ++ (f.count ++ (f.rotate ++ (f.len1 ++ f.z)))

def SLP.unpack (w : BitVec 47) : SLP :=
  let r1 := loBits 3 44 w
  let r2 := loBits 6 38 r1
  let r3 := loBits 1 37 r2
  { level := hiBits 3 44 w, count := hiBits 6 38 r1, rotate := hiBits 1 37 r2, len1 := hiBits 6 31 r3, z := loBits 6 31 r3 }

/-- SMEM: data base ha width scope order disp. -/
structure SMEM where
  data  : BitVec 6
  base  : BitVec 6
  ha    : BitVec 1
  width : BitVec 3
  scope : BitVec 3
  order : BitVec 2
  disp  : BitVec 26
  deriving DecidableEq, Repr

def SMEM.pack (f : SMEM) : BitVec 47 :=
  f.data ++ (f.base ++ (f.ha ++ (f.width ++ (f.scope ++ (f.order ++ f.disp)))))

def SMEM.unpack (w : BitVec 47) : SMEM :=
  let r1 := loBits 6 41 w
  let r2 := loBits 6 35 r1
  let r3 := loBits 1 34 r2
  let r4 := loBits 3 31 r3
  let r5 := loBits 3 28 r4
  { data := hiBits 6 41 w, base := hiBits 6 35 r1, ha := hiBits 1 34 r2, width := hiBits 3 31 r3, scope := hiBits 3 28 r4
    order := hiBits 2 26 r5, disp := loBits 2 26 r5 }

/-- SMEM-A: data base ha width scope order b op grp 0. -/
structure SMEMA where
  data  : BitVec 6
  base  : BitVec 6
  ha    : BitVec 1
  width : BitVec 3
  scope : BitVec 3
  order : BitVec 2
  b     : BitVec 6
  op    : BitVec 4
  grp   : BitVec 5
  z     : BitVec 11
  deriving DecidableEq, Repr

def SMEMA.pack (f : SMEMA) : BitVec 47 :=
  f.data ++ (f.base ++ (f.ha ++ (f.width ++ (f.scope ++ (f.order ++ (f.b ++ (f.op ++ (f.grp ++ f.z))))))))

def SMEMA.unpack (w : BitVec 47) : SMEMA :=
  let r1 := loBits 6 41 w
  let r2 := loBits 6 35 r1
  let r3 := loBits 1 34 r2
  let r4 := loBits 3 31 r3
  let r5 := loBits 3 28 r4
  let r6 := loBits 2 26 r5
  let r7 := loBits 6 20 r6
  let r8 := loBits 4 16 r7
  { data := hiBits 6 41 w, base := hiBits 6 35 r1, ha := hiBits 1 34 r2, width := hiBits 3 31 r3, scope := hiBits 3 28 r4
    order := hiBits 2 26 r5, b := hiBits 6 20 r6, op := hiBits 4 16 r7, grp := hiBits 5 11 r8, z := loBits 5 11 r8 }

/-- VRR: vd va vb vc ha hb hc k z type rnd sat sub. -/
structure VRR where
  vd  : BitVec 6
  va  : BitVec 6
  vb  : BitVec 6
  vc  : BitVec 6
  ha  : BitVec 1
  hb  : BitVec 1
  hc  : BitVec 1
  k   : BitVec 3
  z   : BitVec 1
  ty  : BitVec 4
  rnd : BitVec 2
  sat : BitVec 1
  sub : BitVec 9
  deriving DecidableEq, Repr

def VRR.pack (f : VRR) : BitVec 47 :=
  f.vd ++ (f.va ++ (f.vb ++ (f.vc ++ (f.ha ++ (f.hb ++ (f.hc ++ (f.k ++ (f.z ++ (f.ty ++ (f.rnd ++ (f.sat ++ f.sub)))))))))))

def VRR.unpack (w : BitVec 47) : VRR :=
  let r1 := loBits 6 41 w
  let r2 := loBits 6 35 r1
  let r3 := loBits 6 29 r2
  let r4 := loBits 6 23 r3
  let r5 := loBits 1 22 r4
  let r6 := loBits 1 21 r5
  let r7 := loBits 1 20 r6
  let r8 := loBits 3 17 r7
  let r9 := loBits 1 16 r8
  let r10 := loBits 4 12 r9
  let r11 := loBits 2 10 r10
  { vd := hiBits 6 41 w, va := hiBits 6 35 r1, vb := hiBits 6 29 r2, vc := hiBits 6 23 r3, ha := hiBits 1 22 r4
    hb := hiBits 1 21 r5, hc := hiBits 1 20 r6, k := hiBits 3 17 r7, z := hiBits 1 16 r8, ty := hiBits 4 12 r9
    rnd := hiBits 2 10 r10, sat := hiBits 1 9 r11, sub := loBits 1 9 r11 }

/-- VMEM: vd base index k type disp. -/
structure VMEM where
  vd    : BitVec 6
  base  : BitVec 6
  index : BitVec 6
  k     : BitVec 3
  ty    : BitVec 4
  disp  : BitVec 22
  deriving DecidableEq, Repr

def VMEM.pack (f : VMEM) : BitVec 47 := f.vd ++ (f.base ++ (f.index ++ (f.k ++ (f.ty ++ f.disp))))

def VMEM.unpack (w : BitVec 47) : VMEM :=
  let r1 := loBits 6 41 w
  let r2 := loBits 6 35 r1
  let r3 := loBits 6 29 r2
  let r4 := loBits 3 26 r3
  { vd := hiBits 6 41 w, base := hiBits 6 35 r1, index := hiBits 6 29 r2, k := hiBits 3 26 r3, ty := hiBits 4 22 r4
    disp := loBits 4 22 r4 }

/-- MC: routine tag pa−1 pb−1 0. -/
structure MC where
  routine : BitVec 8
  tag     : BitVec 8
  pa1     : BitVec 3
  pb1     : BitVec 3
  z       : BitVec 25
  deriving DecidableEq, Repr

def MC.pack (f : MC) : BitVec 47 := f.routine ++ (f.tag ++ (f.pa1 ++ (f.pb1 ++ f.z)))

def MC.unpack (w : BitVec 47) : MC :=
  let r1 := loBits 8 39 w
  let r2 := loBits 8 31 r1
  let r3 := loBits 3 28 r2
  { routine := hiBits 8 39 w, tag := hiBits 8 31 r1, pa1 := hiBits 3 28 r2, pb1 := hiBits 3 25 r3, z := loBits 3 25 r3 }

/-- CJ: card aux queue flags 0. -/
structure CJ where
  card  : BitVec 6
  aux   : BitVec 6
  queue : BitVec 4
  flags : BitVec 4
  z     : BitVec 27
  deriving DecidableEq, Repr

def CJ.pack (f : CJ) : BitVec 47 := f.card ++ (f.aux ++ (f.queue ++ (f.flags ++ f.z)))

def CJ.unpack (w : BitVec 47) : CJ :=
  let r1 := loBits 6 41 w
  let r2 := loBits 6 35 r1
  let r3 := loBits 4 31 r2
  { card := hiBits 6 41 w, aux := hiBits 6 35 r1, queue := hiBits 4 31 r2, flags := hiBits 4 27 r3, z := loBits 4 27 r3 }

/-! ## Decoding by class (the opcode tables of R53) -/

/-- SRR with sub fixed, aux and ext zero. -/
def SRR.plain (f : SRR) (sub : BitVec 3) : Bool := f.sub == sub && f.aux == 0 && f.ext == 0

/-- SRR with aux and ext zero and any sub. -/
def SRR.noAux (f : SRR) : Bool := f.aux == 0 && f.ext == 0

def SRR.srcA (f : SRR) : Src := ⟨f.a, isSet f.ha⟩
def SRR.srcB (f : SRR) : Src := ⟨f.b, isSet f.hb⟩
def SRR.noA (f : SRR) : Bool := f.a == 0 && f.ha == 0
def SRR.noB (f : SRR) : Bool := f.b == 0 && f.hb == 0
def SRI.srcA (f : SRI) : Src := ⟨f.a, isSet f.ha⟩
def SRI.noA (f : SRI) : Bool := f.a == 0 && f.ha == 0

/-- A 6-bit field that names a predicate: its top bit must be zero (R50). -/
def predTop (f : BitVec 6) : Bool := f.extractLsb' 5 1 == 0
def predLow (f : BitVec 6) : BitVec 5 := f.extractLsb' 0 5

/-- A 6-bit field that names a lane mask: its top bits must be zero (R50). -/
def maskTop (f : BitVec 6) : Bool := f.extractLsb' 3 3 == 0
def maskLow (f : BitVec 6) : BitVec 3 := f.extractLsb' 0 3

/-- Class S (R53). -/
def decodeS (h : Hdr) (op : BitVec 8) (w : BitVec 47) : Except DecodeErr Instr :=
  let f := SRR.unpack w
  let i := SRI.unpack w
  let m := SMEM.unpack w
  let z := DecodeErr.reservedNonzero
  let rr (mk : Reg → Src → Src → Instr) := require (f.plain 0) z (mk f.d f.srcA f.srcB)
  let ri (mk : Reg → Src → BitVec 34 → Instr) := require true z (mk i.d i.srcA i.imm)
  match op.toNat with
  | 0x00 => require (w == 0) z (.nop h)
  | 0x01 => rr (.add h)
  | 0x02 => ri (.addi h)
  | 0x03 => rr (.sub h)
  | 0x04 => rr (.mul h)
  | 0x05 => withCode (MulhOp.ofCode f.sub) fun o => require f.noAux z (.mulh h o f.d f.srcA f.srcB)
  | 0x06 => withCode (DivOp.ofCode f.sub) fun o => require f.noAux z (.div h o f.d f.srcA f.srcB)
  | 0x07 => rr (.and h)
  | 0x08 => ri (.andi h)
  | 0x09 => rr (.or h)
  | 0x0A => ri (.ori h)
  | 0x0B => rr (.xor h)
  | 0x0C => ri (.xori h)
  | 0x0D => rr (.shl h)
  | 0x0E => require (f.noAux && f.sub.extractLsb' 1 2 == 0) z (.shr h (isSet (f.sub.extractLsb' 0 1)) f.d f.srcA f.srcB)
  | 0x0F => require (hiBits 28 6 i.imm == 0) z (.shli h i.d i.srcA (loBits 28 6 i.imm))
  | 0x10 =>
    let r := loBits 27 7 i.imm
    require (hiBits 27 7 i.imm == 0) z (.shri h (isSet (hiBits 1 6 r)) i.d i.srcA (loBits 1 6 r))
  | 0x11 => require (f.noAux && f.sub.extractLsb' 1 2 == 0) z (.min h (isSet (f.sub.extractLsb' 0 1)) f.d f.srcA f.srcB)
  | 0x12 => require (f.noAux && f.sub.extractLsb' 1 2 == 0) z (.max h (isSet (f.sub.extractLsb' 0 1)) f.d f.srcA f.srcB)
  | 0x13 => require (f.plain 0 && f.noB) z (.clz h f.d f.srcA)
  | 0x14 => require (f.plain 0 && f.noB) z (.popc h f.d f.srcA)
  | 0x15 =>
    let r1 := loBits 6 13 f.ext
    require (f.aux == 0 && f.noB && f.sub.extractLsb' 1 2 == 0 && loBits 6 7 r1 == 0) z
      (.ext h (isSet (f.sub.extractLsb' 0 1)) f.d f.srcA (hiBits 6 13 f.ext) (hiBits 6 7 r1))
  | 0x16 =>
    let r1 := loBits 6 13 f.ext
    require (f.aux == 0 && f.noB && f.sub == 0 && loBits 6 7 r1 == 0) z
      (.ins h f.d f.srcA (hiBits 6 13 f.ext) (hiBits 6 7 r1))
  | 0x17 => require i.noA z (.movi h i.d i.imm)
  | 0x18 => require (hiBits 2 32 i.imm == 0) z (.movh h i.d i.srcA (loBits 2 32 i.imm))
  | 0x19 => require (f.sub == 0 && f.ext == 0) z (.sel h f.d f.aux f.srcA f.srcB)
  | 0x1A => require (f.ext == 0 && predTop f.d) z (.cmp h (Cond.ofCode f.sub) (predLow f.d) f.aux f.srcA f.srcB)
  | 0x1B =>
    let c := SRIC.unpack w
    require (c.z == 0) z (.cmpi h (Cond.ofCode c.cond) c.pt c.pc ⟨c.a, isSet c.ha⟩ c.imm)
  | 0x1C => withCode (PandOp.ofCode f.sub) fun o =>
    require (f.ext == 0 && predTop f.d && predTop f.a && predTop f.b && f.ha == 0 && f.hb == 0) z
      (.pand h o (predLow f.d) f.aux (predLow f.a) (predLow f.b))
  | 0x1D => withCode (Width.ofCode m.width) fun wd =>
    require (m.scope == 0 && m.order == 0) z (.lds h wd m.data ⟨m.base, isSet m.ha⟩ m.disp)
  | 0x1E => withCode (Width.ofCode m.width) fun wd =>
    require (m.scope == 0 && m.order == 0) z (.sts h wd m.data ⟨m.base, isSet m.ha⟩ m.disp)
  | 0x1F => withCode (Width.ofCode m.width) fun wd =>
    require (m.scope == 0 && m.order == 0 && m.base == 0 && m.ha == 0 && hiBits 12 14 m.disp == 0) z
      (.ldp h wd m.data (loBits 12 14 m.disp))
  | 0x20 => withCode (Width.ofCode m.width) fun wd =>
    require (m.scope == 0 && m.order == 0 && m.base == 0 && m.ha == 0 && hiBits 12 14 m.disp == 0) z
      (.stp h wd m.data (loBits 12 14 m.disp))
  | 0x21 => withCode (Width.ofCode m.width) fun wd => withCode (ScopeDisp.ofCode m.scope m.disp) fun sd =>
    require true z (.ldg h wd (Order.ofCode m.order) m.data ⟨m.base, isSet m.ha⟩ sd)
  | 0x22 => withCode (Width.ofCode m.width) fun wd => withCode (ScopeDisp.ofCode m.scope m.disp) fun sd =>
    require true z (.stg h wd (Order.ofCode m.order) m.data ⟨m.base, isSet m.ha⟩ sd)
  | 0x23 =>
    let a := SMEMA.unpack w
    withCode (Width.ofCode a.width) fun wd => withCode (AmoOp.ofCode a.op) fun o => withCode (Scope.ofCode a.scope a.grp) fun sc =>
      require (a.z == 0) z (.amo h o wd (Order.ofCode a.order) sc a.data ⟨a.base, isSet a.ha⟩ a.b)
  | 0x24 =>
    let a := SMEMA.unpack w
    withCode (Width.ofCode a.width) fun wd => withCode (Scope.ofCode a.scope a.grp) fun sc =>
      require (a.z == 0 && a.op == 0) z (.acas h wd (Order.ofCode a.order) sc a.data ⟨a.base, isSet a.ha⟩ a.b)
  | 0x25 =>
    let a := SMEMA.unpack w
    withCode (Width.ofCode a.width) fun wd => withCode (AmoOp.ofCode a.op) fun o => withCode (Scope.ofCode a.scope a.grp) fun sc =>
      require (a.z == 0 && a.data == 0) z (.red h o wd (Order.ofCode a.order) sc ⟨a.base, isSet a.ha⟩ a.b)
  | 0x26 => withCode (FenceKind.ofCode m.order) fun k => withCode (Scope.ofCode m.scope (hiBits 5 21 m.disp)) fun sc =>
    require (m.data == 0 && m.base == 0 && m.ha == 0 && m.width == 0 && loBits 5 21 m.disp == 0) z (.fence h k sc)
  | 0x27 => let b := SBRB.unpack w; require (b.z == 0) z (.br h b.disp)
  | 0x28 => let b := SBRT.unpack w; require (b.z == 0) z (.brt h b.t0 b.t1 b.t2 b.t3 b.stride b.disp)
  | 0x29 => require (f.plain 0 && f.d == 0 && f.noB) z (.bri h f.srcA)
  | 0x2A => let b := SBRB.unpack w; require (b.z == 0) z (.call h b.disp)
  | 0x2B => require (w == 0) z (.ret h)
  | 0x2C => let l := SLP.unpack w; require (l.z == 0) z (.loop h l.level l.count (isSet l.rotate) l.len1)
  | 0x2D => let l := SLP.unpack w; require (l.z == 0 && l.count == 0 && l.rotate == 0 && l.len1 == 0) z (.lbrk h l.level)
  | 0x2E => require (w == 0) z (.endTask h)
  | 0x2F => require (f.plain 0 && f.d == 0) z (.waits h f.srcA f.srcB)
  | 0x30 => require (f.plain 0 && f.d == 0 && f.noB) z (.monitor h f.srcA)
  | 0x31 => withCode (Width.ofCode f.sub) fun wd => require f.noAux z (.waitm h wd f.d f.srcA f.srcB)
  | 0x32 => require (hiBits 28 6 i.imm == 0) z (.mbx h i.d i.srcA (loBits 28 6 i.imm))
  | 0x33 => require (hiBits 30 4 i.imm == 0 && i.d == 0) z (.mbxw h i.srcA (loBits 30 4 i.imm))
  | 0x34 => require (f.sub == 0 && f.ext == 0 && f.noA && f.noB) z (.next h f.d f.aux)
  | 0x35 => require (f.noAux && f.d == 0 && f.noA && f.noB && f.sub.extractLsb' 1 2 == 0) z
      (.align h (isSet (f.sub.extractLsb' 0 1)))
  | 0x36 =>
    let r := loBits 27 7 i.imm
    withCode (BarKind.ofCode (hiBits 2 5 r)) fun k =>
      require (hiBits 27 7 i.imm == 0 && i.d == 0 && i.noA) z (.bar h k (loBits 2 5 r))
  | 0x37 => require (hiBits 26 8 i.imm == 0 && i.noA) z (.rdsr h i.d (loBits 26 8 i.imm))
  | 0x38 => require (hiBits 26 8 i.imm == 0 && i.d == 0) z (.wrsr h i.srcA (loBits 26 8 i.imm))
  | 0x39 => require (hiBits 18 16 i.imm == 0 && i.d == 0 && i.noA) z (.trap h (loBits 18 16 i.imm))
  | 0x3A => require (w == 0) z (.yield h)
  | 0x3B => require (f.ext == 0 && f.noA && f.noB && predTop f.d && f.sub.extractLsb' 1 2 == 0) z
      (.pset h (isSet (f.sub.extractLsb' 0 1)) (predLow f.d) f.aux)
  | 0x3C => require (f.plain 0 && f.d == 0 && f.noB) z (.jraise h f.srcA)
  | 0x3D => require (w == 0) z (.jdone h)
  | _ => .error .unassignedOpcode

def VRR.srcA (f : VRR) : Src := ⟨f.va, isSet f.ha⟩
def VRR.srcB (f : VRR) : Src := ⟨f.vb, isSet f.hb⟩
def VRR.srcC (f : VRR) : Src := ⟨f.vc, isSet f.hc⟩
def VRR.mask (f : VRR) : VMask := ⟨f.k, isSet f.z⟩
def VRR.noB (f : VRR) : Bool := f.vb == 0 && f.hb == 0
def VRR.noC (f : VRR) : Bool := f.vc == 0 && f.hc == 0
def VRR.noRnd (f : VRR) : Bool := f.rnd == 0
def VRR.noSat (f : VRR) : Bool := f.sat == 0
def VRR.noZ (f : VRR) : Bool := f.z == 0
def VRR.noSub (f : VRR) : Bool := f.sub == 0

/-- Class V (R53, R168). -/
def decodeV (h : Hdr) (op : BitVec 8) (w : BitVec 47) : Except DecodeErr Instr :=
  let f := VRR.unpack w
  let m := VMEM.unpack w
  let z := DecodeErr.reservedNonzero
  let rnd := Rnd.ofCode f.rnd
  -- two and one source integer forms, with and without the saturate bit
  let bin (mk : ElemTy → VMask → Reg → Src → Src → Instr) := withCode (ElemTy.ofCode f.ty) fun t =>
    require (f.noC && f.noRnd && f.noSat && f.noSub) z (mk t f.mask f.vd f.srcA f.srcB)
  let binS (mk : ElemTy → Bool → VMask → Reg → Src → Src → Instr) := withCode (ElemTy.ofCode f.ty) fun t =>
    require (f.noC && f.noRnd && f.noSub) z (mk t (isSet f.sat) f.mask f.vd f.srcA f.srcB)
  let un (mk : ElemTy → VMask → Reg → Src → Instr) := withCode (ElemTy.ofCode f.ty) fun t =>
    require (f.noB && f.noC && f.noRnd && f.noSat && f.noSub) z (mk t f.mask f.vd f.srcA)
  let fbin (mk : ElemTy → Rnd → VMask → Reg → Src → Src → Instr) := withCode (ElemTy.ofCode f.ty) fun t =>
    require (f.noC && f.noSat && f.noSub) z (mk t rnd f.mask f.vd f.srcA f.srcB)
  let red (mk : RedOp → ElemTy → Rnd → BitVec 3 → Reg → Src → Instr) := withCode (ElemTy.ofCode f.ty) fun t =>
    withCode (RedOp.ofCode (loBits 7 2 f.sub)) fun o =>
      require (f.noB && f.noC && f.noSat && f.noZ && hiBits 7 2 f.sub == 0) z (mk o t rnd f.k f.vd f.srcA)
  match op.toNat with
  | 0x40 => binS (.vadd h)
  | 0x41 => binS (.vsub h)
  | 0x42 => binS (.vmul h)
  | 0x43 => bin (.vmulh h)
  | 0x44 => bin (.vmin h)
  | 0x45 => bin (.vmax h)
  | 0x46 => bin (.vand h)
  | 0x47 => bin (.vor h)
  | 0x48 => bin (.vxor h)
  | 0x49 => binS (.vshl h)
  | 0x4A => bin (.vshr h)
  | 0x4B => withCode (ElemTy.ofCode f.ty) fun t =>
    require (f.noB && f.noC && f.noRnd && f.noSub) z (.vabs h t (isSet f.sat) f.mask f.vd f.srcA)
  | 0x4C => withCode (ElemTy.ofCode f.ty) fun t => withCode (VCond.ofCode (loBits 6 3 f.sub)) fun c =>
    require (f.noC && f.noRnd && f.noSat && f.noZ && hiBits 6 3 f.sub == 0 && maskTop f.vd) z
      (.vcmp h c t f.k (maskLow f.vd) f.srcA f.srcB)
  | 0x4D => withCode (ElemTy.ofCode f.ty) fun t =>
    require (f.noC && f.noRnd && f.noSat && f.noZ && f.noSub) z (.vsel h t f.k f.vd f.srcA f.srcB)
  | 0x4E => un (.vmov h)
  | 0x4F => un (.vbcast h)
  | 0x50 => withCode (ElemTy.ofCode f.ty) fun t =>
    require (f.noC && f.noRnd && f.noSat && f.noZ && f.noSub && f.k == 0) z (.vext h t f.vd f.srcA f.srcB)
  | 0x51 => withCode (ElemTy.ofCode f.ty) fun t =>
    require (f.noC && f.noRnd && f.noSat && f.noZ && f.noSub && f.k == 0) z (.vins h t f.vd f.srcA f.srcB)
  | 0x52 => withCode (ElemTy.ofCode f.ty) fun t =>
    require (f.noRnd && f.noSat && hiBits 8 1 f.sub == 0) z
      (.vperm h t (isSet (loBits 8 1 f.sub)) f.mask f.vd f.srcA f.srcB f.srcC)
  | 0x53 => red (.vred h)
  | 0x54 => red (.vscan h)
  | 0x55 => fbin (.vfadd h)
  | 0x56 => fbin (.vfsub h)
  | 0x57 => fbin (.vfmul h)
  | 0x58 => withCode (ElemTy.ofCode f.ty) fun t =>
    require (f.noSat && f.noSub) z (.vfma h t rnd f.mask f.vd f.srcA f.srcB f.srcC)
  | 0x59 => bin (.vfmin h)
  | 0x5A => bin (.vfmax h)
  | 0x5B =>
    let r := loBits 5 4 f.sub
    withCode (ElemTy.ofCode f.ty) fun t => withCode (FCond.ofCode (loBits 1 3 r)) fun c =>
      if isSet (hiBits 1 3 r) then
        require (f.noRnd && f.noSat && f.noZ && hiBits 5 4 f.sub == 0 && predTop f.vd && predTop f.vc && f.hc == 0) z
          (.vfcmpP h c t f.k (predLow f.vd) (predLow f.vc) f.srcA f.srcB)
      else
        require (f.noC && f.noRnd && f.noSat && f.noZ && hiBits 5 4 f.sub == 0 && maskTop f.vd) z
          (.vfcmpK h c t f.k (maskLow f.vd) f.srcA f.srcB)
  | 0x5C => fbin (.vfdiv h)
  | 0x5D => withCode (ElemTy.ofCode f.ty) fun t => withCode (ElemTy.ofCode (loBits 5 4 f.sub)) fun s =>
    require (f.noB && f.noC && hiBits 5 4 f.sub == 0) z (.vcvt h t s rnd (isSet f.sat) f.mask f.vd f.srcA)
  | 0x5E => fbin (.qnt h)
  | 0x5F => withCode (ElemTy.ofCode f.ty) fun t =>
    require (f.noSat && f.noZ && hiBits 4 5 f.sub == 0) z (.scacc h t rnd f.k (loBits 4 5 f.sub) f.vd f.srcA f.srcB f.srcC)
  | 0x60 => withCode (ElemTy.ofCode f.ty) fun t =>
    require (f.noB && f.noC && f.noRnd && f.noSat && f.noZ && hiBits 6 3 f.sub == 0) z
      (.bsc h t (loBits 6 3 f.sub) f.k f.vd f.srcA)
  | 0x61 => withCode (ElemTy.ofCode f.ty) fun t =>
    require (f.noB && f.noC && f.noRnd && f.noSat && f.noZ && f.k == 0 && hiBits 6 3 f.sub == 0) z
      (.pln h t (loBits 6 3 f.sub) f.vd f.srcA)
  | 0x62 =>
    let r := loBits 5 4 f.sub
    withCode (ElemTy.ofCode f.ty) fun t =>
      require (f.noB && f.noC && f.noRnd && f.noSat && f.noZ && f.k == 0 && hiBits 5 4 f.sub == 0) z
        (.upl h t (loBits 1 3 r) (isSet (hiBits 1 3 r)) f.vd f.srcA)
  | 0x63 => require (hiBits 4 2 m.vd == 0 && m.index == 0 && m.k == 0 && m.ty == 0) z
      (.tld h (loBits 4 2 m.vd) m.base m.disp)
  | 0x64 => withCode (ElemTy.ofCode f.ty) fun t =>
    require (f.noB && f.noC && hiBits 7 2 f.sub == 0) z
      (.tli h t rnd (isSet f.sat) f.mask (loBits 7 2 f.sub) f.vd f.srcA)
  | 0x65 => withCode (ElemTy.ofCode m.ty) fun t => require (m.index == 0) z (.vld h t m.k m.vd m.base m.disp)
  | 0x66 => withCode (ElemTy.ofCode m.ty) fun t => require (m.index == 0) z (.vst h t m.k m.vd m.base m.disp)
  | 0x67 => withCode (ElemTy.ofCode m.ty) fun t => require true z (.vlds h t m.k m.vd m.base m.index m.disp)
  | 0x68 => withCode (ElemTy.ofCode m.ty) fun t => require true z (.vsts h t m.k m.vd m.base m.index m.disp)
  | 0x69 => withCode (ElemTy.ofCode m.ty) fun t => require true z (.vgath h t m.k m.vd m.base m.index m.disp)
  | 0x6A => withCode (ElemTy.ofCode m.ty) fun t => require true z (.vscat h t m.k m.vd m.base m.index m.disp)
  | 0x6B =>
    let r := loBits 8 14 m.disp
    require (m.base == 0 && m.index == 0 && m.k == 0 && m.ty == 0 && hiBits 8 14 m.disp == 0 && loBits 6 8 r == 0) z
      (.vldp h m.vd (hiBits 6 8 r))
  | 0x6C =>
    let r := loBits 8 14 m.disp
    require (m.base == 0 && m.index == 0 && m.k == 0 && m.ty == 0 && hiBits 8 14 m.disp == 0 && loBits 6 8 r == 0) z
      (.vstp h m.vd (hiBits 6 8 r))
  | 0x6D => withCode (KopOp.ofCode (loBits 6 3 f.sub)) fun o =>
    require (f.ty == 0 && f.noC && f.noRnd && f.noSat && f.noZ && f.k == 0 && hiBits 6 3 f.sub == 0 && f.ha == 0 && f.hb == 0
        && maskTop f.vd && maskTop f.va && maskTop f.vb) z
      (.kop h o (maskLow f.vd) (maskLow f.va) (maskLow f.vb))
  | 0x6E => withCode (ElemTy.ofCode f.ty) fun t =>
    require (f.noRnd && f.noSub) z (.vmadd h t (isSet f.sat) f.mask f.vd f.srcA f.srcB f.srcC)
  | 0x6F => un (.vpopc h)
  | 0x70 => un (.vclz h)
  | 0x71 => binS (.vpack h)
  | 0x72 => withCode (ElemTy.ofCode f.ty) fun t =>
    require (f.noB && f.noC && f.noRnd && f.noSat && hiBits 8 1 f.sub == 0) z
      (.vunpk h t (isSet (loBits 8 1 f.sub)) f.mask f.vd f.srcA)
  | 0x73 => withCode (ElemTy.ofCode f.ty) fun t =>
    require (f.noB && f.noC && f.noSat && f.noSub) z (.vfrnd h t rnd f.mask f.vd f.srcA)
  | _ => .error .unassignedOpcode

/-- Class M (R53). -/
def decodeM (h : Hdr) (op : BitVec 8) (w : BitVec 47) : Except DecodeErr Instr :=
  let f := SRR.unpack w
  let c := MC.unpack w
  let z := DecodeErr.reservedNonzero
  match op.toNat with
  | 0x80 => require (c.z == 0) z (.mcall h c.routine c.tag c.pa1 c.pb1)
  | 0x81 => require (c.z == 0) z (.mcalld h c.routine c.tag c.pa1 c.pb1)
  | 0x82 => require (f.plain 0 && f.d == 0) z (.mldr h f.srcA f.srcB)
  | 0x83 => require (f.plain 0 && f.noB && hiBits 3 3 f.d == 0) z (.mset h (loBits 3 3 f.d) f.srcA)
  | 0x84 => require (f.plain 0 && f.noB && hiBits 3 3 f.a == 0 && f.ha == 0) z (.mget h f.d (loBits 3 3 f.a))
  | 0x85 => require (w == 0) z (.mzr h)
  | 0x86 => require (f.plain 0 && f.noB) z (.mrd h f.d f.srcA)
  | 0x87 => require (f.plain 0 && f.d == 0) z (.mwr h f.srcA f.srcB)
  | 0x88 => require (f.plain 0 && f.noA && f.noB) z (.mstat h f.d)
  | 0x89 => require (w == 0) z (.mdrn h)
  | 0x8A => require (f.plain 0 && f.d == 0) z (.cpbind h f.srcA f.srcB)
  | 0x8B =>
    if f.sub = 0 then require (f.plain 0 && f.d == 0 && f.noB) z (.cpinvLayer h f.srcA)
    else require (f.plain 1 && f.d == 0 && f.noA && f.noB) z (.cpinvAll h)
  | 0x8C => require (f.plain 0 && f.d == 0) z (.cpsav h f.srcA f.srcB)
  | 0x8D => require (f.plain 0 && f.d == 0) z (.cprst h f.srcA f.srcB)
  | 0x8E => require (f.plain 0 && f.noB) z (.cpqry h f.d f.srcA)
  | _ => .error .unassignedOpcode

/-- Class C (R53). -/
def decodeC (h : Hdr) (op : BitVec 8) (w : BitVec 47) : Except DecodeErr Instr :=
  let c := CJ.unpack w
  let z := DecodeErr.reservedNonzero
  let q2 := loBits 2 2 c.queue
  let qTop := hiBits 2 2 c.queue == 0
  match op.toNat with
  | 0xC0 => require (c.z == 0 && c.aux == 0 && c.flags == 0 && qTop) z (.cpy h c.card q2)
  | 0xC1 => require (c.z == 0 && c.flags == 0 && qTop) z (.cpys h c.card c.aux q2)
  | 0xC2 =>
    let r := loBits 2 2 c.flags
    withCode (Window.ofCode (hiBits 2 2 c.flags)) fun wn =>
      require (c.z == 0 && c.aux == 0 && c.queue == 0 && loBits 1 1 r == 0) z (.board h wn (isSet (hiBits 1 1 r)) c.card)
  | 0xC3 => require (c.z == 0 && c.card == 0 && c.queue == 0 && c.flags == 0) z (.lapw h c.aux)
  | 0xC4 => require (c.z == 0 && c.aux == 0 && c.flags == 0 && qTop) z (.xmit h (Dir.ofCode q2) c.card)
  | 0xC5 => require (c.z == 0 && c.aux == 0 && c.flags == 0 && qTop) z (.xsel h (Dir.ofCode q2) c.card)
  | 0xC6 => require (c.z == 0 && c.queue == 0 && c.flags == 0) z (.swinit h c.card c.aux)
  | 0xC7 => require (c.z == 0 && c.queue == 0 && c.flags == 0) z (.swadd h c.card c.aux)
  | 0xC8 => require (c.z == 0 && c.queue == 0 && c.flags == 0) z (.swrd h c.card c.aux)
  | 0xC9 => require (c.z == 0 && c.queue == 0 && c.flags == 0) z (.pref h c.card c.aux)
  | 0xCA => require (c.z == 0 && c.queue == 0 && c.flags == 0) z (.slch h c.card c.aux)
  | 0xCB => withCode (QSel.ofCode c.queue) fun q => require (c.z == 0 && c.card == 0 && c.aux == 0 && c.flags == 0) z (.cdrn h q)
  | 0xCC => require (c.z == 0 && c.aux == 0 && c.flags == 0 && qTop) z (.cstat h c.card q2)
  | 0xCD => withCode (QSel.ofCode c.queue) fun q => require (c.z == 0 && c.card == 0 && c.aux == 0 && c.flags == 0) z (.ckill h q)
  | _ => .error .unassignedOpcode

/-- The instruction a syllable word denotes (R39, R53, R54). -/
def decodeSyllable (w : BitVec 64) : Except DecodeErr Instr :=
  let s := Syllable.unpack w
  if s.op.extractLsb' 6 2 ≠ s.tmpl then .error .classMismatch
  else
    let r :=
      match s.tmpl.toNat with
      | 0 => decodeS s.hdr s.op s.pay
      | 1 => decodeV s.hdr s.op s.pay
      | 2 => decodeM s.hdr s.op s.pay
      | _ => decodeC s.hdr s.op s.pay
    match r with
    | .ok i => if wellFormed i then .ok i else .error .notWellFormed
    | .error e => .error e

/-! ## Micro-ops (R226) -/

/-- The instruction a micro-op word denotes, or none where it is reserved or a bit not named is set (R226, R223 cause 6).
R226 names imm[23:0] of PADD for both forms and constrains it in neither, so form 0 ignores it (DEDUCED, log entry 13). -/
def decodeMicro (w : BitVec 32) : Option Instr :=
  let c := hiBits 5 27 w
  let r := loBits 5 27 w
  let b := hiBits 1 26 r
  let r1 := loBits 1 26 r
  match c.toNat with
  | 0x00 => if r = 0 then some .uopEnd else none
  | 0x01 => if r = 0 then some .uInit else none
  | 0x02 => if r1 = 0 then some (.lda b) else none
  | 0x03 => if r1 = 0 then some (.ldb b) else none
  | 0x04 => if r1 = 0 then some (.pat b) else none
  | 0x05 =>
    let r2 := loBits 1 25 r1
    let r3 := loBits 3 22 r2
    let p := hiBits 3 22 r2
    if loBits 1 21 r3 ≠ 0 then none
    else if isSet (hiBits 1 21 r3) then (if p = 0 then some (.stepAll b (hiBits 1 25 r1)) else none)
    else some (.step b (hiBits 1 25 r1) p)
  | 0x06 => if r = 0 then some .shacc else none
  | 0x07 =>
    let r2 := loBits 2 25 r
    match PaddTgt.ofCode (hiBits 2 25 r) with
    | none => none
    | some t =>
      if isSet (hiBits 1 24 r2) then some (.paddImm t (loBits 1 24 r2)) else some (.padd t)
  | 0x08 =>
    let r2 := loBits 4 22 r1
    let s := hiBits 4 22 r1
    if s.toNat ≤ 8 ∧ loBits 6 16 r2 = 0 then some (.rpt b s (hiBits 6 16 r2)) else none
  | 0x09 => if hiBits 15 12 r = 0 then some (.zgt (loBits 15 12 r)) else none
  | 0x0A => if r = 0 then some .yld else none
  | _ => none

/-! ## Bundles (R42, R54) -/

/-- The class rank of a syllable: 0 S, 1 V, 2 M, 3 C (R39). -/
def tmplOf (w : BitVec 64) : BitVec 2 := (Syllable.unpack w).tmpl

/-- Whether a syllable of rank `t` stands where a higher rank must (R42). -/
def rankFalls (prev : Option (BitVec 2)) (t : BitVec 2) : Bool :=
  match prev with
  | some p => decide (t ≤ p)
  | none => false

/-- The syllables of a bundle as fetched, from the rank that the next one must exceed. Fetch ends at the stop bit or the fourth
syllable (R45), so an empty list ends a bundle that never stopped. -/
def decodeFrom : Option (BitVec 2) → List (BitVec 64) → Except DecodeErr (List Instr)
  | _, [] => .error .noStop
  | prev, w :: ws =>
    let s := Syllable.unpack w
    if s.hdr.pp && prev.isSome then .error .pointNotFirst
    else if rankFalls prev s.tmpl then .error .templateOrder
    else
      match decodeSyllable w with
      | .error e => .error e
      | .ok i =>
        if s.hdr.stop then .ok [i]
        else
          match decodeFrom (some s.tmpl) ws with
          | .ok is => .ok (i :: is)
          | .error e => .error e

/-- The bundle whose fetched syllables are `ws` (R42). -/
def decodeBundle (ws : List (BitVec 64)) : Except DecodeErr (List Instr) := decodeFrom none ws

/-- The position and word of the first syllable that fails (R418, detail of ILLEGAL); the last one when the bundle
only lacks its stop bit. -/
def firstFailing : Option (BitVec 2) → Nat → List (BitVec 64) → Nat × BitVec 64
  | _, n, [] => (n, 0)
  | prev, n, w :: ws =>
    let s := Syllable.unpack w
    let bad := (s.hdr.pp && prev.isSome) || rankFalls prev s.tmpl
      || (match decodeSyllable w with | .ok _ => false | .error _ => true)
    if bad || s.hdr.stop || ws.isEmpty then (n, w) else firstFailing (some s.tmpl) (n + 1) ws

/-! ## The encoder -/

def syl (h : Hdr) (tmpl : BitVec 2) (op : BitVec 8) (pay : BitVec 47) : Option (BitVec 64) :=
  some (Syllable.pack { hdr := h, tmpl := tmpl, op := op, pay := pay })

def encRR (h : Hdr) (tmpl : BitVec 2) (op : BitVec 8) (d : BitVec 6) (a b : Src) (sub : BitVec 3 := 0) (aux : BitVec 5 := 0)
    (ext : BitVec 19 := 0) : Option (BitVec 64) :=
  syl h tmpl op (SRR.pack { d := d, a := a.r, b := b.r, ha := bit a.held, hb := bit b.held, sub := sub, aux := aux, ext := ext })

def encRI (h : Hdr) (op : BitVec 8) (d : BitVec 6) (a : Src) (imm : BitVec 34) : Option (BitVec 64) :=
  syl h 0 op (SRI.pack { d := d, a := a.r, ha := bit a.held, imm := imm })

def encMem (h : Hdr) (op : BitVec 8) (data : BitVec 6) (base : Src) (w : BitVec 3) (sc : BitVec 3) (o : BitVec 2)
    (disp : BitVec 26) : Option (BitVec 64) :=
  syl h 0 op (SMEM.pack { data := data, base := base.r, ha := bit base.held, width := w, scope := sc, order := o, disp := disp })

def encMemA (h : Hdr) (op : BitVec 8) (data : BitVec 6) (base : Src) (w : Width) (sc : Scope) (o : Order) (b : BitVec 6)
    (aop : BitVec 4) : Option (BitVec 64) :=
  syl h 0 op (SMEMA.pack
    { data := data, base := base.r, ha := bit base.held, width := w.code, scope := sc.code, order := o.code
      b := b, op := aop, grp := sc.entry, z := 0 })

def encV (h : Hdr) (op : BitVec 8) (ty : BitVec 4) (vd : BitVec 6) (a b c : Src) (k : BitVec 3) (z : Bool) (rnd : Rnd) (sat : Bool)
    (sub : BitVec 9) : Option (BitVec 64) :=
  syl h 1 op (VRR.pack
    { vd := vd, va := a.r, vb := b.r, vc := c.r, ha := bit a.held, hb := bit b.held, hc := bit c.held, k := k
      z := bit z, ty := ty, rnd := rnd.code, sat := bit sat, sub := sub })

/-- The common VRR form: no saturate, no rounding, sub zero. -/
def encVP (h : Hdr) (op : BitVec 8) (ty : ElemTy) (m : VMask) (vd : Reg) (a b c : Src) (rnd : Rnd := .rne) (sat : Bool := false) :
    Option (BitVec 64) :=
  encV h op ty.code vd a b c m.k m.z rnd sat 0

def encVM (h : Hdr) (op : BitVec 8) (ty : BitVec 4) (vd base index : BitVec 6) (k : BitVec 3) (disp : BitVec 22) : Option (BitVec 64) :=
  syl h 1 op (VMEM.pack { vd := vd, base := base, index := index, k := k, ty := ty, disp := disp })

def encC (h : Hdr) (op : BitVec 8) (card aux : BitVec 6) (queue flags : BitVec 4) : Option (BitVec 64) :=
  syl h 3 op (CJ.pack { card := card, aux := aux, queue := queue, flags := flags, z := 0 })

def predField (p : BitVec 5) : BitVec 6 := p.setWidth 6
def maskField (k : BitVec 3) : BitVec 6 := k.setWidth 6

/-- The word of a syllable (R39, R50, R53), none for a term that is no syllable. -/
def encodeSyllable : Instr → Option (BitVec 64)
  | .nop h => syl h 0 0x00 0
  | .add h d a b => encRR h 0 0x01 d a b
  | .addi h d a i => encRI h 0x02 d a i
  | .sub h d a b => encRR h 0 0x03 d a b
  | .mul h d a b => encRR h 0 0x04 d a b
  | .mulh h o d a b => encRR h 0 0x05 d a b o.code
  | .div h o d a b => encRR h 0 0x06 d a b o.code
  | .and h d a b => encRR h 0 0x07 d a b
  | .andi h d a i => encRI h 0x08 d a i
  | .or h d a b => encRR h 0 0x09 d a b
  | .ori h d a i => encRI h 0x0A d a i
  | .xor h d a b => encRR h 0 0x0B d a b
  | .xori h d a i => encRI h 0x0C d a i
  | .shl h d a b => encRR h 0 0x0D d a b
  | .shr h s d a b => encRR h 0 0x0E d a b ((bit s).setWidth 3)
  | .shli h d a n => encRI h 0x0F d a ((0 : BitVec 28) ++ n)
  | .shri h s d a n => encRI h 0x10 d a ((0 : BitVec 27) ++ (bit s ++ n))
  | .min h u d a b => encRR h 0 0x11 d a b ((bit u).setWidth 3)
  | .max h u d a b => encRR h 0 0x12 d a b ((bit u).setWidth 3)
  | .clz h d a => encRR h 0 0x13 d a .zero
  | .popc h d a => encRR h 0 0x14 d a .zero
  | .ext h s d a p l => encRR h 0 0x15 d a .zero ((bit s).setWidth 3) 0 (p ++ (l ++ (0 : BitVec 7)))
  | .ins h d a p l => encRR h 0 0x16 d a .zero 0 0 (p ++ (l ++ (0 : BitVec 7)))
  | .movi h d i => encRI h 0x17 d .zero i
  | .movh h d a i => encRI h 0x18 d a ((0 : BitVec 2) ++ i)
  | .sel h d p a b => encRR h 0 0x19 d a b 0 p
  | .cmp h c pd pe a b => encRR h 0 0x1A (predField pd) a b c.code pe
  | .cmpi h c pt pc a i =>
    syl h 0 0x1B (SRIC.pack { z := 0, pt := pt, a := a.r, ha := bit a.held, cond := c.code, pc := pc, imm := i })
  | .pand h o pd pe pa pb => encRR h 0 0x1C (predField pd) ⟨predField pa, false⟩ ⟨predField pb, false⟩ o.code pe
  | .lds h w d b x => encMem h 0x1D d b w.code 0 0 x
  | .sts h w s b x => encMem h 0x1E s b w.code 0 0 x
  | .ldp h w d x => encMem h 0x1F d .zero w.code 0 0 ((0 : BitVec 12) ++ x)
  | .stp h w s x => encMem h 0x20 s .zero w.code 0 0 ((0 : BitVec 12) ++ x)
  | .ldg h w o d b sd => encMem h 0x21 d b w.code sd.code o.code sd.field
  | .stg h w o s b sd => encMem h 0x22 s b w.code sd.code o.code sd.field
  | .amo h op w o sc d b x => encMemA h 0x23 d b w sc o x op.code
  | .acas h w o sc d b x => encMemA h 0x24 d b w sc o x 0
  | .red h op w o sc b x => encMemA h 0x25 0 b w sc o x op.code
  | .fence h k sc => encMem h 0x26 0 .zero 0 sc.code k.code (sc.entry ++ (0 : BitVec 21))
  | .br h x => syl h 0 0x27 (SBRB.pack { z := 0, disp := x })
  | .brt h t0 t1 t2 t3 s x => syl h 0 0x28 (SBRT.pack { t0 := t0, t1 := t1, t2 := t2, t3 := t3, z := 0, stride := s, disp := x })
  | .bri h a => encRR h 0 0x29 0 a .zero
  | .call h x => syl h 0 0x2A (SBRB.pack { z := 0, disp := x })
  | .ret h => syl h 0 0x2B 0
  | .loop h l c r n => syl h 0 0x2C (SLP.pack { level := l, count := c, rotate := bit r, len1 := n, z := 0 })
  | .lbrk h l => syl h 0 0x2D (SLP.pack { level := l, count := 0, rotate := 0, len1 := 0, z := 0 })
  | .endTask h => syl h 0 0x2E 0
  | .waits h a b => encRR h 0 0x2F 0 a b
  | .monitor h a => encRR h 0 0x30 0 a .zero
  | .waitm h w t a b => encRR h 0 0x31 t a b w.code
  | .mbx h d a i => encRI h 0x32 d a ((0 : BitVec 28) ++ i)
  | .mbxw h a i => encRI h 0x33 0 a ((0 : BitVec 30) ++ i)
  | .next h d p => encRR h 0 0x34 d .zero .zero 0 p
  | .align h p => encRR h 0 0x35 0 .zero .zero ((bit p).setWidth 3)
  | .bar h k e => encRI h 0x36 0 .zero ((0 : BitVec 27) ++ (k.code ++ e))
  | .rdsr h d i => encRI h 0x37 d .zero ((0 : BitVec 26) ++ i)
  | .wrsr h a i => encRI h 0x38 0 a ((0 : BitVec 26) ++ i)
  | .trap h c => encRI h 0x39 0 .zero ((0 : BitVec 18) ++ c)
  | .yield h => syl h 0 0x3A 0
  | .pset h v pd pe => encRR h 0 0x3B (predField pd) .zero .zero ((bit v).setWidth 3) pe
  | .jraise h a => encRR h 0 0x3C 0 a .zero
  | .jdone h => syl h 0 0x3D 0
  | .vadd h t s m d a b => encVP h 0x40 t m d a b .zero .rne s
  | .vsub h t s m d a b => encVP h 0x41 t m d a b .zero .rne s
  | .vmul h t s m d a b => encVP h 0x42 t m d a b .zero .rne s
  | .vmulh h t m d a b => encVP h 0x43 t m d a b .zero
  | .vmin h t m d a b => encVP h 0x44 t m d a b .zero
  | .vmax h t m d a b => encVP h 0x45 t m d a b .zero
  | .vand h t m d a b => encVP h 0x46 t m d a b .zero
  | .vor h t m d a b => encVP h 0x47 t m d a b .zero
  | .vxor h t m d a b => encVP h 0x48 t m d a b .zero
  | .vshl h t s m d a b => encVP h 0x49 t m d a b .zero .rne s
  | .vshr h t m d a b => encVP h 0x4A t m d a b .zero
  | .vabs h t s m d a => encVP h 0x4B t m d a .zero .zero .rne s
  | .vcmp h c t k kd a b => encV h 0x4C t.code (maskField kd) a b .zero k false .rne false ((0 : BitVec 6) ++ c.code)
  | .vsel h t k d a b => encV h 0x4D t.code d a b .zero k false .rne false 0
  | .vmov h t m d a => encVP h 0x4E t m d a .zero .zero
  | .vbcast h t m d a => encVP h 0x4F t m d a .zero .zero
  | .vext h t d a b => encV h 0x50 t.code d a b .zero 0 false .rne false 0
  | .vins h t d a b => encV h 0x51 t.code d a b .zero 0 false .rne false 0
  | .vperm h t two m d a b c => encV h 0x52 t.code d a b c m.k m.z .rne false ((0 : BitVec 8) ++ bit two)
  | .vred h o t r k d a => encV h 0x53 t.code d a .zero .zero k false r false ((0 : BitVec 7) ++ o.code)
  | .vscan h o t r k d a => encV h 0x54 t.code d a .zero .zero k false r false ((0 : BitVec 7) ++ o.code)
  | .vfadd h t r m d a b => encVP h 0x55 t m d a b .zero r
  | .vfsub h t r m d a b => encVP h 0x56 t m d a b .zero r
  | .vfmul h t r m d a b => encVP h 0x57 t m d a b .zero r
  | .vfma h t r m d a b c => encVP h 0x58 t m d a b c r
  | .vfmin h t m d a b => encVP h 0x59 t m d a b .zero
  | .vfmax h t m d a b => encVP h 0x5A t m d a b .zero
  | .vfcmpK h c t k kd a b => encV h 0x5B t.code (maskField kd) a b .zero k false .rne false ((0 : BitVec 5) ++ ((0 : BitVec 1) ++ c.code))
  | .vfcmpP h c t k pd pe a b =>
    encV h 0x5B t.code (predField pd) a b ⟨predField pe, false⟩ k false .rne false ((0 : BitVec 5) ++ ((1 : BitVec 1) ++ c.code))
  | .vfdiv h t r m d a b => encVP h 0x5C t m d a b .zero r
  | .vcvt h t s r st m d a => encV h 0x5D t.code d a .zero .zero m.k m.z r st ((0 : BitVec 5) ++ s.code)
  | .qnt h t r m d a b => encVP h 0x5E t m d a b .zero r
  | .scacc h t r k adj d a b c => encV h 0x5F t.code d a b c k false r false ((0 : BitVec 4) ++ adj)
  | .bsc h t p k d a => encV h 0x60 t.code d a .zero .zero k false .rne false ((0 : BitVec 6) ++ p)
  | .pln h t p d a => encV h 0x61 t.code d a .zero .zero 0 false .rne false ((0 : BitVec 6) ++ p)
  | .upl h t p u d a => encV h 0x62 t.code d a .zero .zero 0 false .rne false ((0 : BitVec 5) ++ (bit u ++ p))
  | .tld h t b x => encVM h 0x63 0 ((0 : BitVec 4) ++ t) b 0 0 x
  | .tli h t r s m tb d a => encV h 0x64 t.code d a .zero .zero m.k m.z r s ((0 : BitVec 7) ++ tb)
  | .vld h t k d b x => encVM h 0x65 t.code d b 0 k x
  | .vst h t k d b x => encVM h 0x66 t.code d b 0 k x
  | .vlds h t k d b s x => encVM h 0x67 t.code d b s k x
  | .vsts h t k d b s x => encVM h 0x68 t.code d b s k x
  | .vgath h t k d b s x => encVM h 0x69 t.code d b s k x
  | .vscat h t k d b s x => encVM h 0x6A t.code d b s k x
  | .vldp h d p => encVM h 0x6B 0 d 0 0 0 ((0 : BitVec 8) ++ (p ++ (0 : BitVec 8)))
  | .vstp h d p => encVM h 0x6C 0 d 0 0 0 ((0 : BitVec 8) ++ (p ++ (0 : BitVec 8)))
  | .kop h o kd ka kb =>
    encV h 0x6D 0 (maskField kd) ⟨maskField ka, false⟩ ⟨maskField kb, false⟩ .zero 0 false .rne false ((0 : BitVec 6) ++ o.code)
  | .vmadd h t s m d a b c => encVP h 0x6E t m d a b c .rne s
  | .vpopc h t m d a => encVP h 0x6F t m d a .zero .zero
  | .vclz h t m d a => encVP h 0x70 t m d a .zero .zero
  | .vpack h t s m d a b => encVP h 0x71 t m d a b .zero .rne s
  | .vunpk h t hi m d a => encV h 0x72 t.code d a .zero .zero m.k m.z .rne false ((0 : BitVec 8) ++ bit hi)
  | .vfrnd h t r m d a => encVP h 0x73 t m d a .zero .zero r
  | .mcall h r t pa pb => syl h 2 0x80 (MC.pack { routine := r, tag := t, pa1 := pa, pb1 := pb, z := 0 })
  | .mcalld h r t pa pb => syl h 2 0x81 (MC.pack { routine := r, tag := t, pa1 := pa, pb1 := pb, z := 0 })
  | .mldr h a b => encRR h 2 0x82 0 a b
  | .mset h mp a => encRR h 2 0x83 ((0 : BitVec 3) ++ mp) a .zero
  | .mget h d mp => encRR h 2 0x84 d ⟨(0 : BitVec 3) ++ mp, false⟩ .zero
  | .mzr h => syl h 2 0x85 0
  | .mrd h d a => encRR h 2 0x86 d a .zero
  | .mwr h a b => encRR h 2 0x87 0 a b
  | .mstat h d => encRR h 2 0x88 d .zero .zero
  | .mdrn h => syl h 2 0x89 0
  | .cpbind h a b => encRR h 2 0x8A 0 a b
  | .cpinvLayer h a => encRR h 2 0x8B 0 a .zero
  | .cpinvAll h => encRR h 2 0x8B 0 .zero .zero 1
  | .cpsav h a b => encRR h 2 0x8C 0 a b
  | .cprst h a b => encRR h 2 0x8D 0 a b
  | .cpqry h d a => encRR h 2 0x8E d a .zero
  | .cpy h c q => encC h 0xC0 c 0 ((0 : BitVec 2) ++ q) 0
  | .cpys h c a q => encC h 0xC1 c a ((0 : BitVec 2) ++ q) 0
  | .board h w r c => encC h 0xC2 c 0 0 (w.code ++ (bit r ++ (0 : BitVec 1)))
  | .lapw h a => encC h 0xC3 0 a 0 0
  | .xmit h d v => encC h 0xC4 v 0 ((0 : BitVec 2) ++ d.code) 0
  | .xsel h d v => encC h 0xC5 v 0 ((0 : BitVec 2) ++ d.code) 0
  | .swinit h c a => encC h 0xC6 c a 0 0
  | .swadd h c a => encC h 0xC7 c a 0 0
  | .swrd h c a => encC h 0xC8 c a 0 0
  | .pref h c a => encC h 0xC9 c a 0 0
  | .slch h c a => encC h 0xCA c a 0 0
  | .cdrn h q => encC h 0xCB 0 0 q.code 0
  | .cstat h d q => encC h 0xCC d 0 ((0 : BitVec 2) ++ q) 0
  | .ckill h q => encC h 0xCD 0 0 q.code 0
  | _ => none

/-- The word of a micro-op (R226), none for a term that is no micro-op. -/
def encodeMicro : Instr → Option (BitVec 32)
  | .uopEnd => some 0
  | .uInit => some ((1 : BitVec 5) ++ (0 : BitVec 27))
  | .lda b => some ((2 : BitVec 5) ++ (b ++ (0 : BitVec 26)))
  | .ldb b => some ((3 : BitVec 5) ++ (b ++ (0 : BitVec 26)))
  | .pat b => some ((4 : BitVec 5) ++ (b ++ (0 : BitVec 26)))
  | .step a b p => some ((5 : BitVec 5) ++ (a ++ (b ++ (p ++ ((0 : BitVec 1) ++ (0 : BitVec 21))))))
  | .stepAll a b => some ((5 : BitVec 5) ++ (a ++ (b ++ ((0 : BitVec 3) ++ ((1 : BitVec 1) ++ (0 : BitVec 21))))))
  | .shacc => some ((6 : BitVec 5) ++ (0 : BitVec 27))
  | .padd t => some ((7 : BitVec 5) ++ (t.code ++ ((0 : BitVec 1) ++ (0 : BitVec 24))))
  | .paddImm t i => some ((7 : BitVec 5) ++ (t.code ++ ((1 : BitVec 1) ++ i)))
  | .rpt c s l => some ((8 : BitVec 5) ++ (c ++ (s ++ (l ++ (0 : BitVec 16)))))
  | .zgt t => some ((9 : BitVec 5) ++ ((0 : BitVec 15) ++ t))
  | .yld => some ((10 : BitVec 5) ++ (0 : BitVec 27))
  | _ => none

/-! ## The table's words -/

/-- The instruction of a table row's word: 32-bit rows are micro-ops, longer ones syllables (R39, R226). Bit 0 is the
least significant bit of the word at the lowest address, and both kinds are little-endian (R6). -/
def decodeTableWord (nbits w : Nat) : Option Instr :=
  if nbits ≤ 32 then decodeMicro (BitVec.ofNat 32 w)
  else
    match decodeSyllable (BitVec.ofNat 64 w) with
    | .ok i => some i
    | .error _ => none

end Sys2Proof
end

