-- ==== Sys2Proof/Machine/Operands.lean ====
section
/-! DEFINITION. What a syllable is to its tile, and every operand form: sources with their hold bits and latches
(02_encoding.md R43, R46, R47; 06_vector.md R166), widths (R51), lanes (06 R162 to R165), timed accesses and their banks
(07 R194 to R196). -/

namespace Sys2Proof.Machine

/-! ## A syllable in its slot -/

/-- A decoded syllable as its slot executes it. Operands are read in the state at issue, the first argument of `eff`;
the second is the state that the bundle's lower slots have already changed (R43). -/
structure SlotOp where
  hdr    : Hdr
  /-- rank of its class: 0 S, 1 V, 2 M, 3 C (R39) -/
  slot   : Nat
  /-- its bundle is a point bundle whatever its pp bit and guard (R76) -/
  point  : Bool := false
  /-- step 5 of R415: a fault that depends on values and addresses -/
  fault5 : State → Option TFault := fun _ => none
  /-- what the checks of step 5 do to the machine where they fault: the read of a WAITM (R364, R372) -/
  judge  : State → State := id
  /-- a hold of R25 other than footprints, page-in, interlock and banks -/
  wait   : State → Bool := fun _ => false
  /-- such a hold found again once the bank conflicts are over: a page put under write-block in the meantime (R379, R381) -/
  again  : State → Bool := fun _ => false
  /-- what a held cycle does once the bundle has reached issue, whatever else holds it (R364, R379) -/
  reach  : State → State := id
  /-- what a held cycle does while the hold of `wait` is the only one (R321) -/
  held   : State → State := id
  /-- its timed scratchpad accesses (R194) -/
  access : State → List FRange := fun _ => []
  /-- step 6 of R415: a fault that depends on scratchpad contents -/
  fault6 : State → Option TFault := fun _ => none
  eff    : State → State → State
  /-- what follows once every syllable of the bundle has executed (R92, R100) -/
  post   : State → State → State := fun _ s => s

/-- Whether the guard holds (R40). -/
def SlotOp.on (o : SlotOp) (s : State) : Bool := readP s.tile o.hdr.guard

/-- Whether a timed access meets a footprint hold (R34). -/
def SlotOp.fpHeld (o : SlotOp) (s : State) : Bool := (o.access s).any (timedHeld s.tile.eng)

/-! ## Sources and latches (R46, R47, R166) -/

/-- A latch refreshed by a read that is not held. -/
def refresh (x : Src) (f : Regs → Regs) (s : State) : State := if x.held then s else onRegs f s

/-- Position a of the S slot. -/
def srcSa (r : Regs) (x : Src) : Word := if x.held then r.sa else readG r x.r
/-- Position b of the S slot. -/
def srcSb (r : Regs) (x : Src) : Word := if x.held then r.sb else readG r x.r
def latchSa (x : Src) (v : Word) : State → State := refresh x fun r => { r with sa := v }
def latchSb (x : Src) (v : Word) : State → State := refresh x fun r => { r with sb := v }

/-- Vector registers at the positions of the V slot. -/
def srcVa (r : Regs) (x : Src) : VWord := if x.held then r.va else readV r x.r
def srcVb (r : Regs) (x : Src) : VWord := if x.held then r.vb else readV r x.r
def srcVc (r : Regs) (x : Src) : VWord := if x.held then r.vc else readV r x.r
def latchVa (x : Src) (v : VWord) : State → State := refresh x fun r => { r with va := v }
def latchVb (x : Src) (v : VWord) : State → State := refresh x fun r => { r with vb := v }
def latchVc (x : Src) (v : VWord) : State → State := refresh x fun r => { r with vc := v }

/-- General registers at positions a and b of the V slot (R166). -/
def srcVaG (r : Regs) (x : Src) : Word := if x.held then r.va.setWidth 64 else readG r x.r
def srcVbG (r : Regs) (x : Src) : Word := if x.held then r.vb.setWidth 64 else readG r x.r

/-- General registers at positions a and b of the M slot (R46). -/
def srcMaG (r : Regs) (x : Src) : Word := if x.held then r.ma.setWidth 64 else readG r x.r
def srcMbG (r : Regs) (x : Src) : Word := if x.held then r.mb.setWidth 64 else readG r x.r
/-- A vector register at position a of the M slot. -/
def srcMa (r : Regs) (x : Src) : VWord := if x.held then r.ma else readV r x.r
def latchMa (x : Src) (v : VWord) : State → State := refresh x fun r => { r with ma := v }
def latchMb (x : Src) (v : VWord) : State → State := refresh x fun r => { r with mb := v }

/-! ## Widths (R51) -/

/-- Size in bytes. -/
def Width.size : Width → Nat
  | .w1 | .s1 => 1
  | .w2 | .s2 => 2
  | .w4 | .s4 => 4
  | .w8 => 8

def Width.signed : Width → Bool
  | .s1 | .s2 | .s4 => true
  | _ => false

/-- A value of `n` bytes extended to a register (R134, R205, R344). -/
def extend (w : Width) (v : Nat) : Word :=
  if Width.signed w then BitVec.ofInt 64 (sextN (8 * Width.size w) v) else BitVec.ofNat 64 v

/-- The low bytes of a register that a store of width `w` writes. -/
def lowBytes (w : Width) (v : Word) : Nat := v.toNat % 2 ^ (8 * Width.size w)

/-! ## Lanes (R162 to R165) -/

/-- Lanes of a type (R162). -/
def lanesOf (w : Nat) : Nat := 2048 / w

/-- Lane `i` of width `w` as a field. -/
def laneN (v i w : Nat) : Nat := (v >>> (i * w)) % 2 ^ w

/-- The number whose lanes from `i` on are given by `f`. -/
def fromLanes (w : Nat) (f : Nat → Nat) : Nat → Nat → Nat
  | _, 0 => 0
  | i, n + 1 => f i % 2 ^ w + 2 ^ w * fromLanes w f (i + 1) n

/-- A vector from `n` lanes of width `w`. -/
def laneVec (w n : Nat) (f : Nat → Nat) : VWord := BitVec.ofNat 2048 (fromLanes w f 0 n)

/-- All ones in the `n` lanes of width `w` that `act` selects. -/
def laneMask (w n : Nat) (act : Nat → Bool) : VWord := laneVec w n fun i => if act i then 2 ^ w - 1 else 0

/-- The bits of lanes `n` and above. -/
def tailMask (w n : Nat) : VWord := BitVec.allOnes 2048 <<< (w * n)

/-- A lane as an integer in its type's signedness. -/
def elemVal (ty : ElemTy) (v : Nat) : Int :=
  if ty.isSignedInt then sextN ty.bits v else (v % 2 ^ ty.bits : Nat)

/-- sat_s (00 R9). -/
def satS (w : Nat) (v : Int) : Int := max (-(2 ^ (w - 1) : Int)) (min v (2 ^ (w - 1) - 1))
/-- sat_u (00 R9). -/
def satU (w : Nat) (v : Int) : Int := max 0 (min v (2 ^ w - 1))

/-- The clamp of a type's range. -/
def satTy (ty : ElemTy) (v : Int) : Int := if ty.isSignedInt then satS ty.bits v else satU ty.bits v

/-- A lane's result: clamped under the saturate bit, the low bits otherwise (R138, R170). -/
def narrow (ty : ElemTy) (sat : Bool) (v : Int) : Nat := wrapN ty.bits (if sat then satTy ty v else v)

/-! ## Timed accesses (R192 to R196) -/

/-- A timed access of `n` bytes. -/
def acc (a : Nat) (n : Nat) (write : Bool) : FRange := { base := a, len := n, write := write }

/-- The 64-byte blocks that accesses touch, each once. -/
def blocksOf (xs : List FRange) : SMap Bool :=
  xs.foldl (fun m r =>
    if r.len = 0 then m
    else (upTo ((r.base + r.len - 1) / 64 - r.base / 64 + 1)).foldl (fun m j => smSet (r.base / 64 + j) true m) m) []

/-- Distinct blocks by bank (R193). -/
def bankCounts (blocks : SMap Bool) : SMap Nat :=
  blocks.foldl (fun m b => smSet (b.1 % 32) (smGet 0 m (b.1 % 32) + 1) m) []

/-- The cycles a bundle is held for bank conflicts (R196). -/
def bankHold (xs : List FRange) : Nat := (bankCounts (blocksOf xs)).foldl (fun n b => max n b.2) 0 - 1

/-- The banks that accesses take in a cycle of theirs with `left` cycles more to come: each of a bank's blocks in the last cycles (R196). -/
def banksIn (left : Nat) (xs : List FRange) : List Nat := ((bankCounts (blocksOf xs)).filter fun b => left < b.2).map (·.1)

/-- The first fault of a list, in order. -/
def firstFault {α : Type} (f : α → Option TFault) : List α → Option TFault
  | [] => none
  | x :: xs =>
    match f x with
    | some e => some e
    | none => firstFault f xs

end Sys2Proof.Machine
end

