-- ==== Sys2Proof/Machine/Flags.lean ====
section
/-! DEFINITION. Floating-point formats, the one rounding, and every flag computation: 05_numbers.md R139 to R147, R158,
R160, R161; 06_vector.md R173, R179, R180, R183. -/

namespace Sys2Proof.Machine

/-- Flags nv dz of uf nx from bit 4 to bit 0 (R145). -/
abbrev FFlags := BitVec 5

def fNv : FFlags := 0b10000
def fDz : FFlags := 0b01000
def fOf : FFlags := 0b00100
def fUf : FFlags := 0b00010
def fNx : FFlags := 0b00001

/-- A value with the flags it raised. -/
abbrev Flagged (α : Type) := α × FFlags

/-- A binary format: exponent and fraction widths (R139). -/
structure Fmt where
  ew : Nat
  mw : Nat
  deriving DecidableEq, Repr

/-- The format of a float type. -/
def fmtOf : ElemTy → Fmt
  | .bf16 => ⟨8, 7⟩
  | .fp16 => ⟨5, 10⟩
  | _ => ⟨8, 23⟩

def fp32 : Fmt := ⟨8, 23⟩

/-- Exponent bias, also the largest exponent of a finite value. -/
def Fmt.bias (f : Fmt) : Int := 2 ^ (f.ew - 1) - 1
/-- Exponent of the smallest normal. -/
def Fmt.emin (f : Fmt) : Int := 1 - f.bias

def Fmt.signBit (f : Fmt) (neg : Bool) : Nat := if neg then 2 ^ (f.ew + f.mw) else 0
def Fmt.infBits (f : Fmt) (neg : Bool) : Nat := f.signBit neg + (2 ^ f.ew - 1) * 2 ^ f.mw
def Fmt.maxBits (f : Fmt) (neg : Bool) : Nat := f.infBits neg - 1
/-- The canonical NaN (R140). -/
def Fmt.nan (f : Fmt) : Nat := (2 ^ f.ew - 1) * 2 ^ f.mw + 2 ^ (f.mw - 1)

/-- A float datum: a NaN, signalling or not; an infinity; or (−1)^neg · m · 2^e. -/
inductive FVal where
  | nan (signalling : Bool)
  | inf (neg : Bool)
  | fin (neg : Bool) (m : Nat) (e : Int)
  deriving DecidableEq, Repr

/-- The datum of an encoding, subnormals read as zero under ftz (R140, R142). -/
def decodeF (f : Fmt) (ftz : Bool) (x : Nat) : FVal :=
  let frac := x % 2 ^ f.mw
  let ex := x / 2 ^ f.mw % 2 ^ f.ew
  let neg := x / 2 ^ (f.ew + f.mw) % 2 == 1
  if ex = 2 ^ f.ew - 1 then
    if frac = 0 then .inf neg else .nan (frac < 2 ^ (f.mw - 1))
  else if ex = 0 then
    if ftz then .fin neg 0 0 else .fin neg frac (f.emin - f.mw)
  else .fin neg (2 ^ f.mw + frac) ((ex : Int) - f.bias - f.mw)

/-- An exact real num/den · 2^e. -/
structure XReal where
  num : Int
  den : Nat
  e   : Int
  deriving DecidableEq, Repr

/-- 2^e for e ≥ 0, 1 below. -/
def pow2 (e : Int) : Nat := 2 ^ e.toNat

/-- The exact value of a finite datum. -/
def finReal (neg : Bool) (m : Nat) (e : Int) : XReal := ⟨if neg then -(m : Int) else m, 1, e⟩

def XReal.neg (x : XReal) : XReal := { x with num := -x.num }

def XReal.add (x y : XReal) : XReal :=
  let e := min x.e y.e
  ⟨x.num * y.den * pow2 (x.e - e) + y.num * x.den * pow2 (y.e - e), x.den * y.den, e⟩

def XReal.mul (x y : XReal) : XReal := ⟨x.num * y.num, x.den * y.den, x.e + y.e⟩

/-- The quotient by a non-zero real. -/
def XReal.div (x y : XReal) : XReal :=
  ⟨x.num * y.den * (if y.num < 0 then -1 else 1), x.den * y.num.natAbs, x.e - y.e⟩

/-- Whether x < y. -/
def XReal.lt (x y : XReal) : Bool := decide ((x.add y.neg).num < 0)

def XReal.isZero (x : XReal) : Bool := x.num == 0

/-- floor of an exact real. -/
def XReal.floor (x : XReal) : Int :=
  Int.fdiv (x.num * pow2 x.e) (x.den * pow2 (-x.e))

/-- num/den rounded to an integer magnitude in a mode, with whether it was inexact (R51, R143). -/
def roundMag (rnd : Rnd) (neg : Bool) (n d : Nat) : Nat × Bool :=
  let q := n / d
  let r := n % d
  let up := match rnd with
    | .rne => decide (d < 2 * r) || (2 * r == d && q % 2 == 1)
    | .rtz => false
    | .rdn => neg && r != 0
    | .rup => !neg && r != 0
  (if up then q + 1 else q, r != 0)

/-- |x| in units of 2^u, rounded. -/
def roundUnits (rnd : Rnd) (x : XReal) (u : Int) : Nat × Bool :=
  roundMag rnd (decide (x.num < 0)) (x.num.natAbs * pow2 (x.e - u)) (x.den * pow2 (u - x.e))

/-- The exponent E with 2^E ≤ |x| < 2^(E + 1), for x ≠ 0. -/
def XReal.exponent (x : XReal) : Int :=
  let a := x.num.natAbs
  let l : Int := (Nat.log2 a : Int) - Nat.log2 x.den
  let l' := if a * pow2 (-l) < x.den * pow2 l then l - 1 else l
  l' + x.e

/-- THE ROUNDING: an exact real rounded once to a format; `zneg` is the sign of an exact zero (R142 to R144). -/
def roundF (f : Fmt) (ftz : Bool) (rnd : Rnd) (zneg : Bool) (x : XReal) : Flagged Nat :=
  if x.num = 0 then (f.signBit zneg, 0)
  else
    let neg := decide (x.num < 0)
    let ex := x.exponent
    let r := roundUnits rnd x (ex - f.mw)
    let ex' := if r.1 = 2 ^ (f.mw + 1) then ex + 1 else ex
    if f.bias < ex' then
      let toInf := match rnd with | .rne => true | .rtz => false | .rdn => neg | .rup => !neg
      (if toInf then f.infBits neg else f.maxBits neg, fOf ||| fNx)
    else if ex' < f.emin then
      if ftz then (f.signBit neg, fUf ||| fNx)
      else
        let t := roundUnits rnd x (f.emin - f.mw)
        (f.signBit neg + t.1, if t.2 then fUf ||| fNx else 0)
    else
      let m := if r.1 = 2 ^ (f.mw + 1) then 2 ^ f.mw else r.1
      (f.signBit neg + (ex' + f.bias).toNat * 2 ^ f.mw + (m - 2 ^ f.mw), if r.2 then fNx else 0)

/-- A finite datum's encoding in its own format, without rounding. -/
def encodeF (f : Fmt) (v : FVal) : Nat :=
  match v with
  | .nan _ => f.nan
  | .inf neg => f.infBits neg
  | .fin neg m e => (roundF f false .rtz neg (finReal neg m e)).1

def isSig : FVal → Bool
  | .nan s => s
  | _ => false

def isNan : FVal → Bool
  | .nan _ => true
  | _ => false

/-- The canonical NaN, invalid where a NaN operand signals (R141). -/
def nanOf (f : Fmt) (vs : List FVal) : Flagged Nat := (f.nan, if vs.any isSig then fNv else 0)

/-- The sign of an exact zero sum: the common sign of zero operands, else − only in RDN (R143). -/
def zeroSign (rnd : Rnd) (n1 n2 : Bool) : Bool := if n1 == n2 then n1 else rnd == .rdn

def negate : FVal → FVal
  | .nan s => .nan s
  | .inf n => .inf (!n)
  | .fin n m e => .fin (!n) m e

/-- x + y rounded (R180). -/
def fAdd (f : Fmt) (ftz : Bool) (rnd : Rnd) (x y : FVal) : Flagged Nat :=
  match x, y with
  | .inf a, .inf b => if a == b then (f.infBits a, 0) else (f.nan, fNv)
  | .inf a, .fin _ _ _ => (f.infBits a, 0)
  | .fin _ _ _, .inf b => (f.infBits b, 0)
  | .fin a m e, .fin b n d =>
    roundF f ftz rnd (if m = 0 ∧ n = 0 then zeroSign rnd a b else rnd == .rdn) ((finReal a m e).add (finReal b n d))
  | _, _ => nanOf f [x, y]

/-- x × y rounded (R180). -/
def fMul (f : Fmt) (ftz : Bool) (rnd : Rnd) (x y : FVal) : Flagged Nat :=
  match x, y with
  | .inf a, .inf b => (f.infBits (a != b), 0)
  | .inf a, .fin b n _ => if n = 0 then (f.nan, fNv) else (f.infBits (a != b), 0)
  | .fin a m _, .inf b => if m = 0 then (f.nan, fNv) else (f.infBits (a != b), 0)
  | .fin a m e, .fin b n d => roundF f ftz rnd (a != b) ((finReal a m e).mul (finReal b n d))
  | _, _ => nanOf f [x, y]

/-- x × y + z with one rounding; invalid for 0 × ∞ whatever z is (R180). -/
def fFma (f : Fmt) (ftz : Bool) (rnd : Rnd) (x y z : FVal) : Flagged Nat :=
  let zeroInf := match x, y with
    | .inf _, .fin _ n _ => n == 0
    | .fin _ m _, .inf _ => m == 0
    | _, _ => false
  if zeroInf then (f.nan, fNv)
  else
    match x, y, z with
    | .fin a m e, .fin b n d, .fin c k g =>
      roundF f ftz rnd (if m * n = 0 ∧ k = 0 then zeroSign rnd (a != b) c else rnd == .rdn)
        (((finReal a m e).mul (finReal b n d)).add (finReal c k g))
    | .fin _ _ _, .fin _ _ _, .inf c => (f.infBits c, 0)
    | .nan _, _, _ => nanOf f [x, y, z]
    | _, .nan _, _ => nanOf f [x, y, z]
    | _, _, .nan _ => nanOf f [x, y, z]
    | .inf a, .inf b, _ => fAdd f ftz rnd (.inf (a != b)) z
    | .inf a, .fin b _ _, _ => fAdd f ftz rnd (.inf (a != b)) z
    | .fin a _ _, .inf b, _ => fAdd f ftz rnd (.inf (a != b)) z

/-- x / y rounded (R180). -/
def fDiv (f : Fmt) (ftz : Bool) (rnd : Rnd) (x y : FVal) : Flagged Nat :=
  match x, y with
  | .inf _, .inf _ => (f.nan, fNv)
  | .inf a, .fin b _ _ => (f.infBits (a != b), 0)
  | .fin a _ _, .inf b => (f.signBit (a != b), 0)
  | .fin a m e, .fin b n d =>
    if n = 0 then (if m = 0 then (f.nan, fNv) else (f.infBits (a != b), fDz))
    else roundF f ftz rnd (a != b) ((finReal a m e).div (finReal b n d))
  | _, _ => nanOf f [x, y]

/-- Whether x < y among numbers, −0 equal to +0. -/
def fLt (x y : FVal) : Bool :=
  match x, y with
  | .inf a, .inf b => a && !b
  | .inf a, .fin _ _ _ => a
  | .fin _ _ _, .inf b => !b
  | .fin a m e, .fin b n d => (finReal a m e).lt (finReal b n d)
  | _, _ => false

def fEq (x y : FVal) : Bool := !isNan x && !isNan y && !fLt x y && !fLt y x

/-- Whether x is below y with −0 below +0 (R180, VFMIN). -/
def fBelow (x y : FVal) : Bool :=
  fLt x y || (match x, y with | .fin true 0 _, .fin false 0 _ => true | _, _ => false)

/-- VFMIN (`small`) and VFMAX (R180). -/
def fMinMax (f : Fmt) (small : Bool) (x y : FVal) : Flagged Nat :=
  if isSig x || isSig y then (f.nan, fNv)
  else if isNan x && isNan y then (f.nan, 0)
  else if isNan x then (encodeF f y, 0)
  else if isNan y then (encodeF f x, 0)
  else if small then (encodeF f (if fBelow y x then y else x), 0)
  else (encodeF f (if fBelow x y then y else x), 0)

/-- A compare of VFCMP with its flag (R173). -/
def fCmp (c : FCond) (x y : FVal) : Bool × FFlags :=
  let un := isNan x || isNan y
  let sig := isSig x || isSig y
  let quiet : FFlags := match c with | .lt | .le | .gt | .ge => fNv | _ => 0
  let r := match c with
    | .eq => fEq x y
    | .ne => un || !fEq x y
    | .lt => fLt x y
    | .le => !un && !fLt y x
    | .gt => fLt y x
    | .ge => !un && !fLt x y
    | .unord => un
  (r, if sig then fNv else if un then quiet else 0)

/-- VFRND: an integral value of the format; only a signalling NaN raises a flag (R180). -/
def fRound (f : Fmt) (rnd : Rnd) (x : FVal) : Flagged Nat :=
  match x with
  | .fin neg m e =>
    let r := (roundUnits rnd (finReal neg m e) 0).1
    ((roundF f false .rtz neg ⟨if neg then -(r : Int) else r, 1, 0⟩).1, 0)
  | .inf neg => (f.infBits neg, 0)
  | .nan s => (f.nan, if s then fNv else 0)

/-! ## Conversions (R146, R147, R181) -/

/-- The limits of an integer type. -/
def tyMax (ty : ElemTy) : Int := if ty.isSignedInt then 2 ^ (ty.bits - 1) - 1 else 2 ^ ty.bits - 1
def tyMin (ty : ElemTy) : Int := if ty.isSignedInt then -(2 ^ (ty.bits - 1)) else 0

/-- An exact real rounded to an integer, with whether it was inexact. -/
def roundInt (rnd : Rnd) (x : XReal) : Int × Bool :=
  let r := roundUnits rnd x 0
  (if x.num < 0 then -(r.1 : Int) else r.1, r.2)

/-- An exact real converted to an integer type (R146, the finite case). -/
def realToInt (ty : ElemTy) (rnd : Rnd) (x : XReal) : Flagged Nat :=
  let n := roundInt rnd x
  if n.1 < tyMin ty ∨ tyMax ty < n.1 then (wrapN ty.bits (satTy ty n.1), fNv)
  else (wrapN ty.bits n.1, if n.2 then fNx else 0)

/-- A float converted to an integer type (R146). -/
def floatToInt (ty : ElemTy) (rnd : Rnd) (x : FVal) : Flagged Nat :=
  match x with
  | .nan _ => (0, fNv)
  | .inf neg => (wrapN ty.bits (if neg then tyMin ty else tyMax ty), fNv)
  | .fin neg m e => realToInt ty rnd (finReal neg m e)

/-- An integer converted to a float (R147). -/
def intToFloat (f : Fmt) (ftz : Bool) (rnd : Rnd) (v : Int) : Flagged Nat := roundF f ftz rnd false ⟨v, 1, 0⟩

/-- A float converted to a float with one rounding; NaNs are made canonical (R141, R147, R181). -/
def floatToFloat (f : Fmt) (ftz : Bool) (rnd : Rnd) (x : FVal) : Flagged Nat :=
  match x with
  | .nan s => (f.nan, if s then fNv else 0)
  | .inf neg => (f.infBits neg, 0)
  | .fin neg m e => roundF f ftz rnd neg (finReal neg m e)

/-- One element of VCVT: to type `dst` from type `src` (R181). -/
def cvtElem (dst src : ElemTy) (ftz : Bool) (rnd : Rnd) (sat : Bool) (x : Nat) : Flagged Nat :=
  if src.isFloat then
    let v := decodeF (fmtOf src) ftz x
    if dst.isFloat then floatToFloat (fmtOf dst) (ftz && !(dst == .fp32) && !(dst == src)) rnd v else floatToInt dst rnd v
  else if dst.isFloat then intToFloat (fmtOf dst) ftz rnd (elemVal src x)
  else (narrow dst sat (elemVal src x), 0)

/-! ## QNT, SCACC, BSC, TLI -/

/-- One element of QNT: x / s to an integer type (R160). -/
def qntElem (ty : ElemTy) (ftz : Bool) (rnd : Rnd) (x s : Nat) : Flagged Nat :=
  let lim (neg : Bool) : Nat := wrapN ty.bits (if neg then tyMin ty else tyMax ty)
  match decodeF fp32 ftz x, decodeF fp32 ftz s with
  | .nan _, _ => (0, fNv)
  | _, .nan _ => (0, fNv)
  | _, .inf _ => (0, fNv)
  | .inf neg, .fin sneg m _ => if m = 0 then (lim neg, fDz) else if sneg then (0, fNv) else (lim neg, fNv)
  | .fin neg n d, .fin sneg m e =>
    if m = 0 then (if n = 0 then (0, fDz) else (lim neg, fDz))
    else if sneg then (0, fNv)
    else realToInt ty rnd ((finReal neg n d).div (finReal sneg m e))

/-- One element of SCACC; none where a scale byte is −128 (R158). An exact zero term of q = 0 counts as +0; R143 speaks only of operands
that have a sign. DESIGN CHOICE, log entry 63. -/
def scaccElem (ftz : Bool) (rnd : Rnd) (adjust : Nat) (q ea eb : Int) (a : Nat) : Option (Flagged Nat) :=
  if ea = -128 ∨ eb = -128 then none
  else
    some (match decodeF fp32 ftz a with
      | .nan s => (fp32.nan, if s then fNv else 0)
      | .inf neg => (fp32.infBits neg, 0)
      | .fin neg m e =>
        roundF fp32 ftz rnd (if m = 0 ∧ q = 0 then zeroSign rnd neg false else rnd == .rdn)
          ((finReal neg m e).add ⟨q, 1, ea + eb + adjust⟩))

/-- The smallest e with m ≤ M · 2^e, for m > 0. -/
def scaleExp (m : XReal) (cap : Nat) : Int :=
  let l := (m.div ⟨cap, 1, 0⟩)
  let e := l.exponent
  if (⟨1, 1, e⟩ : XReal).lt l then e + 1 else e

/-- BSC over the active lanes' data (R183). -/
def bscExp (planes : Nat) (vs : List FVal) : Int × FFlags :=
  let cap := 2 ^ (planes - 1) - 1
  if vs.any (fun v => match v with | .nan _ => true | .inf _ => true | _ => false) then (127, fNv)
  else
    let m := vs.foldl (fun (m : XReal) v =>
      match v with
      | .fin _ n e => let x : XReal := ⟨n, 1, e⟩; if m.lt x then x else m
      | _ => m) ⟨0, 1, 0⟩
    if m.isZero then (-128, 0)
    else
      let e := max (scaleExp m cap) (-127)
      if 127 < e then (127, fNv) else (e, 0)

/-- An overflow writes the largest finite value of its sign under the saturate bit (R161). -/
def satOverflow (f : Fmt) (sat : Bool) (r : Flagged Nat) : Flagged Nat :=
  if sat && (r.2 &&& fOf) != 0 then
    (if r.1 = f.infBits false then f.maxBits false else if r.1 = f.infBits true then f.maxBits true else r.1, r.2)
  else r

/-- The table of TLI: start, step, tail codes and entries (value, slope) (R187). -/
structure TliTable where
  x0    : Nat
  step  : Int
  lo    : Nat
  hi    : Nat
  n     : Nat
  entry : Nat → Nat × Nat

/-- value + slope × t rounded to FP32, then to the destination (R161). -/
def tliInner (dst : Fmt) (ftz : Bool) (rnd : Rnd) (sat : Bool) (value slope : Nat) (t : FVal) : Flagged Nat :=
  let s := decodeF fp32 ftz slope
  let v := decodeF fp32 ftz value
  -- the interpolation argument is exact, so it is no operand that ftz reads
  let f := satOverflow fp32 sat (fFma fp32 ftz rnd s t v)
  let y := if dst = fp32 then (f.1, 0) else floatToFloat dst ftz rnd (decodeF fp32 false f.1)
  let y' := satOverflow dst sat y
  (y'.1, f.2 ||| y'.2)

/-- value + slope × t for an exact t, with the two roundings of R161. A zero t counts as +0 in the sign of an exact zero; the spec's t is a
real without one. DESIGN CHOICE, log entry 63. -/
def tliExact (dst : Fmt) (ftz : Bool) (rnd : Rnd) (sat : Bool) (value slope : Nat) (t : XReal) : Flagged Nat :=
  match decodeF fp32 ftz slope, decodeF fp32 ftz value with
  | .fin a m e, .fin b n d =>
    let prod := (finReal a m e).mul t
    let tneg := decide (t.num < 0)
    let z := if prod.num = 0 ∧ n = 0 then zeroSign rnd (a != tneg) b else rnd == .rdn
    let f := satOverflow fp32 sat (roundF fp32 ftz rnd z (prod.add (finReal b n d)))
    let y := if dst = fp32 then (f.1, 0) else floatToFloat dst ftz rnd (decodeF fp32 false f.1)
    let y' := satOverflow dst sat y
    (y'.1, f.2 ||| y'.2)
  | _, _ => tliInner dst ftz rnd sat value slope (if t.num = 0 then .fin false 0 0 else .fin (decide (t.num < 0)) 1 0)

/-- One element of TLI (R161, R189). -/
def tliElem (dst : Fmt) (ftz : Bool) (rnd : Rnd) (sat : Bool) (tb : TliTable) (x : Nat) : Flagged Nat :=
  match decodeF fp32 ftz tb.x0 with
  | .nan _ => (dst.nan, fNv)
  | .inf _ => (dst.nan, fNv)
  | .fin xa xm xe =>
    let ent (i : Nat) := tb.entry i
    let tail (low : Bool) (u : Option XReal) (v : FVal) : Flagged Nat :=
      let code := if low then tb.lo else tb.hi
      let i := if low then 0 else tb.n - 1
      match code with
      | 0 => tliExact dst ftz rnd sat (ent i).1 (ent i).2 ⟨if low then 0 else 1, 1, 0⟩
      | 1 => satOverflow dst sat (floatToFloat dst ftz rnd v)
      | 2 => (0, 0)
      | _ =>
        match u with
        | some u => tliExact dst ftz rnd sat (ent i).1 (ent i).2 (if low then u else u.add ⟨-(tb.n - 1 : Int), 1, 0⟩)
        | none => tliInner dst ftz rnd sat (ent i).1 (ent i).2 (.inf low)
    match decodeF fp32 ftz x with
    | .nan s => (dst.nan, if s then fNv else 0)
    | .inf neg => tail neg none (.inf neg)
    | .fin a m e =>
      let u := ((finReal a m e).add (finReal xa xm xe).neg).mul ⟨1, 1, -tb.step⟩
      if u.num < 0 then tail true (some u) (.fin a m e)
      else if (u.add ⟨-(tb.n : Int), 1, 0⟩).num < 0 then
        let i := u.floor
        tliExact dst ftz rnd sat (ent i.toNat).1 (ent i.toNat).2 (u.add ⟨-i, 1, 0⟩)
      else tail false (some u) (.fin a m e)

end Sys2Proof.Machine
end

