-- ==== Sys2Proof/Machine/Issue.lean ====
section
/-! DEFINITION. Fetch from overlay frames and the loop buffer, and the issue of a bundle's syllables: 02_encoding.md R42 to
R45, 03_issue.md R63 to R90, 16_preemption.md R415, 01_machine.md R24 to R26. -/

namespace Sys2Proof.Machine

/-! ## Fetch (R45, R63 to R69, R82) -/

/-- What fetch finds at an address. -/
inductive Fetched where
  | word (w : Word)
  /-- a page of the image that no frame holds (R68) -/
  | pageIn (page : Nat)
  /-- a FETCH fault: cause and FLTADDR (R69) -/
  | fault (cause : Nat) (addr : Word)
  deriving DecidableEq, Repr

/-- The frame that holds page `n` of the bound image (R64). -/
def frameOf (t : Tile) (n : Nat) : Option Frame :=
  t.ctl.frames.find? fun f => f.digest == t.place.digest && f.page == n

/-- The overlay map entry of page `n` (R65). -/
def pageEnt (t : Tile) (n : Nat) : Option PageEnt := t.place.pages.find? fun e => e.page == n

/-- One syllable of instruction memory at address `a` (R45, R68, R69). -/
def fetchMem (t : Tile) (a : Word) : Fetched :=
  if 0xFFFFF < a.toNat then .fault 0 a
  else
    let n := a.toNat / 4096
    match frameOf t n with
    | some f => .word (smGet 0 f.words (a.toNat % 4096 / 8))
    | none =>
      match pageEnt t n with
      | none => .fault 1 a
      | some e => if e.state = 0 then .fault 3 a else .pageIn n

/-- The loop buffer's word at `a`, while a level is active (R82). -/
def bufferWord (t : Tile) (a : Word) : Option Word :=
  if (innermost t.ctl).isSome then (t.ctl.loopBuf.find? (·.1 == a.toNat)).map (·.2) else none

/-- A syllable of a body that a level or a LOOP spans: from the loop buffer while a level is active (R82). -/
def bodyOne (t : Tile) (a : Word) : Fetched :=
  match bufferWord t a with
  | some w => .word w
  | none => fetchMem t a

def PlainBody.has (b : PlainBody) (a : Word) : Bool := decide (b.first ≤ a.toNat) && decide (a.toNat < b.next)

/-- Whether `a` lies in a body that runs as ordinary code, and in no level armed within it (R84). -/
def inPlain (t : Tile) (a : Word) : Bool := t.ctl.plain.any fun b => innermost t.ctl == some b.level && b.has a

/-- One syllable as fetched: from the loop buffer while a level is active, but for the body of a LOOP whose guard was false, which comes from
instruction memory (R82, R84). -/
def fetchOne (t : Tile) (a : Word) : Fetched := if inPlain t a then fetchMem t a else bodyOne t a

/-- A fetch of up to `n` syllables from `a`, to the stop bit (R42, R45): the words, or what stopped it. -/
def fetchWords (get : Word → Fetched) : Nat → Word → Except Fetched (List Word)
  | 0, _ => .ok []
  | n + 1, a =>
    match get a with
    | .word w =>
      if w.msb then .ok [w]
      else
        match fetchWords get n (a + 8) with
        | .ok ws => .ok (w :: ws)
        | .error e => .error e
    | e => .error e

/-- The bundle at `a` as fetched. -/
def fetchBundle (t : Tile) (a : Word) : Except Fetched (List Word) := fetchWords (fetchOne t) 4 a

/-- Bytes of a bundle; 8 where it cannot be fetched. -/
def bytesOf (ws : Except Fetched (List Word)) : Nat :=
  match ws with
  | .ok ws => 8 * ws.length
  | .error _ => 8

/-- Bytes of the bundle at `a` of a body. -/
def bundleBytes (t : Tile) (a : Word) : Nat := bytesOf (fetchWords (bodyOne t) 4 a)

/-- The address of the bundle after the one at pc. -/
def nextPc (t : Tile) : Word := t.ctl.pc + BitVec.ofNat 64 (bytesOf (fetchBundle t t.ctl.pc))

/-- The addresses of the `n` bundles from `a` on. -/
def bodyAddrs (t : Tile) : Nat → Word → List Word
  | 0, _ => []
  | n + 1, a => a :: bodyAddrs t n (a + BitVec.ofNat 64 (bundleBytes t a))

/-- The address after the `n` bundles from `a`. -/
def afterBody (t : Tile) : Nat → Word → Word
  | 0, a => a
  | n + 1, a => afterBody t n (a + BitVec.ofNat 64 (bundleBytes t a))

/-- The address of the last of the `n + 1` bundles from `a`. -/
def lastOfBody (t : Tile) (n : Nat) (a : Word) : Word := afterBody t n a

/-- The bundles of an active level. -/
def levelAddrs (t : Tile) (l : LoopLevel) : List Word := bodyAddrs t l.len (BitVec.ofNat 64 l.first)
def levelLast (t : Tile) (l : LoopLevel) : Word := lastOfBody t (l.len - 1) (BitVec.ofNat 64 l.first)
def levelAfter (t : Tile) (l : LoopLevel) : Word := afterBody t l.len (BitVec.ofNat 64 l.first)

/-- The pages of a bundle of `n` syllables at `a`, in fetch order. -/
def bundlePages (a : Word) (n : Nat) : List Nat := [a.toNat / 4096, (a.toNat + 8 * n - 8) / 4096].dedup

/-- The pages of instruction memory that the syllables of a bundle at `a` were fetched from, `n` of them; none for those of the
loop buffer. -/
def fetchedPages (t : Tile) (a : Word) : Nat → List Nat
  | 0 => []
  | n + 1 =>
    let rest := fetchedPages t (a + 8) n
    if (bufferWord t a).isSome && !inPlain t a then rest else a.toNat / 4096 :: rest

/-- Frames with those of the fetched pages moved to the front, most recently fetched first (R68). -/
def touchFrames (digest : BitVec 256) (ns : List Nat) (fs : List Frame) : List Frame :=
  ns.foldl (fun fs n =>
    fs.filter (fun f => f.digest == digest && f.page == n) ++ fs.filter (fun f => !(f.digest == digest && f.page == n))) fs

/-- The FETCH fault of R45 and R69. -/
def fetchFault (cause : Nat) (a : Word) : TFault :=
  { code := 0x02, addr := a, cause := cause, detail := detailOf (if cause = 0 then a else 0) (cause * 2 ^ 8) 0x02 }

/-! ## Cycles (R24, R80) -/

def inPhase (s : State) : Bool := s.tile.eng.phase.isSome

/-- A held cycle that a halt may use outside a phase; the watchdog counts it inside one (R77, R80). -/
def heldHaltable (s : State) : State :=
  s |> onRegs heldCycle |> onCtl fun c => { c with wdog := if inPhase s then c.wdog + 1 else c.wdog }

/-- A held cycle of an interlock or a bank conflict, which the watchdog counts (R80). -/
def heldCounted (s : State) : State := s |> onRegs heldCycle |> onCtl fun c => { c with wdog := c.wdog + 1 }

/-- A counted cycle in which nothing issues (R74, R84). -/
def emptyCycle (s : State) : State := s |> onRegs countCycle |> onCtl fun c => { c with wdog := c.wdog + 1 }

/-! ## Iteration end (R85) -/

/-- A rotation: vb and pb one lower, by R85 and R87; R493's own run ends with pb 0, which no lowered pb gives (log entry 75). -/
def rotateBase (r : Regs) : Regs := { r with rbVb := r.rbVb - 1, rbPb := r.rbPb - 1 }

/-- The end of the innermost iteration whose body ends with the bundle at `pc`, and of the enclosing ones that end with it;
`next` is the bundle after it. -/
def iterationEnd (t0 : Tile) (pc next : Word) : Nat → State → State
  | 0, s => onCtl (fun c => { c with pc := next }) s
  | n + 1, s =>
    match innermost s.tile.ctl with
    | none => onCtl (fun c => { c with pc := next }) s
    | some l =>
      let lv := s.tile.ctl.loops[l]
      if levelLast t0 lv = pc then
        let s := if lv.rotate then onRegs rotateBase s else s
        if 1 < lv.count then
          onCtl (fun c => { c with pc := BitVec.ofNat 64 lv.first
                                   loops := c.loops.set l { lv with count := lv.count - 1, isFirst := false } }) s
        else iterationEnd t0 pc next n (onCtl (fun c => { c with loops := c.loops.set l { lv with active := false } }) s)
      else onCtl (fun c => { c with pc := next }) s

/-- The pc after a bundle: as a taken transfer left it, otherwise the iteration end or the next bundle (R74, R85). -/
def advance (i s : State) : State :=
  if s.tile.ctl.bubble then s else iterationEnd i.tile i.tile.ctl.pc (nextPc i.tile) 6 s

/-! ## Issue (R43, R415) -/

/-- Whether a bundle is a point bundle (R76). -/
def isPoint (ops : List SlotOp) : Bool := ops.any fun o => o.hdr.pp || o.point

/-- The syllables of a bundle whose guards hold. -/
def guarded (ops : List SlotOp) (s : State) : List SlotOp := ops.filter (·.on s)

/-- The first precise fault of a step of R415, by slot class. -/
def firstOf (f : SlotOp → State → Option TFault) (ops : List SlotOp) (s : State) : Option TFault :=
  firstFault (fun o => f o s) ops

/-- The loop buffer is emptied when no level remains active (R82). -/
def emptyBuffer (c : Ctl) : Ctl := if (innermost c).isSome then c else { c with loopBuf := [] }

/-- Whether the boundary before the bundle lies in a transfer phase: before the release of a BAR.T it does not, before that of a
BAR.E it does (R78). -/
def boundaryInPhase (s : State) : Bool :=
  if s.tile.ctl.barOpen then
    match s.tile.eng.epi.findSome? (fun x : Nat × Episode => x.2.arrived.bind (·.1)) with
    | some .open_ => false
    | some .close_ => true
    | _ => inPhase s
  else inPhase s

/-- The end of an issue cycle: a counted cycle passes; the holds and waits of the bundle are over; the watchdog counts from the
point, or goes on (R24, R80, R82). `i` is the state at issue. -/
def endCycle (point : Bool) (i s : State) : State :=
  s |> onRegs countCycle
    |> onCtl fun c =>
      { emptyBuffer c with bankLeft := none, filled := false, barOpen := false, waitT0 := none, waitRead := false
                           waitDue := none, waitOut := false, portHeld := none
                           gacc := c.gacc.map fun a => { a with lost := outranked a.dest (countCycle s.tile.regs) }
                           wdog := if point && !boundaryInPhase i then 0 else c.wdog + 1 }

/-- The issue cycle of a bundle: every syllable whose guard holds takes effect on the operands at issue, the program counter
moves, and one counted cycle passes (R43, R74, R80, R85). A rotation at the iteration end of the bundle's own
WRSR to RBASE acts on the written value; no rule orders the two. DESIGN CHOICE, log entry 60. -/
def issueNow (ops : List SlotOp) (s : State) : State :=
  let act := guarded ops s
  let s1 := act.foldl (fun t o => o.eff s t) s
  let s2 := advance s s1
  let s3 := act.foldl (fun t o => o.post s t) s2
  endCycle (isPoint ops) s s3

/-- Whether a bundle is held by a waiting instruction, a full queue or a footprint (R25). -/
def isHeld (ops : List SlotOp) (s : State) : Bool := (guarded ops s).any fun o => o.fpHeld s || o.wait s

/-- What a cycle of those holds leaves behind: each syllable notes that its bundle has reached issue, and a hold that is the only
one that it is (R321, R364, R379). -/
def noteHold (ops : List SlotOp) (s : State) : State :=
  let act := guarded ops s
  let s1 := act.foldl (fun t o => o.reach t) s
  if act.any (·.fpHeld s) then s1
  else
    match act.filter (·.wait s) with
    | [o] => o.held s1
    | _ => s1

/-- A bundle that only its bank conflicts still hold: `n` cycles of them, then the faults of step 6, then its issue; an AMO or ACAS whose
page has been put under write-block in the meantime holds it as before (R26, R379, R415). -/
def bankCycle (ops : List SlotOp) (n : Nat) (s : State) : State :=
  if n ≠ 0 then heldCounted (onCtl (fun c => { c with bankLeft := some (n - 1) }) s)
  else if (guarded ops s).any (·.again s) then heldHaltable (noteHold ops (onCtl (fun c => { c with bankLeft := none }) s))
  else
    match firstOf SlotOp.fault6 (guarded ops s) s with
    | some f => takeFault f s
    | none => issueNow ops s

/-- What the checks of step 5 have done to the machine where one of them faults. -/
def judged (ops : List SlotOp) (s : State) : State := (guarded ops s).foldl (fun t o => o.judge t) s

/-- The syllables of a bundle meet the machine: interlock, faults of step 5, holds, bank conflicts, faults of step 6, issue. Once
the bank conflicts are being counted every other source has released (R25, R26, R415). -/
def issueOps (ops : List SlotOp) (s : State) : State :=
  if interlocked s.tile.regs then heldCounted s
  else
    match s.tile.ctl.bankLeft with
    | some n => bankCycle ops n s
    | none =>
      match firstOf SlotOp.fault5 (guarded ops s) s with
      | some f => takeFault f (judged ops s)
      | none =>
        if isHeld ops s then heldHaltable (noteHold ops s)
        else bankCycle ops (bankHold ((guarded ops s).flatMap (·.access s))) s

/-- THE MEANING OF A SYLLABLE: its issue as a bundle of its own. -/
def SlotOp.run (o : SlotOp) (s : State) : Host.Outcome State Fault Refusal := .next (issueOps [o] s)

end Sys2Proof.Machine
end

