-- ==== Sys2Proof/Machine/Scalar.lean ====
section
/-! DEFINITION. The scalar slot on registers, spill memory and scratchpad: 04_registers_scalar.md R117 to R135,
07_scratchpad.md R205. Each instruction is one `SlotOp` and its meaning the run of it. -/

namespace Sys2Proof.Machine

/-! ## Shared forms -/

/-- Two sources, one general destination (R117, R118). -/
def sOp2 (h : Hdr) (cls : Nat) (d : Reg) (a b : Src) (f : Word → Word → Word) : SlotOp where
  hdr := h
  slot := 0
  eff := fun i s =>
    let x := srcSa i.tile.regs a
    let y := srcSb i.tile.regs b
    pushRes 0 cls 0 (.g d (f x y)) (latchSb b y (latchSa a x s))

/-- One source, one general destination (R117, R119). -/
def sOp1 (h : Hdr) (cls : Nat) (d : Reg) (a : Src) (f : Word → Word) : SlotOp where
  hdr := h
  slot := 0
  eff := fun i s =>
    let x := srcSa i.tile.regs a
    pushRes 0 cls 0 (.g d (f x)) (latchSa a x s)

/-- A predicate pair by name at class 6 (R111). -/
def pushPair (i : State) (pd pe : BitVec 5) (c : Bool) (s : State) : State :=
  pushRes 0 6 0 (.pair (physP i.tile.regs pd) (physP i.tile.regs pe) c) s

/-! ## Arithmetic and logic -/

/-- The quotient of R123, truncated toward zero. -/
def divS (a b : Word) : Word :=
  let x := a.toInt
  let y := b.toInt
  if y = 0 then BitVec.allOnes 64
  else if x = -(2 ^ 63) ∧ y = -1 then a
  else BitVec.ofInt 64 (Int.tdiv x y)

def divU (a b : Word) : Word := if b = 0 then BitVec.allOnes 64 else BitVec.ofNat 64 (a.toNat / b.toNat)

/-- The remainder of R123, with the sign of the dividend. -/
def remS (a b : Word) : Word :=
  let x := a.toInt
  let y := b.toInt
  if y = 0 then a
  else if x = -(2 ^ 63) ∧ y = -1 then 0
  else BitVec.ofInt 64 (x - y * Int.tdiv x y)

def remU (a b : Word) : Word := if b = 0 then a else BitVec.ofNat 64 (a.toNat % b.toNat)

def divValue : DivOp → Word → Word → Word
  | .s => divS
  | .u => divU
  | .rems => remS
  | .remu => remU

/-- FK9 cycles of a DIV, 6 to 24 (R124). -/
def divCycles (a b : Word) : Nat := 6 + Config.divCycles a b % 19

def mulhValue (o : MulhOp) (a b : Word) : Word :=
  match o with
  | .s => BitVec.ofInt 64 (a.toInt * b.toInt / 2 ^ 64)
  | .u => BitVec.ofNat 64 (a.toNat * b.toNat / 2 ^ 64)
  | .su => BitVec.ofInt 64 (a.toInt * b.toNat / 2 ^ 64)

/-- SHL by the whole of `n` (R120). -/
def shlValue (a n : Word) : Word := if n.toNat < 64 then a <<< n.toNat else 0

/-- SHR by the whole of `n` (R120). -/
def shrValue (arith : Bool) (a n : Word) : Word :=
  if arith then (if n.toNat < 64 then a.sshiftRight n.toNat else if a.msb then BitVec.allOnes 64 else 0)
  else if n.toNat < 64 then a >>> n.toNat else 0

def minValue (unsigned : Bool) (a b : Word) : Word := if (if unsigned then a.ult b else a.slt b) then a else b
def maxValue (unsigned : Bool) (a b : Word) : Word := if (if unsigned then a.ult b else a.slt b) then b else a

/-- The zero bits above the most significant 1, of `n` bits (R125). -/
def clzNat (n v : Nat) : Nat := if v = 0 then n else n - 1 - Nat.log2 v

/-- The 1 bits among the low `n` (R125). -/
def popNat : Nat → Nat → Nat
  | 0, _ => 0
  | n + 1, v => v % 2 + popNat n (v / 2)

/-- The bits pos .. pos + len − 1, extended (R126). -/
def extValue (signed : Bool) (pos len1 : BitVec 6) (a : Word) : Word :=
  let v := field a.toNat (pos.toNat + len1.toNat) pos.toNat
  if signed then BitVec.ofInt 64 (sextN (len1.toNat + 1) v) else BitVec.ofNat 64 v

/-- The low bits of `a` inserted into `d` (R126). -/
def insValue (pos len1 : BitVec 6) (a d : Word) : Word :=
  let m : Word := BitVec.ofNat 64 ((2 ^ (len1.toNat + 1) - 1) * 2 ^ pos.toNat)
  (d &&& ~~~m) ||| ((a <<< pos.toNat) &&& m)

def nopOp (h : Hdr) : SlotOp where
  hdr := h
  slot := 0
  eff := fun _ s => s
def execNop (h : Hdr) (s : State) := (nopOp h).run s

def addOp (h : Hdr) (d : Reg) (a b : Src) : SlotOp := sOp2 h 0 d a b fun x y => x + y
def execAdd (h : Hdr) (d : Reg) (a b : Src) (s : State) := (addOp h d a b).run s

def addiOp (h : Hdr) (d : Reg) (a : Src) (imm : BitVec 34) : SlotOp := sOp1 h 0 d a fun x => x + imm.signExtend 64
def execAddi (h : Hdr) (d : Reg) (a : Src) (imm : BitVec 34) (s : State) := (addiOp h d a imm).run s

def subOp (h : Hdr) (d : Reg) (a b : Src) : SlotOp := sOp2 h 0 d a b fun x y => x - y
def execSub (h : Hdr) (d : Reg) (a b : Src) (s : State) := (subOp h d a b).run s

def mulOp (h : Hdr) (d : Reg) (a b : Src) : SlotOp := sOp2 h 1 d a b fun x y => x * y
def execMul (h : Hdr) (d : Reg) (a b : Src) (s : State) := (mulOp h d a b).run s

def mulhOp (h : Hdr) (o : MulhOp) (d : Reg) (a b : Src) : SlotOp := sOp2 h 1 d a b (mulhValue o)
def execMulh (h : Hdr) (o : MulhOp) (d : Reg) (a b : Src) (s : State) := (mulhOp h o d a b).run s

/-- DIV: class 8, ready after the FK9's own time for its operands (R123, R124). -/
def divOp (h : Hdr) (o : DivOp) (d : Reg) (a b : Src) : SlotOp where
  hdr := h
  slot := 0
  eff := fun i s =>
    let x := srcSa i.tile.regs a
    let y := srcSb i.tile.regs b
    pushAt 0 8 (divCycles x y) 0 (.g d (divValue o x y)) (latchSb b y (latchSa a x s))
def execDiv (h : Hdr) (o : DivOp) (d : Reg) (a b : Src) (s : State) := (divOp h o d a b).run s

def andOp (h : Hdr) (d : Reg) (a b : Src) : SlotOp := sOp2 h 0 d a b fun x y => x &&& y
def execAnd (h : Hdr) (d : Reg) (a b : Src) (s : State) := (andOp h d a b).run s

def andiOp (h : Hdr) (d : Reg) (a : Src) (imm : BitVec 34) : SlotOp := sOp1 h 0 d a fun x => x &&& imm.signExtend 64
def execAndi (h : Hdr) (d : Reg) (a : Src) (imm : BitVec 34) (s : State) := (andiOp h d a imm).run s

def orOp (h : Hdr) (d : Reg) (a b : Src) : SlotOp := sOp2 h 0 d a b fun x y => x ||| y
def execOr (h : Hdr) (d : Reg) (a b : Src) (s : State) := (orOp h d a b).run s

def oriOp (h : Hdr) (d : Reg) (a : Src) (imm : BitVec 34) : SlotOp := sOp1 h 0 d a fun x => x ||| imm.signExtend 64
def execOri (h : Hdr) (d : Reg) (a : Src) (imm : BitVec 34) (s : State) := (oriOp h d a imm).run s

def xorOp (h : Hdr) (d : Reg) (a b : Src) : SlotOp := sOp2 h 0 d a b fun x y => x ^^^ y
def execXor (h : Hdr) (d : Reg) (a b : Src) (s : State) := (xorOp h d a b).run s

def xoriOp (h : Hdr) (d : Reg) (a : Src) (imm : BitVec 34) : SlotOp := sOp1 h 0 d a fun x => x ^^^ imm.signExtend 64
def execXori (h : Hdr) (d : Reg) (a : Src) (imm : BitVec 34) (s : State) := (xoriOp h d a imm).run s

def shlOp (h : Hdr) (d : Reg) (a b : Src) : SlotOp := sOp2 h 0 d a b shlValue
def execShl (h : Hdr) (d : Reg) (a b : Src) (s : State) := (shlOp h d a b).run s

def shrOp (h : Hdr) (arith : Bool) (d : Reg) (a b : Src) : SlotOp := sOp2 h 0 d a b (shrValue arith)
def execShr (h : Hdr) (arith : Bool) (d : Reg) (a b : Src) (s : State) := (shrOp h arith d a b).run s

def shliOp (h : Hdr) (d : Reg) (a : Src) (n : BitVec 6) : SlotOp := sOp1 h 0 d a fun x => shlValue x (n.setWidth 64)
def execShli (h : Hdr) (d : Reg) (a : Src) (n : BitVec 6) (s : State) := (shliOp h d a n).run s

def shriOp (h : Hdr) (arith : Bool) (d : Reg) (a : Src) (n : BitVec 6) : SlotOp :=
  sOp1 h 0 d a fun x => shrValue arith x (n.setWidth 64)
def execShri (h : Hdr) (arith : Bool) (d : Reg) (a : Src) (n : BitVec 6) (s : State) := (shriOp h arith d a n).run s

def minOp (h : Hdr) (unsigned : Bool) (d : Reg) (a b : Src) : SlotOp := sOp2 h 0 d a b (minValue unsigned)
def execMin (h : Hdr) (unsigned : Bool) (d : Reg) (a b : Src) (s : State) := (minOp h unsigned d a b).run s

def maxOp (h : Hdr) (unsigned : Bool) (d : Reg) (a b : Src) : SlotOp := sOp2 h 0 d a b (maxValue unsigned)
def execMax (h : Hdr) (unsigned : Bool) (d : Reg) (a b : Src) (s : State) := (maxOp h unsigned d a b).run s

def clzOp (h : Hdr) (d : Reg) (a : Src) : SlotOp := sOp1 h 0 d a fun x => BitVec.ofNat 64 (clzNat 64 x.toNat)
def execClz (h : Hdr) (d : Reg) (a : Src) (s : State) := (clzOp h d a).run s

def popcOp (h : Hdr) (d : Reg) (a : Src) : SlotOp := sOp1 h 0 d a fun x => BitVec.ofNat 64 (popNat 64 x.toNat)
def execPopc (h : Hdr) (d : Reg) (a : Src) (s : State) := (popcOp h d a).run s

def extOp (h : Hdr) (signed : Bool) (d : Reg) (a : Src) (pos len1 : BitVec 6) : SlotOp :=
  sOp1 h 0 d a (extValue signed pos len1)
def execExt (h : Hdr) (signed : Bool) (d : Reg) (a : Src) (pos len1 : BitVec 6) (s : State) :=
  (extOp h signed d a pos len1).run s

/-- INS reads its destination as a source, through no latch (R126). -/
def insOp (h : Hdr) (d : Reg) (a : Src) (pos len1 : BitVec 6) : SlotOp where
  hdr := h
  slot := 0
  eff := fun i s =>
    let x := srcSa i.tile.regs a
    pushRes 0 0 0 (.g d (insValue pos len1 x (readG i.tile.regs d))) (latchSa a x s)
def execIns (h : Hdr) (d : Reg) (a : Src) (pos len1 : BitVec 6) (s : State) := (insOp h d a pos len1).run s

def moviOp (h : Hdr) (d : Reg) (imm : BitVec 34) : SlotOp where
  hdr := h
  slot := 0
  eff := fun _ s => pushRes 0 0 0 (.g d (imm.signExtend 64)) s
def execMovi (h : Hdr) (d : Reg) (imm : BitVec 34) (s : State) := (moviOp h d imm).run s

def movhOp (h : Hdr) (d : Reg) (a : Src) (imm : BitVec 32) : SlotOp := sOp1 h 0 d a fun x => imm ++ x.setWidth 32
def execMovh (h : Hdr) (d : Reg) (a : Src) (imm : BitVec 32) (s : State) := (movhOp h d a imm).run s

/-- SEL reads and refreshes both sources whatever the predicate (R128). -/
def selOp (h : Hdr) (d : Reg) (pn : BitVec 5) (a b : Src) : SlotOp where
  hdr := h
  slot := 0
  eff := fun i s =>
    let x := srcSa i.tile.regs a
    let y := srcSb i.tile.regs b
    pushRes 0 0 0 (.g d (if readP i.tile pn then x else y)) (latchSb b y (latchSa a x s))
def execSel (h : Hdr) (d : Reg) (pn : BitVec 5) (a b : Src) (s : State) := (selOp h d pn a b).run s

/-! ## Compares and predicates (R129 to R133) -/

def condHolds (c : Cond) (a b : Word) : Bool :=
  match c with
  | .eq => a == b
  | .ne => a != b
  | .lt => a.slt b
  | .le => a.sle b
  | .gt => b.slt a
  | .ge => b.sle a
  | .ltu => a.ult b
  | .geu => b.ule a

def cmpOp (h : Hdr) (c : Cond) (pd pe : BitVec 5) (a b : Src) : SlotOp where
  hdr := h
  slot := 0
  eff := fun i s =>
    let x := srcSa i.tile.regs a
    let y := srcSb i.tile.regs b
    pushPair i pd pe (condHolds c x y) (latchSb b y (latchSa a x s))
def execCmp (h : Hdr) (c : Cond) (pd pe : BitVec 5) (a b : Src) (s : State) := (cmpOp h c pd pe a b).run s

def cmpiOp (h : Hdr) (c : Cond) (pt pc : BitVec 5) (a : Src) (imm : BitVec 26) : SlotOp where
  hdr := h
  slot := 0
  eff := fun i s =>
    let x := srcSa i.tile.regs a
    pushPair i pt pc (condHolds c x (imm.signExtend 64)) (latchSa a x s)
def execCmpi (h : Hdr) (c : Cond) (pt pc : BitVec 5) (a : Src) (imm : BitVec 26) (s : State) := (cmpiOp h c pt pc a imm).run s

def pandValue (o : PandOp) (x y : Bool) : Bool :=
  match o with
  | .and => x && y
  | .nb => x && !y
  | .or => x || y
  | .xor => x != y

def pandOp (h : Hdr) (o : PandOp) (pd pe pa pb : BitVec 5) : SlotOp where
  hdr := h
  slot := 0
  eff := fun i s => pushPair i pd pe (pandValue o (readP i.tile pa) (readP i.tile pb)) s
def execPand (h : Hdr) (o : PandOp) (pd pe pa pb : BitVec 5) (s : State) := (pandOp h o pd pe pa pb).run s

def psetOp (h : Hdr) (value : Bool) (pd pe : BitVec 5) : SlotOp where
  hdr := h
  slot := 0
  eff := fun i s => pushPair i pd pe value s
def execPset (h : Hdr) (value : Bool) (pd pe : BitVec 5) (s : State) := (psetOp h value pd pe).run s

/-! ## Spill memory (R114 to R116, R134, R135) -/

/-- The ALIGN fault of a spill access (R116). -/
def spillFault (n a : Nat) : Option TFault :=
  if a % n ≠ 0 then some (addrFault 0x04 (BitVec.ofNat 64 a) 1 0) else none

def ldpOp (h : Hdr) (w : Width) (d : Reg) (disp : BitVec 14) : SlotOp where
  hdr := h
  slot := 0
  fault5 := fun _ => spillFault (Width.size w) disp.toNat
  eff := fun i s => pushRes 0 10 0 (.g d (extend w (readB i.tile.mem.spill disp.toNat (Width.size w)))) s
def execLdp (h : Hdr) (w : Width) (d : Reg) (disp : BitVec 14) (s : State) := (ldpOp h w d disp).run s

def stpOp (h : Hdr) (w : Width) (r : Reg) (disp : BitVec 14) : SlotOp where
  hdr := h
  slot := 0
  fault5 := fun _ => spillFault (Width.size w) disp.toNat
  eff := fun i s =>
    onMem (fun m => { m with spill := writeB disp.toNat (Width.size w) (readG i.tile.regs r).toNat m.spill }) s
def execStp (h : Hdr) (w : Width) (r : Reg) (disp : BitVec 14) (s : State) := (stpOp h w r disp).run s

/-! ## Scratchpad (07 R205) -/

/-- The address of an LDS or STS (R205). -/
def spadAddr (r : Regs) (base : Src) (disp : BitVec 26) : Word := srcSa r base + disp.signExtend 64

def ldsOp (h : Hdr) (w : Width) (d : Reg) (base : Src) (disp : BitVec 26) : SlotOp where
  hdr := h
  slot := 0
  fault5 := fun i => spadFault i.tile (spadAddr i.tile.regs base disp) (Width.size w) (Width.size w) 0
  access := fun i => [acc (spadAddr i.tile.regs base disp).toNat (Width.size w) false]
  fault6 := fun i => poisonFault i.tile (spadAddr i.tile.regs base disp).toNat (Width.size w)
  eff := fun i s =>
    let a := (spadAddr i.tile.regs base disp).toNat
    pushRes 0 2 0 (.g d (extend w (readB i.tile.mem.spad a (Width.size w)))) (latchSa base (srcSa i.tile.regs base) s)
def execLds (h : Hdr) (w : Width) (d : Reg) (base : Src) (disp : BitVec 26) (s : State) := (ldsOp h w d base disp).run s

def stsOp (h : Hdr) (w : Width) (r : Reg) (base : Src) (disp : BitVec 26) : SlotOp where
  hdr := h
  slot := 0
  fault5 := fun i => spadFault i.tile (spadAddr i.tile.regs base disp) (Width.size w) (Width.size w) 0
  access := fun i => [acc (spadAddr i.tile.regs base disp).toNat (Width.size w) true]
  eff := fun i s =>
    let a := (spadAddr i.tile.regs base disp).toNat
    onMem (spadStore a (Width.size w) (readG i.tile.regs r).toNat) (latchSa base (srcSa i.tile.regs base) s)
def execSts (h : Hdr) (w : Width) (r : Reg) (base : Src) (disp : BitVec 26) (s : State) := (stsOp h w r base disp).run s

end Sys2Proof.Machine
end

