-- ==== Sys2Proof/Machine/Control.lean ====
section
/-! DEFINITION. Control flow, loops, END, TRAP, YIELD and special registers: 03_issue.md R82 to R104. -/

namespace Sys2Proof.Machine

/-! ## Transfers (R74, R88, R89) -/

/-- A taken control transfer: the target, and the empty cycle after it (R74). -/
def takeTransfer (target : Word) (s : State) : State := onCtl (fun c => { c with pc := target, bubble := true }) s

/-- A LOOP fault for a row of R89's table. -/
def loopFault (row : Nat) (s : State) : TFault := faultAtPc 0x0B row 0 s

/-- The word at pc, where it can be fetched. -/
def wordAtPc (t : Tile) : Word :=
  match fetchOne t t.ctl.pc with
  | .word w => w
  | _ => 0

/-- ILLEGAL raised at execution by the syllable at pc, which a bundle's issue replaces by its own word and position (R104, R322, R325,
R418). -/
def illegal (s : State) : TFault := { faultAtPc 0x01 0 0 s with detail := detailOf (wordAtPc s.tile) 0 0x01 }

/-- The LOOP fault of a taken BR, BRT or BRI outside the innermost active body (R88). -/
def branchFault (target : Word) (s : State) : Option TFault :=
  match innermost s.tile.ctl with
  | none => none
  | some l => if (levelAddrs s.tile s.tile.ctl.loops[l]).contains target then none else some (loopFault 6 s)

/-- The LOOP fault of a taken CALL or RET while a level is active (R88). -/
def callFault (s : State) : Option TFault := if (innermost s.tile.ctl).isSome then some (loopFault 6 s) else none

/-- PC + sext(disp) × 8 (R52, R93). -/
def relTarget (s : State) (disp : BitVec 32) : Word := s.tile.ctl.pc + (disp.signExtend 64 <<< 3)

def brOp (h : Hdr) (disp : BitVec 32) : SlotOp where
  hdr := h
  slot := 0
  fault5 := fun i => branchFault (relTarget i disp) i
  eff := fun i s => takeTransfer (relTarget i disp) s
def execBr (h : Hdr) (disp : BitVec 32) (s : State) := (brOp h disp).run s

/-- The first i with t_i ≠ 0 and p[t_i] true, else 4 (R52, R96). -/
def brtIndex (t : Tile) (ts : List (BitVec 5)) : Nat := ts.findIdx fun p => p != 0 && readP t p

def brtTarget (t0 t1 t2 t3 : BitVec 5) (stride1 : BitVec 3) (disp : BitVec 20) (s : State) : Word :=
  s.tile.ctl.pc + (disp.signExtend 64 <<< 3)
    + BitVec.ofNat 64 (brtIndex s.tile [t0, t1, t2, t3] * (stride1.toNat + 1) * 32)

def brtOp (h : Hdr) (t0 t1 t2 t3 : BitVec 5) (stride1 : BitVec 3) (disp : BitVec 20) : SlotOp where
  hdr := h
  slot := 0
  fault5 := fun i => branchFault (brtTarget t0 t1 t2 t3 stride1 disp i) i
  eff := fun i s => takeTransfer (brtTarget t0 t1 t2 t3 stride1 disp i) s
def execBrt (h : Hdr) (t0 t1 t2 t3 : BitVec 5) (stride1 : BitVec 3) (disp : BitVec 20) (s : State) :=
  (brtOp h t0 t1 t2 t3 stride1 disp).run s

/-- BRI: ALIGN at a target that is no multiple of 8 (R95). -/
def briOp (h : Hdr) (a : Src) : SlotOp where
  hdr := h
  slot := 0
  fault5 := fun i =>
    let t := srcSa i.tile.regs a
    if t.extractLsb' 0 3 != 0 then some (addrFault 0x04 t 3 0) else branchFault t i
  eff := fun i s =>
    let t := srcSa i.tile.regs a
    takeTransfer t (latchSa a t s)
def execBri (h : Hdr) (a : Src) (s : State) := (briOp h a).run s

/-- CALL: CALLSTK overflow, which is cause 0, before the limits of R88 (R93, R415, R418). -/
def callOp (h : Hdr) (disp : BitVec 32) : SlotOp where
  hdr := h
  slot := 0
  fault5 := fun i => if 8 ≤ i.tile.ctl.rstack.length then some (faultAtPc 0x0C 0 0 i) else callFault i
  eff := fun i s =>
    takeTransfer (relTarget i disp) (onCtl (fun c => { c with rstack := nextPc i.tile :: c.rstack }) s)
def execCall (h : Hdr) (disp : BitVec 32) (s : State) := (callOp h disp).run s

/-- RET: CALLSTK underflow, which is cause 1, before the limits of R88 (R94, R415, R418). -/
def retOp (h : Hdr) : SlotOp where
  hdr := h
  slot := 0
  fault5 := fun i => if i.tile.ctl.rstack.isEmpty then some (faultAtPc 0x0C 1 0 i) else callFault i
  eff := fun i s =>
    takeTransfer (i.tile.ctl.rstack.headD 0) (onCtl (fun c => { c with rstack := c.rstack.tail }) s)
def execRet (h : Hdr) (s : State) := (retOp h).run s

/-! ## Loops (R83, R84, R89, R97, R98) -/

/-- Rows 1 to 4 of R89's table for a LOOP. -/
def loopFaultOf (level : BitVec 3) (count : Reg) (len1 : BitVec 6) (s : State) : Option TFault :=
  let t := s.tile
  let n := readG t.regs count
  if 5 < level.toNat then some (loopFault 1 s)
  else
    match innermost t.ctl with
    | none => if 2 ^ 32 ≤ n.toNat then some (loopFault 3 s) else none
    | some l =>
      if level.toNat ≤ l.val then some (loopFault 2 s)
      else if 2 ^ 32 ≤ n.toNat then some (loopFault 3 s)
      else if (levelLast t t.ctl.loops[l]).toNat < (lastOfBody t len1.toNat (nextPc t)).toNat then some (loopFault 4 s)
      else none

/-- A level armed for the body after the bundle at pc. -/
def armedLevel (t : Tile) (n : Word) (rotate : Bool) (len1 : BitVec 6) : LoopLevel :=
  { active := true, first := (nextPc t).toNat, len := len1.toNat + 1, count := n.toNat, rotate := rotate, isFirst := true }

/-- A loop level set; levels 6 and 7 do not exist. -/
def setLevel (level : Nat) (l : LoopLevel) (c : Ctl) : Ctl :=
  if h : level < 6 then { c with loops := c.loops.set level l h } else c

def loopOp (h : Hdr) (level : BitVec 3) (count : Reg) (rotate : Bool) (len1 : BitVec 6) : SlotOp where
  hdr := h
  slot := 0
  fault5 := loopFaultOf level count len1
  eff := fun i s =>
    let n := readG i.tile.regs count
    if n = 0 then takeTransfer (afterBody i.tile (len1.toNat + 1) (nextPc i.tile)) s
    else onCtl (setLevel level.toNat (armedLevel i.tile n rotate len1)) s
def execLoop (h : Hdr) (level : BitVec 3) (count : Reg) (rotate : Bool) (len1 : BitVec 6) (s : State) :=
  (loopOp h level count rotate len1).run s

def levelOf (c : Ctl) (level : Nat) : LoopLevel := if h : level < 6 then c.loops[level] else {}

/-- The named level and every level above it deactivated (R98). -/
def breakLevels (level : Nat) (c : Ctl) : Ctl :=
  { c with loops := c.loops.mapFinIdx fun j l _ => if level ≤ j then { l with active := false } else l }

def lbrkOp (h : Hdr) (level : BitVec 3) : SlotOp where
  hdr := h
  slot := 0
  fault5 := fun i => if (levelOf i.tile.ctl level.toNat).active then none else some (loopFault 5 i)
  eff := fun i s =>
    takeTransfer (levelAfter i.tile (levelOf i.tile.ctl level.toNat)) (onCtl (breakLevels level.toNat) s)
def execLbrk (h : Hdr) (level : BitVec 3) (s : State) := (lbrkOp h level).run s

/-! ## END, YIELD, TRAP (R92, R99, R100) -/

/-- ILLEGAL inside a phase (R325). -/
def phaseFault (s : State) : Option TFault := if inPhase s then some (illegal s) else none

/-- Whether every tile of the gang in focus has executed END. -/
def gangEnded (s : State) : Bool :=
  (ownGang s).all fun p =>
    let r := (getTile p s).ctl.run
    r == .ended || r == .free

/-- The bind of the tile in focus leaves once every task has ended (R388). -/
def leaveIfEnded (s : State) : State :=
  if gangEnded s then modOwnBind (fun b => if b.state = .running then { b with state := .leaving } else b) s else s

/-- END: fetch stops, every loop level is discarded, results land; faults of the bundle's other syllables are taken (R16, R92, R415). -/
def endTile (s : State) : State :=
  s |> onRegs drainResults
    |> onCtl (fun c => { c with run := .ended, loops := Vector.replicate 6 {}, loopBuf := [], haltReq := false, bubble := false,
                                endedAt := s.mod.cycle })
    |> takePending
    |> leaveIfEnded

def endTaskOp (h : Hdr) : SlotOp where
  hdr := h
  slot := 0
  fault5 := phaseFault
  eff := fun _ s => s
  post := fun _ s => endTile s
def execEndTask (h : Hdr) (s : State) := (endTaskOp h).run s

def yieldOp (h : Hdr) : SlotOp where
  hdr := h
  slot := 0
  point := true
  eff := fun _ s => modOwnBind (fun b => { b with yielded := true }) s
def execYield (h : Hdr) (s : State) := (yieldOp h).run s

/-- The trap record of a tile that waits to post it, and the halt of the gang (R100, R417, R418). -/
def postTrapNow (s : State) : State :=
  match s.tile.ctl.trapped with
  | none => s
  | some (code, addr) =>
    let t := s.tile
    let b := ownBind s
    let hdr := faultHeader s.mod.time addr t.ctl.pc.toNat b.resumable 0 b.stream b.gen t.place.x t.place.y 0x0A 0 code.toNat
      (min b.seq 255)
    s |> queueRec t.place.vd 1 { slots := [hdr, detailOf t.ctl.pc 0 0x0A] }
      |> onCtl (fun c => { c with trapped := none, faulted := true, fltcode := 0x0A, fltaddr := addr })
      |> haltOthers
      |> modOwnBind (fun b => { bindHalting b with fault := true, seq := b.seq + 1, traps := b.traps ++ [(regionIndex b t, addr)] })

/-- The trap record is posted after every earlier store of the tile has been performed (R100). -/
def postTrap (s : State) : State := if s.tile.eng.sq.all (·.done) then postTrapNow s else s

/-- TRAP: results land, the tile stops at the next bundle, where faults of the bundle's other syllables are taken, and the record is
posted (R100, R415). -/
def trapTile (pc : Word) (code : BitVec 16) (s : State) : State :=
  s |> onTile haltTile
    |> takePending
    |> onCtl (fun c => { c with trapped := some (code, pc), fltcode := 0x0A, fltaddr := pc })
    |> postTrap

def trapOp (h : Hdr) (code : BitVec 16) : SlotOp where
  hdr := h
  slot := 0
  fault5 := phaseFault
  eff := fun _ s => s
  post := fun i s => trapTile i.tile.ctl.pc code s
def execTrap (h : Hdr) (code : BitVec 16) (s : State) := (trapOp h code).run s

/-! ## Special registers (R101 to R104) -/

def flagBit (b : Bool) (n : Nat) : Nat := if b then 2 ^ n else 0

/-- LCOUNT (R90). -/
def lcount (c : Ctl) : Word :=
  let act := (upTo 6).foldl (fun v n => v + flagBit (levelOf c n).active n) 0
  match innermost c with
  | none => 0
  | some l => (0 : BitVec 18) ++ (BitVec.ofNat 6 act ++ ((0 : BitVec 5) ++ (BitVec.ofNat 3 l.val ++
      BitVec.ofNat 32 (c.loops[l]).count)))

/-- Whether a job belongs to the Coppice's busy bit (R414). -/
def coppiceJob : MJob → Bool
  | .calld _ | .cpbind _ _ | .cpinv _ | .cpsav _ _ | .cprst _ _ => true
  | _ => false

/-- ENGST (R414). -/
def engst (e : Eng) : Word :=
  BitVec.ofNat 64 (flagBit (!e.mq.isEmpty) 0 + flagBit e.mfault 1 + flagBit (e.mq.any fun j => coppiceJob j.job) 2
    + flagBit e.pfault 3 + flagBit (!(e.cq[0]).isEmpty) 4 + flagBit (!(e.cq[1]).isEmpty) 5 + flagBit (!(e.cq[2]).isEmpty) 6
    + flagBit (!(e.cq[3]).isEmpty) 7 + e.cfault.toNat * 2 ^ 8 + flagBit (!e.bq.isEmpty) 12 + flagBit e.bfault 13)

/-- THROTTLE (18 R484). -/
def throttleReg (m : Mod) (stopSeen : Bool) : Word :=
  (0 : BitVec 16) ++ (m.events ++ ((0 : BitVec 6) ++ (BitVec.ofBool stopSeen ++ (BitVec.ofBool m.hot ++ ((0 : BitVec 7) ++
    BitVec.ofBool m.div)))))

/-- SCHED (15 R409). -/
def schedReg (p : Place) : Word :=
  (0 : BitVec 15) ++ (BitVec.ofBool p.schedProg ++ (p.schedN ++ ((0 : BitVec 16) ++ p.schedPos)))

/-- RBASE (04 R110). -/
def rbase (r : Regs) : Word := (0 : BitVec 52) ++ (r.rbPb ++ ((0 : BitVec 3) ++ r.rbVb))

/-- A special register as it stands in the issue cycle; none for an index of no register (R101, R102, R104). -/
def specialReg (s : State) (idx : Nat) : Option Word :=
  let t := s.tile
  match idx with
  | 0x00 => some s.mod.cycle
  | 0x01 => some s.mod.time
  | 0x02 => some (BitVec.ofNat 32 0 ++ (BitVec.ofNat 16 t.place.y ++ BitVec.ofNat 16 t.place.x))
  | 0x03 => some (BitVec.ofNat 48 0 ++ (BitVec.ofNat 8 t.place.h ++ BitVec.ofNat 8 t.place.w))
  | 0x04 => some (t.place.vd.setWidth 64)
  | 0x05 => some (BitVec.ofNat 64 (lapOf s.flume s.cur))
  | 0x06 => some (lapPos s.flume s.cur)
  | 0x07 => some (engst t.eng)
  | 0x08 => some (t.ctl.fltcode.setWidth 64)
  | 0x09 => some t.ctl.fltaddr
  | 0x0A => some (rbase t.regs)
  | 0x0B => some (lcount t.ctl)
  | 0x0C => some (schedReg t.place)
  | 0x0D => some (BitVec.ofNat 64 (t.place.ppmax % 4096))
  | 0x0E => some (throttleReg s.mod t.place.stopSeen)
  | 0x0F => some t.place.mbxFresh
  | 0x10 => some ((BitVec.ofBool t.regs.ftz).setWidth 64)
  | 0x11 => some (t.regs.fpflags.setWidth 64)
  | _ => none

/-- The RW fields of a special register written (R103); none where the index has none (R104). -/
def writeSpecial (idx : Nat) (v : Word) : Option (Regs → Regs) :=
  match idx with
  | 0x0A => some fun r => { r with rbVb := v.extractLsb' 0 5, rbPb := v.extractLsb' 8 4 }
  | 0x10 => some fun r => { r with ftz := v.getLsbD 0 }
  | 0x11 => some fun r => { r with fpflags := v.extractLsb' 0 5 }
  | _ => none

def rdsrOp (h : Hdr) (d : Reg) (idx : BitVec 8) : SlotOp where
  hdr := h
  slot := 0
  fault5 := fun i => if (specialReg i idx.toNat).isSome then none else some (illegal i)
  eff := fun i s => pushRes 0 0 0 (.g d ((specialReg i idx.toNat).getD 0)) s
def execRdsr (h : Hdr) (d : Reg) (idx : BitVec 8) (s : State) := (rdsrOp h d idx).run s

def wrsrOp (h : Hdr) (a : Src) (idx : BitVec 8) : SlotOp where
  hdr := h
  slot := 0
  fault5 := fun i => if (writeSpecial idx.toNat 0).isSome then none else some (illegal i)
  eff := fun i s =>
    let v := srcSa i.tile.regs a
    onRegs ((writeSpecial idx.toNat v).getD id) (latchSa a v s)
def execWrsr (h : Hdr) (a : Src) (idx : BitVec 8) (s : State) := (wrsrOp h a idx).run s

end Sys2Proof.Machine
end

