-- ==== Sys2Proof/Machine/Fabric.lean ====
section
/-! DEFINITION. Links, scope groups, barriers, transfer phases, XMIT and XSEL, ALIGN: 12_fabric.md R316 to R331. -/

namespace Sys2Proof.Machine

/-! ## Links and routes (R316) -/

/-- The region-relative neighbour in a direction, in a region of `w` by `h` clusters; none over a fenced link. -/
def neighbour (w h x y : Nat) (d : Dir) : Option (Nat × Nat) :=
  let nx := 4 * w
  let ny := 2 * h
  match d with
  | .north => if 0 < y then some (x, y - 1) else if h = 8 then some (x, ny - 1) else none
  | .south => if y + 1 < ny then some (x, y + 1) else if h = 8 then some (x, 0) else none
  | .east => if x + 1 < nx then some (x + 1, y) else if w = 8 then some (0, y) else none
  | .west => if 0 < x then some (x - 1, y) else if w = 8 then some (nx - 1, y) else none

def opposite : Dir → Dir
  | .north => .south
  | .south => .north
  | .east => .west
  | .west => .east

/-- The physical tile at region-relative (x, y) of the gang in focus. -/
def gangTile (s : State) (x y : Nat) : Option Nat :=
  match s.tile.place.slot with
  | some b => some (tileAt (getBind b s) x y)
  | none => if x = s.tile.place.x ∧ y = s.tile.place.y then some s.cur else none

/-! ## Scope groups (R318) -/

/-- The physical tiles of entry `e` of the tile in focus. -/
def scopeTiles (s : State) (e : Nat) : List Nat :=
  let t := s.tile
  (upTo (8 * t.place.w * t.place.h)).filterMap fun j =>
    let x := j % (4 * t.place.w)
    let y := j / (4 * t.place.w)
    if inScope t e x y then gangTile s x y else none

/-! ## Barriers (R320 to R323) -/

/-- Dbar (R321). -/
def barrierDelay : Nat := 8

def episode (t : Tile) (e : Nat) : Episode := smGet {} t.eng.epi e
def setEpisode (e : Nat) (x : Episode) (t : Tile) : Tile := { t with eng := { t.eng with epi := smPut {} e x t.eng.epi } }

/-- The ILLEGAL faults of a BAR (R322): judged before its release, which itself opens or closes the phase (R324). -/
def barFault (k : BarKind) (e : BitVec 5) (s : State) : Option TFault :=
  let t := s.tile
  if t.ctl.barOpen then none
  else if !inScope t e.toNat t.place.x t.place.y then some (illegal s)
  else
    match k with
    | .plain => none
    | .open_ => if inPhase s then some (illegal s) else none
    | .close_ => if t.eng.phase = some e then none else some (illegal s)

/-- The first cycle in which only the BAR holds the tile: it arrives, and after a resume it arrives anew (R321, R323). -/
def barArrive (k : BarKind) (e : BitVec 5) (s : State) : State :=
  onTile (fun t =>
    let ep := episode t e.toNat
    match ep.arrived with
    | some (some _, _) => t
    | _ => setEpisode e.toNat { ep with arrived := some (some k, s.mod.cycle) } t) s

def barOp (h : Hdr) (k : BarKind) (e : BitVec 5) : SlotOp where
  hdr := h
  slot := 0
  fault5 := barFault k e
  wait := fun i => !i.tile.ctl.barOpen
  held := barArrive k e
  eff := fun _ s => onTile (fun t => setEpisode e.toNat { count := (episode t e.toNat).count + 1, arrived := none } t) s
def execBar (h : Hdr) (k : BarKind) (e : BitVec 5) (s : State) := (barOp h k e).run s

/-- The BAR with which a running member has arrived at episode `k` of entry `e`, since its last resume (R321, R323). -/
def arrivedAt (t : Tile) (e : Nat) (k : BitVec 16) : Option (BarKind × Word) :=
  let ep := episode t e
  if t.ctl.run = .running ∧ ep.count + 1 = k then
    match ep.arrived with
    | some (some kind, c) => some (kind, c)
    | _ => none
  else none

/-- The CYCLE at which a member arrived at episode `k` of entry `e`: 0 for one that has issued its BAR of that episode, its END's
for one that has ended; none while it has not arrived (R321). -/
def arrivalOf (t : Tile) (e : Nat) (k : BitVec 16) : Option Nat :=
  match t.ctl.run with
  | .running => if (episode t e).count = k then some 0 else (arrivedAt t e k).map (·.2.toNat)
  | .ended | .free => some t.ctl.endedAt.toNat
  | .stopped => none

/-- Kinds given in the episode. -/
def kindsOf (ts : List Tile) (e : Nat) (k : BitVec 16) : List BarKind := ts.filterMap fun t => (arrivedAt t e k).map (·.1)

/-- The episode of entry `e` that the tile waits for. -/
def nextEpisode (t : Tile) (e : Nat) : BitVec 16 := (episode t e).count + 1

/-- Whether a release of episode `k` reaches a member: one that waits for it, or has ended. -/
def releases (e : Nat) (k : BitVec 16) (t : Tile) : Bool := t.ctl.run != .running || (arrivedAt t e k).isSome

/-- The release in one member: the phase opens or closes with it, and its latches are zero (R324, R328). -/
def releaseTile (k : BarKind) (e : BitVec 5) (t : Tile) : Tile :=
  let t1 := { t with ctl := { t.ctl with barOpen := t.ctl.run = .running } }
  match k with
  | .plain => t1
  | .open_ => { t1 with eng := { t1.eng with phase := some e, latches := Vector.replicate 4 0, links := [] } }
  | .close_ => { t1 with eng := { t1.eng with phase := none, latches := Vector.replicate 4 0, links := [] } }

/-- FENCE cause 1 (R322). -/
def mixedKinds (e : BitVec 5) (s : State) : State :=
  takeFault { code := 0x09, addr := s.tile.ctl.pc, cause := 1, detail := detailOf 0 (e.toNat * 2 ^ 10) 0x09 }
    (onTile (fun t => setEpisode e.toNat { episode t e.toNat with arrived := none } t) s)

/-- Whether the episode of entry `e` that the tile in focus has arrived at is complete, and Dbar has passed since its last
arrival (R321). -/
def barrierDue (s : State) (e : Nat) : Bool :=
  let k := nextEpisode s.tile e
  let arr := (scopeTiles s e).map fun p => arrivalOf (getTile p s) e k
  !arr.isEmpty && arr.all Option.isSome && (arrivedAt s.tile e k).isSome && !s.tile.ctl.barOpen
    && decide (arr.foldl (fun a x => max a (x.getD 0)) 0 + barrierDelay ≤ s.mod.cycle.toNat)

/-- BARRIER_RELEASE (R321, R322, R324): every member of entry `e` of the tile in focus releases at once. -/
def barrierRelease (e : BitVec 5) (s : State) : State :=
  if barrierDue s e.toNat then
    let k := nextEpisode s.tile e.toNat
    let ps := (scopeTiles s e.toNat).filter fun p => releases e.toNat k (getTile p s)
    match (kindsOf (ps.map (getTile · s)) e.toNat k).eraseDups with
    | [kind] => overTiles ps (releaseTile kind e) s
    | _ => eachTile (ps.filter fun p => (getTile p s).ctl.run = .running) (mixedKinds e) s
  else s
def execBarrierRelease (e : BitVec 5) (s : State) : Host.Outcome State Fault Refusal := .next (barrierRelease e s)

/-- Every barrier on which the tile in focus has arrived is released when it is due. -/
def releaseDue (s : State) : State :=
  (upTo 32).foldl (fun s e => if (episode s.tile e).arrived.isSome then barrierRelease (BitVec.ofNat 5 e) s else s) s

/-! ## XMIT and XSEL (R328 to R330) -/

/-- The far tile of a link inside the open phase: none where R330 raises FENCE. -/
def farTile (s : State) (e : BitVec 5) (d : Dir) : Option Nat :=
  let p := s.tile.place
  match neighbour p.w p.h p.x p.y d with
  | none => none
  | some (x, y) =>
    if inScope s.tile e.toNat x y then
      match gangTile s x y with
      | some q =>
        let r := (getTile q s).ctl.run
        if r = .ended ∨ r = .free then none else some q
      | none => none
    else none

/-- The precise faults of R330. Whether an XMIT or XSEL in the bundle of a BAR.T or BAR.E is inside the phase no rule says (R415, R324): it is
judged in the first cycle and again at the release, so that beside a BAR.T it raises ILLEGAL at once, and beside a BAR.E at the release.
DESIGN CHOICE, log entry 105. -/
def linkFault (d : Dir) (s : State) : Option TFault :=
  match s.tile.eng.phase with
  | none => some (illegal s)
  | some e =>
    if (farTile s e d).isSome then none
    else some (faultAtPc 0x09 0 (e.toNat * 2 ^ 10 + d.code.toNat * 2 ^ 8) s)

def xmitOp (h : Hdr) (d : Dir) (vs : Reg) : SlotOp where
  hdr := h
  slot := 3
  fault5 := linkFault d
  eff := fun i s =>
    match i.tile.eng.phase.bind fun e => farTile i e d with
    | some q =>
      modTile q (fun t => { t with eng := { t.eng with
        links := t.eng.links ++ [(i.mod.cycle + 4, (opposite d).code, readV i.tile.regs vs)] } }) s
    | none => s
def execXmit (h : Hdr) (d : Dir) (vs : Reg) (s : State) := (xmitOp h d vs).run s

/-- XMIT data on the tile's links from CYCLE `c` on reach their latches, the later arrival last (R329). -/
def arriveLinks (c : Word) (e : Eng) : Eng :=
  let due := e.links.filter fun l => l.1.toNat ≤ c.toNat
  { e with links := e.links.filter (fun l => !decide (l.1.toNat ≤ c.toNat))
           latches := due.foldl (fun ls l => ls.set l.2.1.toNat l.2.2 l.2.1.isLt) e.latches }

/-- XMIT_ARRIVAL: what is due at the tile in focus in this cycle. -/
def execXmitArrival (s : State) : Host.Outcome State Fault Refusal := .next (onEng (arriveLinks s.mod.cycle) s)

def xselOp (h : Hdr) (d : Dir) (vd : Reg) : SlotOp where
  hdr := h
  slot := 3
  fault5 := linkFault d
  eff := fun i s =>
    pushRes 3 12 0 (.v (physV i.tile.regs vd) (BitVec.allOnes 2048) (i.tile.eng.latches[d.code.toNat]'d.code.isLt)) s
def execXsel (h : Hdr) (d : Dir) (vd : Reg) (s : State) := (xselOp h d vd).run s

/-! ## ALIGN (R331) -/

/-- Whether TIME has just come to a multiple of 16, or of 1,024 for PEER. -/
def alignNow (peer : Bool) (s : State) : Bool :=
  s.mod.time != s.mod.prevTime && s.mod.time.toNat % (if peer then 1024 else 16) == 0

def alignOp (h : Hdr) (peer : Bool) : SlotOp where
  hdr := h
  slot := 0
  fault5 := phaseFault
  wait := fun i => !alignNow peer i
  eff := fun _ s => s
def execAlign (h : Hdr) (peer : Bool) (s : State) := (alignOp h peer).run s

end Sys2Proof.Machine
end

