-- ==== Sys2Proof/Machine/Memory.lean ====
section
/-! DEFINITION. Global memory: slices and their lines (13_memory.md R332 to R341), page walks and translation caches
(14_translation.md R366 to R372), counters (R376, R377), flash leaves (R378), write-block (R379), the device window (R367),
snapshots' copies (17_host.md R467), peers (R473), poisoned sectors (16_preemption.md R440). -/

namespace Sys2Proof.Machine

/-- Bytes of LPDDR6 (R476). -/
def deviceBytes : Nat := 2 ^ 38

/-- The first byte of the dump region: the top 2 GiB of LPDDR6 (16 R442, 18 R477). -/
def dumpBase : Nat := 254 * 2 ^ 30

/-- Whether `n` bytes from `a` lie clear of the two parts of LPDDR6 that belong to no virtual device (18 R477). -/
def ownable (a n : Nat) : Bool := decide (2 ^ 30 ≤ a ∧ a + n ≤ dumpBase)

/-! ## Lines of the slices (R333 to R340) -/

/-- The set of a line address, over all slices (R333). -/
def lineSet (line : Nat) : Nat × Nat :=
  let pa := 256 * line
  (field pa 11 8 ^^^ field pa 15 12, field pa 22 12)

/-- Wakes recorded on every tile whose monitor is armed on a sector of `[lo, hi)` sector numbers (R363). -/
def wakeMon (lo hi : Nat) (t : Tile) : Tile :=
  match t.eng.mon with
  | some m =>
    match m.sector with
    | some x => if lo ≤ x ∧ x < hi then { t with eng := { t.eng with mon := some { m with wake := true } } } else t
    | none => t
  | none => t

def wakeSectors (lo hi : Nat) (s : State) : State :=
  { s with tile := wakeMon lo hi s.tile, others := s.others.map fun p => (p.1, wakeMon lo hi p.2) }

def onMemSys (f : MemSys → MemSys) (s : State) : State := { s with mem := f s.mem }

/-! ## Event rings (15 R395, R397) -/

/-- The ring of a queue: header and k. -/
def ringHeader (q : EqReg) : Nat := field q.raw.toNat 63 6 * 64
def ringK (q : EqReg) : Nat := field q.raw.toNat 4 0
/-- Whether a queue is set up. One whose header lies where PCIe does not reach cannot be. DEDUCED, log entry 67. -/
def ringSet (q : EqReg) : Bool := decide (4 ≤ ringK q ∧ ringK q ≤ 16) && field (ringHeader q) 47 46 != 3

/-- Host memory by bus address. -/
def hostWrite (a n v : Nat) (s : State) : State := onMemSys (fun m => { m with hmem := writeB a n v m.hmem }) s

/-- A record dropped at a full queue: overrun counts it (R395, R397). -/
def countOverrun (h : Nat) (s : State) : State := hostWrite (h + 12) 4 ((readB s.mem.hmem (h + 12) 4 + 1) % 2 ^ 32) s

/-- Slots in use of a ring: prod − cons modulo 2^32. -/
def ringUsed (h : Nat) (s : State) : Nat := (readB s.mem.hmem h 4 + 2 ^ 32 - readB s.mem.hmem (h + 4) 4) % 2 ^ 32

/-- Slots of the records that wait for a queue. -/
def waitingSlots (rs : List Rec) : Nat := rs.foldl (fun n r => n + r.slots.length) 0

/-- Whether a queue that is set up has no room for `n` slots more, after the records that wait (R397). -/
def ringFull (vd : BitVec 8) (q : Fin 4) (n : Nat) (s : State) : Bool :=
  let v := getVd vd s
  let e := v.eq[q]
  ringSet e && decide (2 ^ ringK e < ringUsed (ringHeader e) s + waitingSlots v.recs[q] + n)

/-- A record that a full queue drops (R397, R471, R489). -/
def queueOrDrop (vd : BitVec 8) (q : Fin 4) (x : BitVec 256) (s : State) : State :=
  if ringFull vd q 1 s then countOverrun (ringHeader (getVd vd s).eq[q]) s else queueRec vd q { slots := [x], drops := true } s

/-! ## Device memory's lines -/

/-- Bytes of a freed dirty sector become undefined values (R338). -/
def undefSector (sector : Nat) (s : State) : State :=
  let k := s.fresh
  { s with fresh := k + 1
           mem := { s.mem with dmem := writeList (128 * sector) ((upTo 128).map (Config.undefByte k)) s.mem.dmem } }

/-- A line leaves its slice: monitors on it wake; a protected victim is counted for its device (R338, R339, R363). -/
def dropLine (l : Line) (s : State) : State :=
  wakeSectors (2 * l.line) (2 * l.line + 2) (onMemSys (fun m => { m with lines := m.lines.filter (·.line != l.line) }) s)

/-- Eviction of a victim (R339). -/
def evictLine (l : Line) (s : State) : State :=
  let s1 := dropLine l s
  if l.count = 0 then s1 else modVd l.vd (fun v => { v with pinev := v.pinev + 1 }) s1

/-- The victim of a fill into a full set (R339); lists run from the most recently used. -/
def victim (set : List Line) : Option Line :=
  match (set.filter (·.count == 0)).getLast? with
  | some l => some l
  | none =>
    match (set.filter (·.count != 255)).getLast? with
    | some l => some l
    | none => set.getLast?

/-- The pinned-cache claim of a bind, in bytes (R340). -/
def pinClaim (s : State) (slot : Nat) : Nat :=
  let b := getBind slot s
  match (getVd b.vd s).images.find? (·.handle == b.image) with
  | some i => i.pinned
  | none => 0

def pinnedBytes (s : State) (slot : Nat) : Nat := 256 * (s.mem.lines.filter fun l => l.owner == some slot).length

/-- Hints of an access: use count, discard flag, the bind charged for a pin, its device, whether it is a PREF (R337), and whether its
reads are among those that lower a count (R338). -/
structure Hints where
  u      : BitVec 8 := 0
  disc   : Bool := false
  slot   : Option Nat := none
  vd     : BitVec 8 := 0
  pref   : Bool := false
  counts : Bool := false

/-- The count a hinted access sets: a pin beyond the claim is refused and counted; one of no bind is the Yarder's (R340). -/
def grantCount (h : Hints) (s : State) : BitVec 8 × State :=
  if h.u = 255 then
    match h.slot with
    | some b =>
      if pinnedBytes s b + 256 ≤ pinClaim s b then (255, s) else (0, modVd h.vd (fun v => { v with pinref := v.pinref + 1 }) s)
    | none => (255, s)
  else (h.u, s)

/-- A line put first in use order. -/
def putLine (l : Line) (m : MemSys) : MemSys := { m with lines := l :: m.lines.filter (·.line != l.line) }
/-- A line put last in use order, the least recently used of its set. -/
def lastLine (l : Line) (m : MemSys) : MemSys := { m with lines := m.lines.filter (·.line != l.line) ++ [l] }

/-- One counted read of a line (R338). -/
def countRead (l : Line) (s : State) : State :=
  if l.count = 0 ∨ l.count = 255 then s
  else if 1 < l.count.toNat then onMemSys (putLine { l with count := l.count - 1 }) s
  else if l.disc then
    let s1 := dropLine l s
    let s2 := if l.dirty0 then undefSector (2 * l.line) s1 else s1
    if l.dirty1 then undefSector (2 * l.line + 1) s2 else s2
  else onMemSys (lastLine { l with count := 0, disc := false, owner := none }) s

/-- Room in the set of `line` (R339). -/
def makeRoom (line : Nat) (s : State) : State :=
  let set := s.mem.lines.filter fun l => lineSet l.line == lineSet line
  if set.length < 16 then s
  else
    match victim set with
    | some l => evictLine l s
    | none => s

/-- An access to one line of device memory: fill or hit, hints, dirty sectors, the counted read (R335 to R339). -/
def touchLine (line : Nat) (s0 s1 : Bool) (write : Bool) (h : Hints) (s : State) : State :=
  match s.mem.lines.find? (·.line == line) with
  | none =>
    let st := makeRoom line s
    let (c, st) := if write then (0, st) else grantCount h st
    let l : Line := { line := line, valid0 := s0 || h.pref, valid1 := s1 || h.pref, dirty0 := write && s0, dirty1 := write && s1
                      count := c, disc := h.disc && !write && c != 0, owner := if c = 255 then h.slot else none, vd := h.vd
                      users := [h.vd.toNat] }
    let st := onMemSys (putLine l) st
    if write || h.pref || !h.counts then st else countRead l st
  | some l =>
    let l := { l with valid0 := l.valid0 || s0, valid1 := l.valid1 || s1
                      dirty0 := l.dirty0 || (write && s0), dirty1 := l.dirty1 || (write && s1)
                      users := if l.users.contains h.vd.toNat then l.users else l.users ++ [h.vd.toNat] }
    if write then onMemSys (putLine l) s
    else
      let hinted := (l.count == 0 && h.u != 0) || (h.u == 255 && l.count != 255)
      let (c, st) := if hinted then grantCount h s else (l.count, s)
      let set := hinted && (c != 0)
      let l := if set then { l with count := c, disc := h.disc, owner := if c = 255 then h.slot else none, vd := h.vd } else l
      let st := onMemSys (putLine l) st
      if h.pref || !h.counts then st else countRead l st

/-- The lines of `n` bytes from physical address `pa`, each touched once. -/
def touchLines (pa n : Nat) (write : Bool) (h : Hints) (s : State) : State :=
  if n = 0 ∨ deviceBytes < pa + n then s
  else (upTo ((pa + n - 1) / 256 - pa / 256 + 1)).foldl (fun s j =>
    let line := pa / 256 + j
    let lo := max pa (256 * line)
    let hi := min (pa + n) (256 * line + 256)
    touchLine line (decide (lo < 256 * line + 128)) (decide (256 * line + 128 < hi)) write h s) s

/-- The lines of the bytes that a table lists. -/
def linesOf (m : SMap Byte) : List Nat :=
  m.foldr (fun x ls => if ls.head? = some (x.1 / 256) then ls else x.1 / 256 :: ls) []

/-! ## Device memory by physical address -/

/-- Whether a read meets a poisoned sector (R440). Beyond LPDDR6, where no table leads but a lap map can place a raft, no rule says what is
read: an uncorrectable error. DESIGN CHOICE, log entry 68. -/
def devPoisoned (m : MemSys) (pa n : Nat) : Bool :=
  decide (deviceBytes < pa + n) || n != 0 && (upTo ((pa + n - 1) / 128 - pa / 128 + 1)).any fun j => smGet false m.dpoison (pa / 128 + j)

/-- A write to device memory: bytes, marks of sectors written whole, wakes (R334, R363, R440); beyond LPDDR6 there is none to
write (R476; log entry 68). -/
def devStore (pa : Nat) (bs : List Byte) (s : State) : State :=
  let n := bs.length
  if n = 0 ∨ deviceBytes < pa + n then s
  else
    let whole := (upTo ((pa + n) / 128 - (pa + 127) / 128)).map ((pa + 127) / 128 + ·)
    wakeSectors (pa / 128) ((pa + n - 1) / 128 + 1)
      (onMemSys (fun m => { m with dmem := writeList pa bs m.dmem
                                   dpoison := whole.foldl (fun d x => smPut false x false d) m.dpoison }) s)

/-- A read of device memory by a unit of the device: its lines in the slices (R334, R335). -/
def devTouch (vd : BitVec 8) (pa n : Nat) (s : State) : State := touchLines pa n false { vd := vd } s
/-- A write of device memory by a unit of the device (R334, R335). -/
def devWrite (vd : BitVec 8) (pa : Nat) (bs : List Byte) (s : State) : State := touchLines pa bs.length true { vd := vd } (devStore pa bs s)

/-! ## Scope group tables (12 R318) -/

/-- Whether an image's scope group table stands: its handle is held, or a bind or a job of it remains (R318). -/
def scopeKept (vd : Nat) (v : VDev) (s : State) (i : Image) : Bool :=
  !i.retired || (s.binds.any fun b => b.2.state != .empty && b.2.vd.toNat == vd && b.2.image == i.handle)
    || v.streams.any fun st => st.jobs.any fun j => !j.left && j.image == i.handle

/-- The scope group tables that stand. -/
def scopesInUse (s : State) : List Nat :=
  s.vds.flatMap fun v => (v.2.images.filter (scopeKept v.1 v.2 s)).map (·.scopeAt)

/-- Bytes of a scope group table. -/
def scopeLen : Nat := 2048

/-- Whether `n` bytes of device memory meet a granule that holds a scope group table, which no virtual device can read or write (R318).
How an access that a leaf leads there ends no rule says, nor how a walk that a root or a pointer leads there does: each as one that is not
permitted. DESIGN CHOICE, log entry 89. -/
def meetsScopes (s : State) (pa n : Nat) : Bool := (scopesInUse s).any fun a => decide (pa < a / 4096 * 4096 + 4096 ∧ a / 4096 * 4096 < pa + n)

/-! ## Page walks (R368 to R370, R382) -/

/-- Why an access did not translate, or met an uncorrectable error: code XLATE or POISON, and the fields of R383. -/
structure XFault where
  code  : BitVec 8 := 0x05
  cause : Nat
  entry : Word := 0
  level : Nat := 0

/-- A page-table entry's fields (R369). -/
def pteV (e : Word) : Bool := e.getLsbD 0
def pteR (e : Word) : Bool := e.getLsbD 1
def pteW (e : Word) : Bool := e.getLsbD 2
def pteWb (e : Word) : Bool := e.getLsbD 3
def pteC (e : Word) : Bool := e.getLsbD 4
def pteAc (e : Word) : Bool := e.getLsbD 5
def pteRes (e : Word) : BitVec 2 := e.extractLsb' 6 2
def pteAddr (e : Word) : Nat := (e.extractLsb' 12 36).toNat * 4096
def pteCount (e : Word) : Nat := (e.extractLsb' 48 16).toNat
def ptePointer (e : Word) : Bool := !pteR e && !pteW e

/-- Size of a leaf's page (R368). -/
def leafSize (level : Nat) (e : Word) : Nat :=
  if level = 1 then 2 ^ 30 else if level = 2 then 2 ^ 21 else if pteC e then 65536 else 4096

/-- A device address that a table entry gives. R369's addr names 2^48 bytes and LPDDR6 has 2^38, and no rule says where an address beyond
it leads: the low 38 bits select the byte. DESIGN CHOICE, log entry 68. -/
def devAddr (a : Nat) : Nat := a % deviceBytes

/-- A malformed entry with v = 1 (R369). The host leaf of a page under write-block keeps the count that the drop of its counted entry
gave it, though ac is clear, and R497 and R498 walk through it: such a leaf is not malformed. DEDUCED, log entry 66. -/
def pteBad (level : Nat) (e : Word) : Bool :=
  let leaf := !ptePointer e
  e.extractLsb' 8 4 != 0 || pteRes e == 3
    || (!leaf && (pteCount e != 0 || pteRes e != 0 || pteAc e || pteC e || pteWb e))
    || (leaf && level == 0) || (!leaf && level == 3)
    || (pteC e && decide (level < 3))
    || (pteAc e && pteRes e != 1)
    || (leaf && pteAddr e % leafSize level e != 0)
    || (leaf && pteRes e == 2 && decide (65536 < leafSize level e))
    || (leaf && pteCount e != 0 && !(pteRes e == 1 && (pteAc e || pteWb e)))

/-- Where a walk ends. -/
inductive Walk where
  | leaf (e : TlbEnt) (leafPa : Nat) (entry : Word)
  | fail (x : XFault)

/-- The translation a leaf at `leafPa` gives (R371, R376). -/
def leafEnt (vd : BitVec 8) (va level leafPa : Nat) (e : Word) : TlbEnt :=
  let sz := leafSize level e
  { vd := vd, base := va / sz * sz, size := sz, addr := if pteRes e = 0 then devAddr (pteAddr e) else pteAddr e, res := pteRes e, r := pteR e, w := pteW e, wb := pteWb e
    leaf := e, counted := if pteAc e then some (pteCount e, leafPa) else none }

/-- One read of an entry of a device's tables by a walker (R334, R338): none on an uncorrectable error. -/
def readPte (vd : BitVec 8) (pa : Nat) (s : State) : Option Word × State :=
  if devPoisoned s.mem pa 8 then (none, s)
  else (some (BitVec.ofNat 64 (readB s.mem.dmem pa 8)), touchLines pa 8 false { vd := vd, counts := true } s)

/-- A walk from the table at `table`, at level 3 less the levels still to go (R368, R370); none reads a scope group table (12 R318, log entry
89). An entry that cannot be read is recorded as zero, which R383 leaves open for cause 6. DESIGN CHOICE, log entry 113. -/
def walkFrom (vd : BitVec 8) (va : Nat) : Nat → Nat → State → Walk × State
  | 0, _, s => (.fail { cause := 5 }, s)
  | more + 1, table, s =>
    let level := 3 - more
    let pa := table + 8 * field va (47 - 9 * level) (39 - 9 * level)
    if meetsScopes s pa 8 then (.fail { cause := 2, level := level }, s)
    else
    match readPte vd pa s with
    | (none, s) => (.fail { cause := 6, level := level }, s)
    | (some e, s) =>
      if !pteV e then (.fail { cause := 1, entry := e, level := level }, s)
      else if level = 3 ∧ pteC e then
        let hpa := table + 8 * (field va 20 12 / 16 * 16)
        if hpa = pa then
          if pteBad 3 e then (.fail { cause := 5, entry := e, level := 3 }, s) else (.leaf (leafEnt vd va 3 pa e) pa e, s)
        else
          match readPte vd hpa s with
          | (none, s) => (.fail { cause := 6, level := 3 }, s)
          | (some h, s) =>
            if !pteV h then (.fail { cause := 1, entry := h, level := 3 }, s)
            else if !pteC h || pteBad 3 h then (.fail { cause := 5, entry := h, level := 3 }, s)
            else (.leaf (leafEnt vd va 3 hpa h) hpa h, s)
      else if pteBad level e then (.fail { cause := 5, entry := e, level := level }, s)
      else if ptePointer e then walkFrom vd va more (devAddr (pteAddr e)) s
      else (.leaf (leafEnt vd va level pa e) pa e, s)

/-- A walk of a virtual device's tables from its root (R368, R446). -/
def walk (vd : BitVec 8) (va : Nat) (s : State) : Walk × State :=
  walkFrom vd va 4 (devAddr (((getVd vd s).ptroot.extractLsb' 12 36).toNat * 4096)) s

/-! ## Pool and flash (R378, R469, R471, R472) -/

/-- The ranges of the pool (R469). -/
def poolRanges (v : VDev) : List (Nat × Nat) := (v.poolBase, v.poolBytes) :: v.poolExtra

/-- Whether `n` bytes from `a` lie in a range of the pool. -/
def inPool (v : VDev) (a n : Nat) : Bool := (poolRanges v).any fun r => decide (r.1 ≤ a ∧ a + n ≤ r.1 + r.2)

/-- Whether `n` bytes from `a` of the pool are unused. -/
def poolFree (v : VDev) (a n : Nat) : Bool := inPool v a n && v.poolUsed.all fun u => decide (a + n ≤ u.1 ∨ u.1 + u.2 ≤ a)

/-- The lowest unused aligned range of `n` bytes among the pool's starts and the ends of its used ranges. -/
def poolPick (v : VDev) (n : Nat) : Option Nat :=
  let up := fun a => (a + n - 1) / n * n
  let cands := ((poolRanges v).map (·.1) ++ v.poolUsed.map fun u => u.1 + u.2).map up
  (cands.filter (poolFree v · n)).foldl (fun b a => match b with | none => some a | some b => some (min a b)) none

def poolTake (a n : Nat) (v : VDev) : VDev := { v with poolUsed := v.poolUsed ++ [(a, n)] }
def poolGive (a : Nat) (v : VDev) : VDev := { v with poolUsed := v.poolUsed.filter (·.1 != a) }

/-- A flash page readable under the device's storage key (R470). -/
def flashPage (s : State) (vd : BitVec 8) (handle : Nat) : Option (SMap Byte) :=
  match s.mem.flash.find? fun f => f.1 == handle && f.2.1 == vd && f.2.2.1 == (getVd vd s).storageKey with
  | some f => some f.2.2.2
  | none => none

/-- A storage record (R471): the kind, the page, the context or snapshot, the count. -/
def storageRec (time : Word) (va id count : Nat) (kind : BitVec 8) : BitVec 256 :=
  time ++ (BitVec.ofNat 48 va ++ (BitVec.ofNat 32 id ++ (BitVec.ofNat 16 count ++ ((0 : BitVec 88) ++ kind))))

/-- The context that holds a page, 0 where none does. -/
def sessionOf (v : VDev) (va : Nat) : Option Session := v.sess.find? fun c => c.base ≤ va && decide (va < c.base + c.bytes)

/-- The page-in of a flash leaf at `leafPa` begins (R378): false where the pool is empty or flash cannot give the page. -/
def startPageIn (vd : BitVec 8) (e : TlbEnt) (leafPa : Nat) (entry : Word) (gen : Nat) (bybind : Bool) (s : State) : Bool × State :=
  let v := getVd vd s
  if v.skid.any fun k => k.into && k.leafPa == leafPa then (true, s)
  else
    let ctx := (sessionOf v e.base).map (·.id)
    match flashPage s vd (pteAddr entry / 4096), poolPick v e.size with
    | some _, some pa =>
      (true, modVd vd (fun v => { poolTake pa e.size v with
        skid := v.skid ++ [{ va := e.base, pa := pa, size := e.size, into := true, leafPa := leafPa, leaf := entry
                             gen := gen, bybind := bybind, ctx := ctx }] }) s)
    | some _, none => (false, s)
    | none, _ => (false, queueRec vd 3 { slots := [storageRec s.mod.time e.base ((ctx.map (·.toNat)).getD 0) 0 0x33] } s)

/-- A leaf with its residence and address replaced and count 0 (R378). -/
def leafWith (entry : Word) (res : BitVec 2) (addr : Nat) : Word :=
  (0 : BitVec 16) ++ (BitVec.ofNat 36 (addr / 4096) ++ ((0 : BitVec 4) ++ (res ++ entry.extractLsb' 0 6)))

/-- Whether the leaf at `leafPa` still stands as `leaf`, in memory that a virtual device can read and write (R378; 12 R318). -/
def leafStands (s : State) (leafPa : Nat) (leaf : Word) : Bool := !meetsScopes s leafPa 8 && readB s.mem.dmem leafPa 8 == leaf.toNat

/-- The end of page-in transfer `k` whose generation is current: the page is filled and the leaf swapped, if it still stands
(R378, R471); otherwise the page is freed. -/
def finishPageIn (vd : BitVec 8) (k : Skid) (s : State) : State :=
  let s := modVd vd (fun v => { v with skid := v.skid.filter (· != k) }) s
  match flashPage s vd (pteAddr k.leaf / 4096) with
  | none =>
    queueRec vd 3 { slots := [storageRec s.mod.time k.va ((k.ctx.map (·.toNat)).getD 0) 0 0x33] } (modVd vd (poolGive k.pa) s)
  | some page =>
    let s := devTouch vd k.leafPa 8 s
    if leafStands s k.leafPa k.leaf then
      let s := devWrite vd k.pa ((upTo k.size).map fun j => smGet 0 page j) s
      let s := devWrite vd k.leafPa (toBytes 8 (leafWith k.leaf 0 k.pa).toNat) s
      queueOrDrop vd 3 (storageRec s.mod.time k.va ((k.ctx.map (·.toNat)).getD 0) 0 0x32) s
    else modVd vd (poolGive k.pa) s

/-- Whether a job of a generation is known with its gang not left (R472). -/
def jobCurrent (v : VDev) (gen : Nat) : Bool := v.streams.any fun st => st.jobs.any fun j => j.gen.toNat == gen && !j.left

/-- Whether a transfer's generation is current (R472). -/
def skidCurrent (v : VDev) (k : Skid) : Bool :=
  !k.stale &&
    if k.into then !k.bybind || jobCurrent v k.gen
    else match k.ctx with
      | some id => v.sess.any fun c => c.id == id && c.gen == k.gen
      | none => false

/-- A page back in the pool: a range that is not the pool's own joins it (R469). -/
def poolReturn (a n : Nat) (v : VDev) : VDev :=
  let v := poolGive a v
  if inPool v a n then v else { v with poolExtra := v.poolExtra ++ [(a, n)] }

/-- The end of a transfer whose generation is not current: its page is zeroed, and is the pool's again unless a reset has taken the pool
away (R443, R472). -/
def endStale (vd : BitVec 8) (k : Skid) (s : State) : State :=
  devWrite vd k.pa (List.replicate k.size 0) s
    |> modVd vd fun v => { (if k.orphan then poolGive k.pa v else poolReturn k.pa k.size v) with skid := v.skid.filter (· != k), stale := v.stale + 1 }

/-- The end of page-in `k` (R378, R472). -/
def endPageIn (vd : BitVec 8) (k : Skid) (s : State) : State :=
  if skidCurrent (getVd vd s) k then finishPageIn vd k s else endStale vd k s

/-! ## Translation caches (R371, R372, R376) -/

def clusterOf (p : Nat) : Nat := p / 32 / 2 * 8 + p % 32 / 4

def getCluster (c : Nat) (s : State) : Cluster := smGet {} s.clusters c
def modCluster (c : Nat) (f : Cluster → Cluster) (s : State) : State :=
  { s with clusters := smSet c (f (getCluster c s)) s.clusters }

/-- The entry's count as it stands (R376). -/
def entCount (e : TlbEnt) (fill : Nat) : Nat := min 65535 (fill + e.delta)

/-- The local delta added to the leaf's count field (R376), where a virtual device may write it (12 R318). -/
def flushEnt (e : TlbEnt) (s : State) : State :=
  match e.counted with
  | some (_, leafPa) =>
    if e.delta = 0 || meetsScopes s leafPa 8 then s
    else
      let x := BitVec.ofNat 64 (readB s.mem.dmem leafPa 8)
      let n := min 65535 (pteCount x + e.delta)
      touchLines leafPa 8 true { vd := e.vd } (devStore leafPa (toBytes 8 ((BitVec.ofNat 16 n ++ x.extractLsb' 0 48).toNat)) s)
  | none => s

def sameEnt (a b : TlbEnt) : Bool := a.vd == b.vd && a.base == b.base && a.size == b.size

/-- The tiles of a cluster (R12). -/
def clusterTiles (c : Nat) : List Nat := (upTo 8).map fun j => 32 * (c / 8 * 2 + j / 4) + c % 8 * 4 + j % 4

/-- The bind record of a device that holds a cluster (R372). -/
def slotOn (s : State) (c : Nat) (vd : BitVec 8) : Option Nat :=
  (clusterTiles c).findSome? fun p =>
    let t := getTile p s
    if t.place.vd = vd then t.place.slot else none

/-- Whether a gang of a device is bound on a cluster (R372). -/
def vdOnCluster (s : State) (c : Nat) (vd : BitVec 8) : Bool := (slotOn s c vd).isSome

/-- The translation quota of a device (R372, R450). -/
def quotaTq (v : VDev) : Nat := (v.quota.raw.extractLsb' 161 9).toNat

/-- The entry that a miss of `vd` replaces (R372); none while there is room. -/
def tlbVictim (s : State) (c : Nat) (vd : BitVec 8) : Option TlbEnt :=
  let tlb := (getCluster c s).tlb
  let own := tlb.filter (·.vd == vd)
  let tq := quotaTq (getVd vd s)
  if own.length < max tq 1 then
    if tlb.length < 256 then none
    else
      match (tlb.filter fun e => !vdOnCluster s c e.vd).getLast? with
      | some e => some e
      | none =>
        match (tlb.filter (·.vd != vd)).getLast? with
        | some e => some e
        | none => own.getLast?
  else own.getLast?

/-- A cluster has filled a translation of `n` bytes from `a` at TIME `time` (R470). -/
def noteFill (a n : Nat) (time : Word) (v : VDev) : VDev :=
  { v with fills := (a, n, time) :: v.fills.filter fun x => !(x.1 == a && x.2.1 == n) }

/-- A filled entry, first in use order; the victim's count is written back (R372, R376), and its TIME noted (R470). -/
def tlbFill (c : Nat) (e : TlbEnt) (s : State) : State :=
  let s := match tlbVictim s c e.vd with
    | some x => modCluster c (fun k => { k with tlb := k.tlb.filter (! sameEnt · x) }) (flushEnt x s)
    | none => s
  let s := modVd e.vd (noteFill e.base e.size s.mod.time) s
  modCluster c (fun k => { k with tlb := e :: k.tlb.filter (! sameEnt · e) }) s

/-- The counter notification of R377. -/
def counterRec (time : Word) (e : TlbEnt) (count : Nat) : BitVec 256 :=
  let sz : BitVec 2 := if e.size = 4096 then 0 else if e.size = 65536 then 1 else if e.size = 2 ^ 21 then 2 else 3
  time ++ (BitVec.ofNat 48 e.base ++ (BitVec.ofNat 16 count ++ ((0 : BitVec 6) ++ (sz ++ ((0 : BitVec 112) ++ (0x01 : BitVec 8))))))

/-- An entry of a cluster's cache used: the most recently used, as `e` has it. -/
def promote (c : Nat) (e : TlbEnt) (s : State) : State :=
  modCluster c (fun k => { k with tlb := e :: k.tlb.filter (! sameEnt · e) }) s

/-- An access through entry `e`: most recently used, and counted by 256-byte blocks; with the notification of a threshold it crosses (R371,
R376). -/
def countEnt (c : Nat) (e : TlbEnt) (va n : Nat) (s : State) : Option (BitVec 256) × State :=
  match e.counted with
  | none => (none, promote c e s)
  | some (fill, _) =>
    let e' := { e with delta := e.delta + ((va + n - 1) / 256 - va / 256 + 1) }
    let th := ((getVd e.vd s).thresh.extractLsb' 0 16).toNat
    let crossed := th ≠ 0 ∧ entCount e fill < th ∧ th ≤ entCount e' fill
    (if crossed then some (counterRec s.mod.time e (entCount e' fill)) else none, promote c e' s)

/-- A counter notification posted, if there is one (R377). -/
def postNote (vd : BitVec 8) (note : Option (BitVec 256)) (s : State) : State :=
  match note with
  | some x => queueOrDrop vd 2 x s
  | none => s

/-- An access through entry `e` that is performed with its translation: counted, and its notification posted (R377). -/
def useEnt (c : Nat) (e : TlbEnt) (va n : Nat) (s : State) : State :=
  let r := countEnt c e va n s
  postNote e.vd r.1 r.2

/-- What a cluster's cache and the tables hold for an address: a flash leaf is not cached. -/
inductive Look where
  | ent (e : TlbEnt)
  | flash (e : TlbEnt) (leafPa : Nat) (entry : Word)
  | fail (x : XFault)

/-- The entry of a cluster's cache for an address of a device. -/
def cached (c : Nat) (vd : BitVec 8) (va : Nat) (s : State) : Option TlbEnt :=
  (getCluster c s).tlb.find? fun e => e.vd == vd && e.base ≤ va && decide (va < e.base + e.size)

/-- The translation of an address outside the window: a hit is the most recently used, a miss is walked and allocates its entry
(R371, R372). -/
def look (c : Nat) (vd : BitVec 8) (va : Nat) (s : State) : Look × State :=
  match cached c vd va s with
  | some e => (.ent e, promote c e s)
  | none =>
    match walk vd va s with
    | (.fail x, s) => (.fail x, s)
    | (.leaf e leafPa entry, s) => if e.res = 2 then (.flash e leafPa entry, s) else (.ent e, tlbFill c e s)

/-- The level of the leaf that an entry was filled from (R368). -/
def entLevel (e : TlbEnt) : Nat := if e.size = 2 ^ 30 then 1 else if e.size = 2 ^ 21 then 2 else 3

/-- The refusal of an access by a translation, with the leaf it comes from (R382, R383). -/
def forbidden (e : TlbEnt) : XFault := { cause := 2, entry := e.leaf, level := entLevel e }

/-- Where an address leads. -/
inductive Xlat where
  | page (e : TlbEnt)
  /-- the lap map page of the device window (R367) -/
  | window
  /-- a flash leaf, being paged in (R378) -/
  | wait
  | fail (x : XFault)

/-- The bind generation that a bind's accesses carry (R472); 0 for an access of no bind. -/
def slotGen (slot : Option Nat) (s : State) : Nat :=
  match slot with
  | some b => (getBind b s).gen.toNat
  | none => 0

/-- The permission check of a translation (R382). -/
def permitted (e : TlbEnt) (write : Bool) : Bool := if write then e.w else e.r

/-- The device window: read-only, its first 64 KiB mapped (R367). -/
def windowXlat (va : Nat) (write : Bool) : Xlat :=
  if write then .fail { cause := 2 } else if va < 0xFFFFC0010000 then .window else .fail { cause := 1 }

/-- Translation at a cluster's port for the bind of `slot` (R366 to R372, R378). Atomics of both kinds need w, and r for what they
read. An access that a flash leaf forbids is refused before the page is paged in, which no rule orders. DESIGN CHOICE, log entry 114. -/
def xlate (c : Nat) (vd : BitVec 8) (va : Nat) (read write : Bool) (slot : Option Nat) (s : State) : Xlat × State :=
  if 2 ^ 48 ≤ va then (.fail { cause := 0 }, s)
  else if 0xFFFFC0000000 ≤ va then (windowXlat va write, s)
  else
    let ok := fun (e : TlbEnt) => (!read || e.r) && (!write || e.w)
    match look c vd va s with
    | (.fail x, s) => (.fail x, s)
    | (.ent e, s) => (if ok e then .page e else .fail (forbidden e), s)
    | (.flash e leafPa entry, s) =>
      if !ok e then (.fail (forbidden e), s)
      else
        match startPageIn vd e leafPa entry (slotGen slot s) slot.isSome s with
        | (true, s) => (.wait, s)
        | (false, s) => (.fail { cause := 4, entry := entry, level := 3 }, s)

/-! ## The lap map page (10 R275 to R278) -/

/-- 64-byte item `k` of half `h` in a device's view: the header, then the entries. Before anything is published one half is that of lap 0, which
holds no raft and stands still, and the other is of no lap: what they hold at reset no rule says. DESIGN CHOICE, log entry 99. -/
def lapMapItem (f : Flume) (vd : BitVec 8) (h k : Nat) : BitVec 512 :=
  match (f.maps.reverse.zipIdx.filter fun m => m.2 % 2 == h).getLast? with
  | none => if k = 0 then (0 : BitVec 384) ++ (BitVec.allOnes 64 ++ (0 : BitVec 64)) else 0
  | some ((from_, m), _) =>
    if k = 0 then
      (0 : BitVec 384) ++ (BitVec.ofNat 64 from_ ++ (BitVec.ofNat 32 m.laplen ++ ((0 : BitVec 11) ++ (BitVec.ofNat 11 m.pace ++
        BitVec.ofNat 10 m.rafts.length))))
    else
      match m.rafts[k - 1]? with
      | none => 0
      | some r =>
        if r.access.getLsbD vd.toNat then
          BitVec.twoPow 256 vd.toNat ++ (r.raft ++ (r.model ++ (r.layer ++ (r.version ++ (BitVec.ofNat 32 r.start ++
            (BitVec.ofNat 32 r.length ++ ((0 : BitVec 125) ++ (r.lane ++ (1 : BitVec 1)))))))))
        else 0

/-- One byte of the page. -/
def lapMapByte (f : Flume) (vd : BitVec 8) (off : Nat) : Byte :=
  (lapMapItem f vd (off / 32768 % 2) (off % 32768 / 64)).extractLsb' (8 * (off % 64)) 8

/-! ## Snapshots' copies (17 R467) -/

/-- A write held for lack of a pool page, counted (R467). -/
def noteSnapHold (vd : BitVec 8) (s : State) : State := modVd vd (fun v => { v with snaphold := v.snaphold + 1 }) s

/-- Whether a hold stands: what it waits for has not come (R379, R467). -/
def standing (h : Option Hold) : Bool := h.any (!·.again)

/-- The hold `h` of a write that `old` held before, if anything did. -/
def rehold (old : Option Hold) (h : Hold) : Hold := { h with noted := h.snap || old.any (·.noted) }

/-- A write newly held by `h`, which `old` held before: counted once where it waits for a pool page (R467). -/
def countHold (vd : BitVec 8) (old : Option Hold) (h : Hold) (s : State) : State :=
  if h.snap && !old.any (·.noted) then noteSnapHold vd s else s

/-- The write of the granule of `va`, held for lack of a snapshot pool page (R467). -/
def granuleOf (va : Nat) : Hold := { base := va / 4096 * 4096, size := 4096, snap := true }

/-- The granule of `va`, at physical address `pa`, copied for the newest snapshot, if it has not been; none where no pool page is free
(R467). -/
def snapCopy (vd : BitVec 8) (va pa : Nat) (s : State) : Option State :=
  let v := getVd vd s
  let g := va / 4096
  match v.snaps.getLast? with
  | none => some s
  | some sn =>
    if sn.copies.any (·.1 == g) then some s
    else
      match poolPick v 4096 with
      | none => none
      | some dst =>
        let src := pa / 4096 * 4096
        let bytes := readList s.mem.dmem src 4096
        some (modVd vd (fun v => { poolTake dst 4096 v with
          snaps := v.snaps.dropLast ++ [{ sn with copies := sn.copies ++ [(g, dst)] }] }) (devWrite vd dst bytes (devTouch vd src 4096 s)))

/-- What a device write to the granule of `va`, at physical address `pa`, needs first: its place in the next list, and its copy for the
newest snapshot; none where no pool page is free (R467). -/
def snapBefore (vd : BitVec 8) (va pa : Nat) (s : State) : Option State :=
  snapCopy vd va pa (modVd vd (fun v => if v.dirty.contains (va / 4096) then v else { v with dirty := v.dirty ++ [va / 4096] }) s)

/-! ## Accesses -/

/-- How an access ends. -/
inductive GOut where
  | done (bytes : List Byte) (s : State)
  | fail (x : XFault) (s : State)
  /-- not performed now: a page-in under way -/
  | wait (s : State)
  /-- a write held at the port: until an invalidation, or a snapshot's release (R379, R467); whoever makes it counts it -/
  | block (hold : Hold) (s : State)

/-- Bytes of a page-relative access at the far side of a translation. -/
def farAddr (e : TlbEnt) (va : Nat) : Nat := e.addr + (va - e.base)

/-- A leaf that leads over a Chinook link: link and remote page (R473). -/
def chinookLeaf (e : TlbEnt) : Bool := e.res == 1 && e.addr / 2 ^ 46 == 3
def linkOf (e : TlbEnt) : BitVec 2 := BitVec.ofNat 2 (e.addr / 2 ^ 44)
def remoteVa (e : TlbEnt) (va : Nat) : Nat := e.addr % 2 ^ 44 + (va - e.base)

/-- The remote device an access reaches over its link, unless the link is down, unpaired or the peer refuses (R473). -/
def peerOf (vd : BitVec 8) (e : TlbEnt) (va : Nat) (write : Bool) (s : State) : Option (BitVec 8) :=
  let l := linkOf e
  if s.links[l.toNat].up then
    match (getVd vd s).pairs[l.toNat] with
    | some r => if Config.peerAllows s.fresh l r (remoteVa e va) write then some r else none
    | none => none
  else none

def peerMem (m : MemSys) (l : BitVec 2) (r : BitVec 8) : SMap Byte :=
  match m.peer.find? fun p => p.1 == l && p.2.1 == r with
  | some p => p.2.2
  | none => []

def setPeerMem (l : BitVec 2) (r : BitVec 8) (x : SMap Byte) (m : MemSys) : MemSys :=
  { m with peer := (l, r, x) :: m.peer.filter fun p => !(p.1 == l && p.2.1 == r) }

/-- What an access does with the bytes it finds: a read gives none, a write what it stores. -/
abbrev Change := List Byte → Option (List Byte)

/-- One access through translation `e`, indivisible: what it finds, and what `f` stores in its place (R334, R344, R349). `reads` and
`writes` say what it may do; `hostOk` whether a host page admits it (R351); `use` what it does to the cache that gave `e`. The read of an
atomic lowers the line's use count before its own write, so that a line with disc that its count frees is allocated again by the write and
stays: no rule orders the two. DESIGN CHOICE, log entry 98. -/
def gPerform (vd : BitVec 8) (va n : Nat) (reads writes hostOk : Bool) (h : Hints) (f : Change) (use : State → State) (e : TlbEnt) (s : State) :
    GOut :=
  if e.res = 0 then
    let pa := farAddr e va
    if meetsScopes s pa n then .fail (forbidden e) s
    else if reads && devPoisoned s.mem pa n then .fail { code := 0x06, cause := 0 } (use s)
    else
      let old := readList s.mem.dmem pa n
      match f old with
      | none => .done old (touchLines pa n false h (use s))
      | some new =>
        match snapBefore vd va pa s with
        | none => .block (granuleOf va) s
        | some s =>
          let s := use s
          let s := if reads then touchLines pa n false h s else s
          .done old (touchLines pa n true h (devStore pa new s))
  else if reads && writes && !hostOk then .fail { cause := 3 } s
  else if chinookLeaf e then
    match peerOf vd e va writes s with
    | none => .fail (forbidden e) { s with fresh := s.fresh + 1 }
    | some r =>
      let s := { s with fresh := s.fresh + 1 }
      let m := peerMem s.mem (linkOf e) r
      let old := readList m (remoteVa e va) n
      match f old with
      | none => .done old (use s)
      | some new => .done old (use (onMemSys (setPeerMem (linkOf e) r (writeList (remoteVa e va) new m)) s))
  else
    let a := farAddr e va
    let old := readList s.mem.hmem a n
    match f old with
    | none => .done old (use s)
    | some new => .done old (use (onMemSys (fun m => { m with hmem := writeList a new m.hmem }) s))

/-- One access of `n` bytes within a page: its translation, write-block, and what it does there (R366, R371, R379). -/
def gAccess (c : Nat) (vd : BitVec 8) (va n : Nat) (reads writes hostOk : Bool) (h : Hints) (f : Change) (s : State) : GOut :=
  match xlate c vd va reads writes h.slot s with
  | (.fail x, s) => .fail x s
  | (.wait, s) => .wait s
  | (.window, s) => .done ((upTo n).map fun j => lapMapByte s.flume vd (va + j - 0xFFFFC0000000)) s
  | (.page e, s) =>
    if writes && e.wb then .block { base := e.base, size := e.size, snap := false } s
    else gPerform vd va n reads writes hostOk h f (useEnt c e va n) e s

def gRead (c : Nat) (vd : BitVec 8) (va n : Nat) (h : Hints) (s : State) : GOut :=
  gAccess c vd va n true false false h (fun _ => none) s

def gWrite (c : Nat) (vd : BitVec 8) (va : Nat) (bs : List Byte) (h : Hints) (s : State) : GOut :=
  gAccess c vd va bs.length false true false h (fun _ => some bs) s

/-! ## Accesses of the device's own units and of the host (R366, R389, R445) -/

/-- A flash leaf paged in for a unit of the device: the transfer runs to its end, one under way first; where that one was not
current, another (R378, R472). -/
def pageInNow (vd : BitVec 8) (e : TlbEnt) (leafPa : Nat) (entry : Word) : Nat → State → State
  | 0, s => s
  | n + 1, s =>
    match startPageIn vd e leafPa entry 0 false s with
    | (false, s) => s
    | (true, s) =>
      match (getVd vd s).skid.find? fun k => k.into && k.leafPa == leafPa with
      | some k => if skidCurrent (getVd vd s) k then finishPageIn vd k s else pageInNow vd e leafPa entry n (endStale vd k s)
      | none => s

/-- Translation by the tables alone; a flash page is paged in on the way (R378, R445). -/
def sysXlate (vd : BitVec 8) (va : Nat) (reads writes : Bool) (s : State) : Option TlbEnt × State :=
  if 0xFFFFC0000000 ≤ va then (none, s)
  else
    match walk vd va s with
    | (.fail _, s) => (none, s)
    | (.leaf e leafPa entry, s) =>
      if (reads && !e.r) || (writes && !e.w) then (none, s)
      else if e.res = 2 then
        match walk vd va (pageInNow vd e leafPa entry 2 s) with
        | (.leaf e _ _, s) => if e.res = 2 then (none, s) else (some e, s)
        | (.fail _, s) => (none, s)
      else (some e, s)

/-- An access within one page by a unit of the device or by the host's window: none where it does not translate, or is poisoned. `dev` says
whether it counts as a device write for snapshots (R466). R379 has writes held at a cluster's port; of a write that passes none, to a page
under write-block, no rule speaks: it is performed. DESIGN CHOICE, log entry 100. -/
def sysPart (vd : BitVec 8) (va n : Nat) (reads writes dev : Bool) (f : Change) (s : State) : Option (List Byte) × State :=
  if !writes && 0xFFFFC0000000 ≤ va && decide (va + n ≤ 0xFFFFC0010000) then
    (some ((upTo n).map fun j => lapMapByte s.flume vd (va + j - 0xFFFFC0000000)), s)
  else
  match sysXlate vd va reads writes s with
  | (none, s) => (none, s)
  | (some e, s) =>
    if e.res = 0 then
      let pa := farAddr e va
      if meetsScopes s pa n || (reads && devPoisoned s.mem pa n) then (none, s)
      else
        let old := readList s.mem.dmem pa n
        match f old with
        | none => (some old, touchLines pa n false { vd := vd } s)
        | some new =>
          match if dev then snapBefore vd va pa s else some s with
          | none => (none, noteSnapHold vd s)
          | some s => (some old, touchLines pa n true { vd := vd } (devStore pa new s))
    else if chinookLeaf e then
      match peerOf vd e va writes s with
      | none => (none, { s with fresh := s.fresh + 1 })
      | some r =>
        let s := { s with fresh := s.fresh + 1 }
        let m := peerMem s.mem (linkOf e) r
        let old := readList m (remoteVa e va) n
        match f old with
        | none => (some old, s)
        | some new => (some old, onMemSys (setPeerMem (linkOf e) r (writeList (remoteVa e va) new m)) s)
    else
      let a := farAddr e va
      let old := readList s.mem.hmem a n
      match f old with
      | none => (some old, s)
      | some new => (some old, onMemSys (fun m => { m with hmem := writeList a new m.hmem }) s)

/-- The parts of `n` bytes from `va` that lie in one 4 KiB granule each, as offset and length. -/
def granules (va n : Nat) : List (Nat × Nat) :=
  if n = 0 then []
  else (upTo ((va + n - 1) / 4096 - va / 4096 + 1)).map fun j =>
    let lo := max va (4096 * (va / 4096 + j))
    let hi := min (va + n) (4096 * (va / 4096 + j) + 4096)
    (lo - va, hi - lo)

/-- A read of `n` bytes of a device's space by a unit or the host. -/
def sysRead (vd : BitVec 8) (va n : Nat) (s : State) : Option (List Byte) × State :=
  if 2 ^ 48 < va + n then (none, s)
  else (granules va n).foldl (fun (r : Option (List Byte) × State) p =>
    match r with
    | (none, s) => (none, s)
    | (some bs, s) =>
      match sysPart vd (va + p.1) p.2 true false false (fun _ => none) s with
      | (some b, s) => (some (bs ++ b), s)
      | (none, s) => (none, s)) (some [], s)

/-- Whether `n` bytes translate for reading or writing (R389, R447). -/
def sysOk (vd : BitVec 8) (va n : Nat) (reads writes : Bool) (s : State) : Bool × State :=
  if 2 ^ 48 < va + n then (false, s)
  else (granules va n).foldl (fun (r : Bool × State) p =>
    if 0xFFFFC0000000 ≤ va + p.1 then (r.1 && !writes && decide (va + p.1 + p.2 ≤ 0xFFFFC0010000), r.2)
    else
      match sysXlate vd (va + p.1) reads writes r.2 with
      | (some _, s) => (r.1, s)
      | (none, s) => (false, s)) (true, s)

/-- A write of bytes by a unit or the host: false where some part does not translate for writing. -/
def sysWrite (vd : BitVec 8) (va : Nat) (bs : List Byte) (dev : Bool) (s : State) : Bool × State :=
  if 2 ^ 48 < va + bs.length then (false, s)
  else (granules va bs.length).foldl (fun (r : Bool × State) p =>
    match sysPart vd (va + p.1) p.2 false true dev (fun _ => some ((bs.drop p.1).take p.2)) r.2 with
    | (some _, s) => (r.1, s)
    | (none, s) => (false, s)) (true, s)

/-- A device write tried: where a snapshot's copy of its granule finds no pool page, nothing of it is done and it is held (R467). -/
def unlessHeld {α β : Type} (vd : BitVec 8) (f : State → α × State) (hold : State → β) (k : α → State → β) (s : State) : β :=
  let r := f s
  if (getVd vd r.2).snaphold = (getVd vd s).snaphold then k r.1 r.2 else hold s

/-! ## Records of translation faults (R383, R418) -/

/-- The detail slot of an XLATE or POISON fault. -/
def xDetail (x : XFault) (va : Word) (tag source : Nat) : BitVec 256 :=
  if x.code = 0x05 then
    va ++ (x.entry ++ ((0 : BitVec 16) ++ (BitVec.ofNat 8 tag ++ (BitVec.ofNat 4 source ++ (BitVec.ofNat 2 x.level ++ ((0 : BitVec 2) ++
      (BitVec.ofNat 4 x.cause ++ ((0 : BitVec 84) ++ (0x05 : BitVec 8)))))))))
  else detailOf va (source * 2 ^ 100) 0x06

/-- An XLATE or POISON fault of a tile instruction (R347): FLTADDR is the address. -/
def xTFault (x : XFault) (va : Word) (source : Nat) : TFault :=
  { code := x.code, addr := va, cause := if x.code = 0x05 then x.cause else 0, detail := xDetail x va 0 source }

/-- Whether the gangs of a device may be bound and run: an enabled function whose interface is not in ERROR (R443, R459). -/
def mayRun (v : VDev) : Bool := v.enabled && v.tstate != .error

/-- PAGE_WALK (R371): a miss of a device at a cluster's port is walked and its entry filled; a device in ERROR makes none (17 R459), and
in Doldrums slices and flash stand (18 R478). -/
def pageWalk (cluster : Nat) (vd : BitVec 8) (va : Nat) (write : Bool) (s : State) : State :=
  if s.mod.power = .doldrums || !mayRun (getVd vd s) || (cached cluster vd va s).isSome then s
  else (xlate cluster vd va (!write) write (slotOn s cluster vd) s).2
def execPageWalk (cluster : Nat) (vd : BitVec 8) (va : Word) (write : Bool) (s : State) : Host.Outcome State Fault Refusal :=
  .next (pageWalk cluster vd va.toNat write s)

end Sys2Proof.Machine
end

