-- ==== Sys2Proof/Machine/Global.lean ====
section
/-! DEFINITION. Global loads, stores, atomics, fences, monitored waits and line hints: 13_memory.md R342 to R365. The
store-queue entries of MBXW and JDONE are performed in Jobs.lean. -/

namespace Sys2Proof.Machine

/-! ## Addresses and values -/

/-- V of LDG and STG (R344). -/
def globalAddr (r : Regs) (base : Src) (sd : ScopeDisp) : Word :=
  srcSa r base + match sd with
    | .group _ d => d.signExtend 64
    | .tile d | .region d | .device d | .system d => d.signExtend 64

def scopeOf : ScopeDisp → Scope
  | .tile _ => .tile
  | .group e _ => .group e
  | .region _ => .region
  | .device _ => .device
  | .system _ => .system

/-- The precise ALIGN fault of a global access (R347). -/
def globalAlign (w : Width) (v : Word) : Option TFault :=
  if v.toNat % Width.size w ≠ 0 then some (addrFault 0x04 v 2 0) else none

/-- The value an atomic writes (R349), on numbers of `w` bits. -/
def amoValue (op : AmoOp) (w old x : Nat) : Nat :=
  match op with
  | .swap => x
  | .add => (old + x) % 2 ^ w
  | .and => old &&& x
  | .or => old ||| x
  | .xor => old ^^^ x
  | .min => if sextN w old < sextN w x then old else x
  | .max => if sextN w old < sextN w x then x else old
  | .minu => min old x
  | .maxu => max old x

/-- Whether an atomic of `n` bytes may reach a host page or another module (R351). -/
def farAtomic (n : Nat) (op : Option AmoOp) : Bool :=
  (n == 4 || n == 8) &&
    match op with
    | none => true
    | some o => o == .swap || o == .add
def hostAtomic (w : Width) (op : Option AmoOp) : Bool := farAtomic (Width.size w) op

def releaseOrd : Order → Bool
  | .rel | .ar => true
  | _ => false

/-! ## Order within a tile (R353, R354) -/

def ownCluster (s : State) : Nat := clusterOf s.cur
def ownHints (s : State) : Hints := { slot := s.tile.place.slot, vd := s.tile.place.vd, counts := true }

def bytesMeet (a n b m : Nat) : Bool := decide (a < b + m) && decide (b < a + n)

/-- The translation an address of the tile in focus has now, without a page-in. -/
def lookNow (s : State) (va : Word) : Option TlbEnt :=
  if 0xFFFFC0000000 ≤ va.toNat then none
  else
    match (look (ownCluster s) s.tile.place.vd va.toNat s).1 with
    | .ent e | .flash e _ _ => some e
    | .fail _ => none

/-- Whether an entry's write is still to be made. -/
def SqEntry.pends (e : SqEntry) : Bool := !e.done && !e.sent

/-- Entries not yet performed. -/
def sqPending (sq : List SqEntry) : List SqEntry := sq.filter (·.pends)

/-- Whether an order at scope `sc` waits for an entry: a write that has gone to the host or a peer is waited for at system scope alone
(R359). -/
def SqEntry.owed (sc : Scope) (e : SqEntry) : Bool := !e.done && (!e.sent || sc == .system)

/-- Whether `n` bytes from `a` and `m` from `b`, each within a page, share a byte: by their addresses, or by what these
translate to. -/
def sharesByte (s : State) (a : Word) (n : Nat) (b : Word) (m : Nat) : Bool :=
  bytesMeet a.toNat n b.toNat m
    || match lookNow s a, lookNow s b with
       | some x, some y => x.res == y.res && bytesMeet (farAddr x a.toNat) n (farAddr y b.toNat) m
       | _, _ => false

/-- Whether an entry of the queue writes a byte of `n` from `va`. JDONE entries write no byte of the tile's. -/
def sqOverlaps (s : State) (sq : List SqEntry) (va : Word) (n : Nat) : Bool :=
  (sqPending sq).any fun e =>
    match e.kind with
    | .jdone _ => false
    | _ => sharesByte s e.va (Width.size e.width) va n

/-- Whether an earlier store of the tile still holds an access of `w` at `va`, of scope `sc` (R353, R354, R359). Its bundle has not issued,
so that an access that has issued waits for no write of its tile, and a halt for save finds it unissued or completes it (R77, R381). DEDUCED,
log entry 65. -/
def accessHeld (s : State) (o : Order) (sc : Scope) (va : Word) (w : Width) : Bool :=
  sqOverlaps s s.tile.eng.sq va (Width.size w) || (releaseOrd o && s.tile.eng.sq.any (·.owed sc))

/-- Whether an entry follows every earlier one: a release, an MBXW or a JDONE (R353, R401, R406). -/
def followsAll (e : SqEntry) : Bool :=
  match e.kind with
  | .mbxw _ | .jdone _ => true
  | _ => releaseOrd e.order

/-! ## LDG (R344, R345) -/

/-- A global access begins: the tile is held until it ends (R345). -/
def beginAccess (a : GAccess) (s : State) : State := onCtl (fun c => { c with gacc := some a }) s

/-- The access of an LDG. -/
def ldgAccess (r : Regs) (w : Width) (o : Order) (d : Reg) (base : Src) (sd : ScopeDisp) : GAccess :=
  { kind := .ldg, va := globalAddr r base sd, width := w, order := o, scope := scopeOf sd, data := 0, dest := d }

def ldgOp (h : Hdr) (w : Width) (o : Order) (d : Reg) (base : Src) (sd : ScopeDisp) : SlotOp where
  hdr := h
  slot := 0
  fault5 := fun i => globalAlign w (globalAddr i.tile.regs base sd)
  wait := fun i => accessHeld i o (scopeOf sd) (globalAddr i.tile.regs base sd) w
  again := fun i => accessHeld i o (scopeOf sd) (globalAddr i.tile.regs base sd) w
  eff := fun i s => beginAccess (ldgAccess i.tile.regs w o d base sd) (latchSa base (srcSa i.tile.regs base) s)
def execLdg (h : Hdr) (w : Width) (o : Order) (d : Reg) (base : Src) (sd : ScopeDisp) (s : State) := (ldgOp h w o d base sd).run s

/-! ## AMO and ACAS at their cluster's port (R348, R349, R379, R381) -/

def accessSource : GKind → Nat
  | .ldg => 0
  | .amo _ => 2
  | .acas _ => 3

/-- What an AMO or ACAS finds at its cluster's port. -/
inductive Port where
  /-- it may issue, through this translation -/
  | go (e : TlbEnt)
  /-- it is held: by its page's write-block, or for lack of a snapshot pool page -/
  | held (hold : Hold)
  /-- a flash page is being paged in -/
  | paging
  | fault (x : XFault)

/-- What holds a write of `va` through translation `e` at its cluster's port: write-block, or the lack of a snapshot pool page (R379, R467). -/
def portHold (vd : BitVec 8) (va : Nat) (e : TlbEnt) (s : State) : Option Hold :=
  if e.wb then some { base := e.base, size := e.size, snap := false }
  else if e.res == 0 && (snapCopy vd va (farAddr e va) s).isNone then some (granuleOf va)
  else none

/-- The port's answer to an access of the tile in focus that reads and writes `va`. -/
def atPort (va : Word) (s : State) : Port × State :=
  let p := s.tile.place
  match xlate (ownCluster s) p.vd va.toNat true true p.slot s with
  | (.fail x, s) => (.fault x, s)
  | (.wait, s) | (.window, s) => (.paging, s)
  | (.page e, s) =>
    match portHold p.vd va.toNat e s with
    | some h => (.held h, s)
    | none => (.go e, s)

/-- Whether an AMO or ACAS waits before its bundle issues: held at its port, behind a store of its tile, or while its page is paged in. A halt
for save finds its bundle not issued (R381). DEDUCED, log entry 65. -/
def portHolds (w : Width) (o : Order) (sc : Scope) (va : Word) (s : State) : Bool :=
  standing s.tile.ctl.portHeld || accessHeld s o sc va w
    || match (atPort va s).1 with
       | .held _ | .paging => true
       | .go _ | .fault _ => false

/-- The write of the bundle at pc is held by `h`: noted, and counted once where it waits for a pool page (R467). -/
def holdPort (h : Hold) (s : State) : State :=
  countHold s.tile.place.vd s.tile.ctl.portHeld h (onCtl (fun c => { c with portHeld := some (rehold c.portHeld h) }) s)

/-- An AMO or ACAS at issue that its port holds, or whose page is paged in (R378, R379, R467). -/
def portReach (w : Width) (o : Order) (sc : Scope) (va : Word) (s : State) : State :=
  if standing s.tile.ctl.portHeld || accessHeld s o sc va w then s
  else
    match atPort va s with
    | (.held h, s) => holdPort h s
    | (.paging, s) => s
    | (.go _, _) | (.fault _, _) => s

/-- What an atomic through entry `e` does to its cluster's cache as it takes the translation, with the notification that is to follow it: one
that R351 refuses counts for nothing (R371, R376, R377). -/
def takeEnt (e : TlbEnt) (w : Width) (op : Option AmoOp) (va : Word) (s : State) : Option (BitVec 256) × State :=
  if e.res = 0 ∨ hostAtomic w op then countEnt (ownCluster s) e va.toNat (Width.size w) s else (none, s)

/-- The granule of an atomic that passes its port, copied for the newest snapshot, an unequal ACAS's too: it never waits for a pool page after
its bundle has issued (R467). DESIGN CHOICE, log entry 65. -/
def copyAhead (e : TlbEnt) (va : Word) (s : State) : State :=
  if e.res = 0 then (snapCopy s.tile.place.vd va.toNat (farAddr e va.toNat) s).getD s else s

/-- The atomic of an access; none for a compare and swap. -/
def accessOp (a : GAccess) : Option AmoOp :=
  match a.kind with
  | .amo op => some op
  | _ => none

/-- An AMO or ACAS issues: through the translation it found, or to an XLATE at the next boundary; held at its port it does not (R347,
R371, R381). -/
def beginAtomic (a : GAccess) (s : State) : State :=
  match atPort a.va s with
  | (.go e, s) =>
    let r := takeEnt e a.width (accessOp a) a.va s
    beginAccess { a with ent := some e, note := r.1 } (copyAhead e a.va r.2)
  | (.fault x, s) => raiseDeferred (xTFault x a.va (accessSource a.kind)) s
  | (.held _, s) | (.paging, s) => s

def amoAccess (r : Regs) (op : AmoOp) (w : Width) (o : Order) (sc : Scope) (d : Reg) (base : Src) (b : Reg) : GAccess :=
  { kind := .amo op, va := srcSa r base, width := w, order := o, scope := sc, data := readG r b, dest := d }

def acasAccess (r : Regs) (w : Width) (o : Order) (sc : Scope) (d : Reg) (base : Src) (b : Reg) : GAccess :=
  { kind := .acas (readG r d), va := srcSa r base, width := w, order := o, scope := sc, data := readG r b, dest := d }

/-- AMO. Field b names a register and has no hold bit (R348), so the S latch b is not refreshed: no rule says that it is (R46, R47). The same
of ACAS and RED. DESIGN CHOICE, log entry 78. -/
def amoOp (h : Hdr) (op : AmoOp) (w : Width) (o : Order) (sc : Scope) (d : Reg) (base : Src) (b : Reg) : SlotOp where
  hdr := h
  slot := 0
  fault5 := fun i => globalAlign w (srcSa i.tile.regs base)
  wait := fun i => portHolds w o sc (srcSa i.tile.regs base) i
  again := fun i => portHolds w o sc (srcSa i.tile.regs base) i
  reach := fun s => portReach w o sc (srcSa s.tile.regs base) s
  eff := fun i s => beginAtomic (amoAccess i.tile.regs op w o sc d base b) (latchSa base (srcSa i.tile.regs base) s)
def execAmo (h : Hdr) (op : AmoOp) (w : Width) (o : Order) (sc : Scope) (d : Reg) (base : Src) (b : Reg) (s : State) :=
  (amoOp h op w o sc d base b).run s

def acasOp (h : Hdr) (w : Width) (o : Order) (sc : Scope) (d : Reg) (base : Src) (b : Reg) : SlotOp where
  hdr := h
  slot := 0
  fault5 := fun i => globalAlign w (srcSa i.tile.regs base)
  wait := fun i => portHolds w o sc (srcSa i.tile.regs base) i
  again := fun i => portHolds w o sc (srcSa i.tile.regs base) i
  reach := fun s => portReach w o sc (srcSa s.tile.regs base) s
  eff := fun i s => beginAtomic (acasAccess i.tile.regs w o sc d base b) (latchSa base (srcSa i.tile.regs base) s)
def execAcas (h : Hdr) (w : Width) (o : Order) (sc : Scope) (d : Reg) (base : Src) (b : Reg) (s : State) :=
  (acasOp h w o sc d base b).run s

/-! ## Completion (R344, R345, R347, R349) -/

/-- What an access stores for the bytes it finds (R349). -/
def accessChange (a : GAccess) : Change := fun old =>
  let n := Width.size a.width
  let x := ofBytes old
  match a.kind with
  | .ldg => none
  | .amo op => some (toBytes n (amoValue op (8 * n) x (lowBytes a.width a.data)))
  | .acas e => if x = lowBytes a.width e then some (toBytes n (lowBytes a.width a.data)) else none

/-- The access carried out at the far side: an LDG translates now, an AMO or ACAS has its translation, whose use has been counted (R371,
R374, R376). -/
def performAccess (a : GAccess) (s : State) : GOut :=
  let n := Width.size a.width
  let vd := s.tile.place.vd
  match a.ent with
  | some e => gPerform vd a.va.toNat n true true (hostAtomic a.width (accessOp a)) (ownHints s) (accessChange a) id e s
  | none => gAccess (ownCluster s) vd a.va.toNat n true (a.kind != .ldg) (hostAtomic a.width (accessOp a)) (ownHints s) (accessChange a) s

/-- The value a completed access writes to its destination (R344, R349). -/
def accessResult (a : GAccess) (bs : List Byte) : Word :=
  match a.kind with
  | .ldg => extend a.width (ofBytes bs)
  | _ => BitVec.ofNat 64 (ofBytes bs)

/-- The result of an access lands, in the counted cycle after its bundle: a result of a higher slot class there, landed or still to
land, is kept instead (R44, R345). -/
def landLoad (a : GAccess) (v : Word) (s : State) : State :=
  if a.lost then s
  else onRegs (fun r => landDue { r with inflight := r.inflight ++ [{ res := .g a.dest v, due := 0, ready := 0, slot := 0, flags := 0 }] }) s

/-- The access `a` that the tile is held on is over, and its notification is posted (R377). -/
def endAccess (a : GAccess) (s : State) : State := postNote s.tile.place.vd a.note (onCtl (fun c => { c with gacc := none }) s)

/-- LDG_COMPLETE: the access the tile is held on ends, once a page it reads is paged in (R345, R347, R378). -/
def ldgComplete (s : State) : State :=
  match s.tile.ctl.gacc with
  | none => s
  | some a =>
    match performAccess a s with
    | .done bs s => endAccess a (landLoad a (accessResult a bs) s)
    | .fail x s => raiseDeferred (xTFault x a.va (accessSource a.kind)) (endAccess a s)
    | .wait s | .block _ s => s
def execLdgComplete (s : State) : Host.Outcome State Fault Refusal := .next (ldgComplete s)

/-- The translation through which an access goes out to the host: the one it has, or the one it finds, whose use is counted (R371, R376). -/
def outgoing (a : GAccess) (s : State) : Option TlbEnt × State :=
  match a.ent with
  | some e => (some e, s)
  | none =>
    match xlate (ownCluster s) s.tile.place.vd a.va.toNat true (a.kind != .ldg) s.tile.place.slot s with
    | (.page e, s) => (some e, useEnt (ownCluster s) e a.va.toNat (Width.size a.width) s)
    | (.fail _, s) | (.wait, s) | (.window, s) => (none, s)

/-- Whether an access through a translation goes over PCIe to the host: an atomic where R351 admits it. -/
def overPcie (a : GAccess) (e : TlbEnt) : Bool :=
  e.res == 1 && !chinookLeaf e && (a.kind == .ldg || hostAtomic a.width (accessOp a))

/-- PCIE_COMPLETION_TIMEOUT (R345): no completion comes for the access to a host page, which ends; no rule states the value
its destination then holds. An access that goes nowhere over PCIe has none. -/
def pcieTimeout (s : State) : State :=
  match s.tile.ctl.gacc with
  | none => s
  | some a =>
    match outgoing a s with
    | (some e, u) =>
      if overPcie a e then endAccess a (landLoad a (Config.lostRead u.fresh) { u with fresh := u.fresh + 1 }) else s
    | (none, _) => s
def execPcieCompletionTimeout (s : State) : Host.Outcome State Fault Refusal := .next (pcieTimeout s)

/-! ## The store queue (R346) -/

/-- Entries of the store queue (R346). -/
def sqDepth : Nat := 32
def sqFull (s : State) : Bool := decide (sqDepth ≤ s.tile.eng.sq.length)
def sqPush (e : SqEntry) (s : State) : State := onEng (fun g => { g with sq := g.sq ++ [e] }) s

def stgOp (h : Hdr) (w : Width) (o : Order) (r : Reg) (base : Src) (sd : ScopeDisp) : SlotOp where
  hdr := h
  slot := 0
  fault5 := fun i => globalAlign w (globalAddr i.tile.regs base sd)
  wait := sqFull
  eff := fun i s =>
    sqPush { kind := .stg, va := globalAddr i.tile.regs base sd, data := readG i.tile.regs r, width := w, order := o
             scope := scopeOf sd } (latchSa base (srcSa i.tile.regs base) s)
def execStg (h : Hdr) (w : Width) (o : Order) (r : Reg) (base : Src) (sd : ScopeDisp) (s : State) := (stgOp h w o r base sd).run s

def redOp (h : Hdr) (op : AmoOp) (w : Width) (o : Order) (sc : Scope) (base : Src) (b : Reg) : SlotOp where
  hdr := h
  slot := 0
  fault5 := fun i => globalAlign w (srcSa i.tile.regs base)
  wait := sqFull
  eff := fun i s =>
    sqPush { kind := .red op, va := srcSa i.tile.regs base, data := readG i.tile.regs b, width := w, order := o, scope := sc }
      (latchSa base (srcSa i.tile.regs base) s)
def execRed (h : Hdr) (op : AmoOp) (w : Width) (o : Order) (sc : Scope) (base : Src) (b : Reg) (s : State) :=
  (redOp h op w o sc base b).run s

/-- Whether entry `n` may perform: no earlier entry writes its bytes, nor is one left that it must follow; or the host or the peer that its
write has gone to may answer (R353, R354, R359). -/
def sqReady (s : State) (n : Nat) : Bool :=
  match s.tile.eng.sq[n]? with
  | none => false
  | some e =>
    let before := s.tile.eng.sq.take n
    !standing e.wb && !e.done &&
      (e.sent || if followsAll e then !before.any (·.owed e.scope) else !sqOverlaps s before e.va (Width.size e.width))

/-- A copy job as store-queue entry `n` leaves the queue (R307). -/
def passEntry (n : Nat) (j : CJob) : CJob := if n < j.behind then { j with behind := j.behind - 1 } else j

/-- A matrix queue entry as store-queue entry `n` leaves the queue (R262). -/
def passMatrix (n : Nat) (j : MEntry) : MEntry := if n < j.behind then { j with behind := j.behind - 1 } else j

def sqRemove (n : Nat) (s : State) : State :=
  onEng (fun g => { g with sq := g.sq.eraseIdx n, cq := g.cq.map (fun q => q.map (passEntry n)), mq := g.mq.map (passMatrix n) }) s
def sqMark (n : Nat) (f : SqEntry → SqEntry) (s : State) : State := onEng (fun g => { g with sq := g.sq.modify n f }) s

/-- What a RED stores (R349). -/
def redChange (op : AmoOp) (e : SqEntry) : Change := fun old =>
  let n := Width.size e.width
  some (toBytes n (amoValue op (8 * n) (ofBytes old) (lowBytes e.width e.data)))

/-- The far side of an STG, RED or MBXW entry. -/
def performEntry (e : SqEntry) (s : State) : GOut :=
  let n := Width.size e.width
  match e.kind with
  | .red op => gAccess (ownCluster s) s.tile.place.vd e.va.toNat n true true false (ownHints s) (redChange op e) s
  | _ => gWrite (ownCluster s) s.tile.place.vd e.va.toNat (toBytes n (lowBytes e.width e.data)) (ownHints s) s

/-! ## FENCE (R353, R359, R360) -/

/-- Whether a store that a FENCE of scope `sc` orders is not performed at it. -/
def fenceHeld (k : FenceKind) (sc : Scope) (s : State) : Bool :=
  match k with
  | .acq => (sqPending s.tile.eng.sq).any fun e => match e.kind with | .red _ => true | _ => false
  | .rel | .full => s.tile.eng.sq.any (·.owed sc)

def fenceOp (h : Hdr) (k : FenceKind) (sc : Scope) : SlotOp where
  hdr := h
  slot := 0
  wait := fenceHeld k sc
  eff := fun _ s => s
def execFence (h : Hdr) (k : FenceKind) (sc : Scope) (s : State) := (fenceOp h k sc).run s

/-! ## MONITOR and WAITM (R363, R364) -/

/-- The monitor armed on an address through the cluster's cache; none where it does not translate (R363, R371). -/
def armMonitor (va : Word) (s : State) : Option Monitor × State :=
  if 2 ^ 48 ≤ va.toNat then (none, s)
  else if 0xFFFFC0000000 ≤ va.toNat then
    (if va.toNat < 0xFFFFC0010000 then some { va := va, sector := none, since := s.mod.time } else none, s)
  else
    match look (ownCluster s) s.tile.place.vd va.toNat s with
    | (.fail _, s) => (none, s)
    | (.flash _ _ _, s) => (some { va := va, sector := none, since := s.mod.time }, s)
    | (.ent e, s) =>
      (some { va := va, sector := if e.res = 0 then some (farAddr e va.toNat / 128) else none, since := s.mod.time }, s)

def monitorOp (h : Hdr) (a : Src) : SlotOp where
  hdr := h
  slot := 0
  eff := fun i s =>
    let v := srcSa i.tile.regs a
    let r := armMonitor v (latchSa a v s)
    onEng (fun g => { g with mon := r.1 }) r.2
def execMonitor (h : Hdr) (a : Src) (s : State) := (monitorOp h a).run s

/-- MONITOR_POLL_WAKE: a wake every 1,024 ticks in poll mode (R363). -/
def pollWake (s : State) : State :=
  onEng (fun g => { g with mon := g.mon.map fun m =>
    if m.sector.isNone && decide (m.since.toNat + 1024 ≤ s.mod.time.toNat) then { m with wake := true, since := m.since + 1024 }
    else m }) s
def execMonitorPollWake (s : State) : Host.Outcome State Fault Refusal := .next (pollWake s)

/-- Whether the monitor's sector holds V (R364). -/
def monHolds (s : State) (v : Word) : Bool :=
  match s.tile.eng.mon with
  | none => false
  | some m =>
    match m.sector with
    | none => m.va.toNat / 128 == v.toNat / 128
    | some x =>
      match lookNow s v with
      | some e => e.res == 0 && farAddr e v.toNat / 128 == x
      | none => false

def monWoken (s : State) : Bool :=
  match s.tile.eng.mon with
  | none => false
  | some m => m.wake

/-- The one read of a WAITM, which lowers no use count (R338, R364). -/
def waitmRead (w : Width) (v : Word) (s : State) : GOut :=
  gRead (ownCluster s) s.tile.place.vd v.toNat (Width.size w) { ownHints s with counts := false } s

/-- Whether the read of the WAITM at pc is still to be made, and the tile's earlier stores let it (R354). -/
def waitmReads (w : Width) (v : Word) (s : State) : Bool := !s.tile.ctl.waitRead && !sqOverlaps s s.tile.eng.sq v (Width.size w)

def waitmFault (w : Width) (a : Src) (s : State) : Option TFault :=
  let v := srcSa s.tile.regs a
  match globalAlign w v with
  | some f => some f
  | none =>
    if waitmReads w v s then
      match waitmRead w v s with
      | .fail x _ => some (xTFault x v 5)
      | _ => none
    else none

/-- A WAITM's read that is refused or meets an uncorrectable error has used the cluster's cache (R372). -/
def waitmJudge (w : Width) (a : Src) (s : State) : State :=
  let v := srcSa s.tile.regs a
  if (globalAlign w v).isNone && waitmReads w v s then
    match waitmRead w v s with
    | .fail _ s' => s'
    | _ => s
  else s

/-- Whether what a WAITM has read, `bs`, lets it sleep: the monitor holds V, the value is the expected one, no wake (R364). -/
def waitmSleeps (w : Width) (v x : Word) (bs : List Byte) (s : State) : Bool :=
  monHolds s v && ofBytes bs == lowBytes w x && !monWoken s

/-- Whether the timeout of the WAITM at pc has come. -/
def waitmTimedOut (s : State) : Bool :=
  match s.tile.ctl.waitDue with
  | some d => decide (d ≤ s.mod.time.toNat)
  | none => false

/-- Whether a WAITM waits: for its read, then until a wake or its timeout (R364). -/
def waitmWaits (w : Width) (a b : Src) (s : State) : Bool :=
  let v := srcSa s.tile.regs a
  if s.tile.ctl.waitRead then !(s.tile.eng.mon.isNone || monWoken s || s.tile.ctl.waitOut || waitmTimedOut s)
  else if waitmReads w v s then
    match waitmRead w v s with
    | .done bs _ => waitmSleeps w v (srcSb s.tile.regs b) bs s && !waitmTimedOut s
    | _ => true
  else true

/-- TIME(t0) of the WAITM at pc: the first cycle in which its bundle is at issue, whatever else holds it. DEDUCED, log entry 64. -/
def noteT0 (t : Reg) (s : State) : State :=
  if s.tile.ctl.waitT0.isSome then s
  else
    let d := readG s.tile.regs t
    onCtl (fun c => { c with waitT0 := some s.mod.time, waitDue := if d = 0 then none else some (s.mod.time.toNat + d.toNat) }) s

/-- A held cycle of a WAITM at issue: its time runs from the first, and its read is made as soon as the tile's earlier stores and
its page let it (R354, R364). -/
def waitmReach (w : Width) (t : Reg) (a b : Src) (s : State) : State :=
  let v := srcSa s.tile.regs a
  let s := noteT0 t s
  if waitmReads w v s then
    match waitmRead w v s with
    | .done bs s' => onCtl (fun c => { c with waitRead := true, waitOut := !waitmSleeps w v (srcSb s.tile.regs b) bs s }) s'
    | .wait s' => s'
    | _ => s
  else s

def waitmOp (h : Hdr) (w : Width) (t : Reg) (a b : Src) : SlotOp where
  hdr := h
  slot := 0
  point := true
  fault5 := waitmFault w a
  judge := waitmJudge w a
  wait := waitmWaits w a b
  reach := waitmReach w t a b
  eff := fun i s =>
    let s1 := if i.tile.ctl.waitRead then s else
      match waitmRead w (srcSa i.tile.regs a) s with
      | .done _ s' => s'
      | _ => s
    onEng (fun g => { g with mon := none }) (latchSb b (srcSb i.tile.regs b) (latchSa a (srcSa i.tile.regs a) s1))
def execWaitm (h : Hdr) (w : Width) (t : Reg) (a b : Src) (s : State) := (waitmOp h w t a b).run s

/-- WAITM_TIMEOUT: TIME has reached the timeout of the WAITM that sleeps. -/
def waitmTimeout (s : State) : State :=
  match s.tile.ctl.waitDue with
  | some d => if d ≤ s.mod.time.toNat then onCtl (fun c => { c with waitOut := true }) s else s
  | none => s
def execWaitmTimeout (s : State) : Host.Outcome State Fault Refusal := .next (waitmTimeout s)

/-! ## PREF and SLCH (R342, R343) -/

/-- The virtual addresses of the lines from the one that holds `a`. -/
def hintLines (a : Word) (hint : Word) : List Nat :=
  (upTo ((hint.extractLsb' 0 16).toNat + 1)).map fun j => 256 * (a.toNat / 256 + j)

/-- The physical line of a device page, through the cluster's cache; none elsewhere, nor of a page that does not admit a read where `reads`
(R342, R343, R371). -/
def hintLine (reads : Bool) (va : Nat) (s : State) : Option Nat × State :=
  if 0xFFFFC0000000 ≤ va then (none, s)
  else
    match look (ownCluster s) s.tile.place.vd va s with
    | (.ent e, s) => (if (e.r || !reads) && e.res == 0 then some (farAddr e va / 256) else none, s)
    | (.flash _ _ _, s) | (.fail _, s) => (none, s)

def prefLine (hint : Word) (s : State) (va : Nat) : State :=
  match hintLine true va s with
  | (none, s) => s
  | (some l, s) =>
    touchLine l true true false { u := hint.extractLsb' 32 8, disc := hint.getLsbD 31, slot := s.tile.place.slot
                                  vd := s.tile.place.vd, pref := true } s

def prefOp (h : Hdr) (card aux : Reg) : SlotOp where
  hdr := h
  slot := 3
  eff := fun i s =>
    let hint := readG i.tile.regs aux
    if hint.extractLsb' 40 24 != 0 || hint.extractLsb' 16 15 != 0 then s
    else (hintLines (readG i.tile.regs card) hint).foldl (prefLine hint) s
def execPref (h : Hdr) (card aux : Reg) (s : State) := (prefOp h card aux).run s

def slchLine (s : State) (va : Nat) : State :=
  match hintLine false va s with
  | (none, s) => s
  | (some l, s) =>
    match s.mem.lines.find? (·.line == l) with
    | some x =>
      if x.count = 255 ∧ x.owner.isSome ∧ x.owner = s.tile.place.slot then
        onMemSys (lastLine { x with count := 0, disc := false, owner := none }) s
      else s
    | none => s

def slchOp (h : Hdr) (card aux : Reg) : SlotOp where
  hdr := h
  slot := 3
  eff := fun i s =>
    let hint := readG i.tile.regs aux
    if hint.extractLsb' 16 48 != 0 then s else (hintLines (readG i.tile.regs card) hint).foldl slchLine s
def execSlch (h : Hdr) (card aux : Reg) (s : State) := (slchOp h card aux).run s

end Sys2Proof.Machine
end

