-- ==== Sys2Proof/Machine/Copy.lean ====
section
/-! DEFINITION. Copy queues: job cards, footprints, the engine's moves and faults, S2T packets: 11_copy.md R299 to R315;
12_fabric.md R317, R324. -/

namespace Sys2Proof.Machine

/-! ## The job card (R302 to R305) -/

def cardTag (c : BitVec 512) : BitVec 8 := c.extractLsb' 56 8
def cardDir (c : BitVec 512) : Nat := field c.toNat 55 53
def cardRel (c : BitVec 512) : Bool := c.getLsbD 52
/-- The scope of the card (R302): [51:49], with the entry of scope 1 in [48:44]. -/
def cardScope (c : BitVec 512) : Scope := (Scope.ofCode (c.extractLsb' 49 3) (c.extractLsb' 44 5)).getD .system
def cardSe (c : BitVec 512) : Bool := c.getLsbD 43
def cardSt (c : BitVec 512) : Bool := c.getLsbD 42
def cardSync (c : BitVec 512) : Nat := field c.toNat 41 21
def cardSaddr (c : BitVec 512) : Nat := field c.toNat 20 0
def cardFar (c : BitVec 512) : Nat := field c.toNat 111 64
def cardLen0 (c : BitVec 512) : Nat := field c.toNat 191 176 + 1
def cardCnt1 (c : BitVec 512) : Nat := field c.toNat 175 160 + 1
def cardCnt2 (c : BitVec 512) : Nat := field c.toNat 159 144 + 1
def cardS1 (c : BitVec 512) : Int := sextN 24 (field c.toNat 231 208)
def cardS2 (c : BitVec 512) : Int := sextN 24 (field c.toNat 255 232)
def cardF1 (c : BitVec 512) : Int := sextN 32 (field c.toNat 287 256)
def cardF2 (c : BitVec 512) : Int := sextN 32 (field c.toNat 319 288)
def cardTotal (c : BitVec 512) : Nat := cardLen0 c * cardCnt1 c * cardCnt2 c

/-- The declared ranges of non-zero length (R305). -/
def cardRanges (c : BitVec 512) : List FRange :=
  (upTo 4).filterMap fun k =>
    let n := field c.toNat (362 + 48 * k) (341 + 48 * k)
    if n = 0 then none
    else some { base := field c.toNat (340 + 48 * k) (320 + 48 * k), len := n, write := c.getLsbD (363 + 48 * k) }

/-- A hull's first and last byte (R305). -/
def hull (base : Int) (c : BitVec 512) (s1 s2 : Int) : Int × Int :=
  let n1 : Int := (cardCnt1 c : Int) - 1
  let n2 : Int := (cardCnt2 c : Int) - 1
  (base + min 0 (n1 * s1) + min 0 (n2 * s2), base + max 0 (n1 * s1) + max 0 (n2 * s2) + (cardLen0 c : Int) - 1)

def localHull (c : BitVec 512) : Int × Int := hull (cardSaddr c) c (cardS1 c) (cardS2 c)

/-- Far byte 0: far, or far[20:0] for S2T and S2S (R304). -/
def farBase (c : BitVec 512) (far : Word) : Int :=
  if cardDir c < 2 then (far.toNat : Int) else (field far.toNat 20 0 : Int)

def farHull (c : BitVec 512) (far : Word) : Int × Int := hull (farBase c far) c (cardF1 c) (cardF2 c)

/-- Region-relative destination of an S2T job (R303). -/
def farX (far : Word) : Nat := field far.toNat 36 32
def farY (far : Word) : Nat := field far.toNat 40 37

/-- Whether a hull lies inside one declared range, of write kind where `w` (R305). -/
def covered (rs : List FRange) (h : Int × Int) (w : Bool) : Bool :=
  rs.any fun r => decide ((r.base : Int) ≤ h.1 ∧ h.2 < (r.base : Int) + r.len) && (r.write || !w)

/-- Reserved fields of the card (R302, R303). -/
def cardReserved (c : BitVec 512) : Bool :=
  let v := c.toNat
  field v 118 112 != 0 || field v 143 128 != 0 || field v 207 192 != 0
    || ((upTo 4).any fun k => field v (367 + 48 * k) (364 + 48 * k) != 0)
    || decide (4 ≤ cardDir c) || decide (5 ≤ field v 51 49) || (field v 48 44 != 0 && field v 51 49 != 1)
    || (cardDir c == 2 && (field (cardFar c) 47 41 != 0 || field (cardFar c) 31 21 != 0))
    || (cardDir c == 3 && field (cardFar c) 47 21 != 0)

/-- The far value of CPYS, and whether its sum passes 2^21 (R311). -/
def displace (c : BitVec 512) (disp : Word) : Word × Bool :=
  if cardDir c < 2 then (BitVec.ofNat 64 (cardFar c) + disp, false)
  else
    let x := cardFar c % 2 ^ 21 + disp.toNat
    (BitVec.ofNat 64 (cardFar c / 2 ^ 21 * 2 ^ 21 + x % 2 ^ 21), decide (2 ^ 21 ≤ x))

/-- The first cause of R310 found at issue. -/
def cardCause (t : Tile) (c : BitVec 512) (far : Word) (big : Bool) : Option Nat :=
  let d := cardDir c
  let rs := cardRanges c
  let fh := farHull c far
  let lh := localHull c
  if cardReserved c then some 1
  else if (if d < 2 then decide (fh.1 < 0 ∨ 2 ^ 48 ≤ fh.2)
      else big || decide (fh.1 < 0 ∨ (progEnd t : Int) ≤ fh.2)
        || (d == 2 && !decide (farX far < 4 * t.place.w ∧ farY far < 2 * t.place.h))) then some 2
  else if (d != 0 && !covered rs lh false) || (d == 0 && !covered rs lh true) || (d == 3 && !covered rs fh true) then some 3
  else if rs.any fun r => !inProg t r.base r.len then some 4
  else if (cardSt c && d != 2) || (cardSe c && (cardSync c % 16 != 0 || !inProg t (cardSync c) 16)) then some 5
  else none

/-! ## CPY and CPYS (R299, R311) -/

/-- Entries of a copy queue, and the jobs it runs at once (R299, R300). -/
def cqDepth : Nat := 16
def cqRun : Nat := 4

/-- The detail slot of a copy fault (R418). -/
def copyDetail (cardAddr : Nat) : BitVec 256 := detailOf 0 (cardAddr * 2 ^ 64) 0x08

/-- CSTAT and ENGST after a fault of queue `q`, and its deferred ENGINE fault (R310, R313). -/
def copyFault (q : BitVec 2) (cause : Nat) (tag : BitVec 8) (cardAddr : Nat) (s : State) : State :=
  raiseEngine 0x08 (2 + q.toNat) cause tag.toNat (copyDetail cardAddr)
    (onEng (fun e => { e with cftag := e.cftag.set q.toNat tag q.isLt
                              cfcause := e.cfcause.set q.toNat (BitVec.ofNat 8 cause) q.isLt
                              cfault := e.cfault ||| BitVec.twoPow 4 q.toNat }) s)

def onQueue (q : BitVec 2) (f : List CJob → List CJob) (s : State) : State :=
  onEng (fun e => { e with cq := e.cq.set q.toNat (f (e.cq[q.toNat]'q.isLt)) q.isLt }) s

def cardAt (t : Tile) (a : Word) : BitVec 512 := BitVec.ofNat 512 (readB t.mem.spad a.toNat 64)

/-- The card of address `a`, displaced by `disp` where CPYS gives one, enters queue `q` or faults (R310, R311). -/
def enterCopy (i : State) (a : Word) (disp : Option Word) (q : BitVec 2) (s : State) : State :=
  let c := cardAt i.tile a
  let (far, big) := match disp with
    | some d => displace c d
    | none => (BitVec.ofNat 64 (cardFar c), false)
  match cardCause i.tile c far big with
  | some n => copyFault q n (cardTag c) a.toNat s
  | none =>
    let j : CJob := { card := c, far := far, cardAddr := a.toNat, cpys := disp.isSome, serial := s.tile.eng.serial
                      fp := cardRanges c, behind := s.tile.eng.sq.length }
    onEng (fun e => { e with serial := e.serial + 1 }) (onQueue q (· ++ [j]) s)

def queueOf (t : Tile) (q : BitVec 2) : List CJob := t.eng.cq[q.toNat]'q.isLt

def copyOp (h : Hdr) (card : Reg) (aux : Option Reg) (q : BitVec 2) : SlotOp where
  hdr := h
  slot := 3
  fault5 := fun i => spadFault i.tile (readG i.tile.regs card) 64 64 0
  wait := fun i => decide (cqDepth ≤ (queueOf i.tile q).length)
  access := fun i => [acc (readG i.tile.regs card).toNat 64 false]
  fault6 := fun i => poisonFault i.tile (readG i.tile.regs card).toNat 64
  eff := fun i s => enterCopy i (readG i.tile.regs card) (aux.map (readG i.tile.regs)) q s

def cpyOp (h : Hdr) (card : Reg) (q : BitVec 2) : SlotOp := copyOp h card none q
def execCpy (h : Hdr) (card : Reg) (q : BitVec 2) (s : State) := (cpyOp h card q).run s

def cpysOp (h : Hdr) (card aux : Reg) (q : BitVec 2) : SlotOp := copyOp h card (some aux) q
def execCpys (h : Hdr) (card aux : Reg) (q : BitVec 2) (s : State) := (cpysOp h card aux q).run s

/-! ## CDRN, CSTAT, CKILL (R312 to R314) -/

def selected (sel : QSel) : List (BitVec 2) :=
  match sel with
  | .one q => [q]
  | .all => [0, 1, 2, 3]

def cdrnOp (h : Hdr) (sel : QSel) : SlotOp where
  hdr := h
  slot := 3
  wait := fun i => (selected sel).any fun q => !(queueOf i.tile q).isEmpty
  eff := fun _ s => s
def execCdrn (h : Hdr) (sel : QSel) (s : State) := (cdrnOp h sel).run s

/-- CSTAT (R313). -/
def cstatValue (e : Eng) (q : BitVec 2) : Word :=
  let js := e.cq[q.toNat]'q.isLt
  (0 : BitVec 24) ++ ((e.cftag[q.toNat]'q.isLt) ++ ((e.cfcause[q.toNat]'q.isLt) ++ ((0 : BitVec 17) ++
    (BitVec.ofBool (e.cfault.getLsbD q.toNat) ++ (BitVec.ofBool (js.any (·.st != .waiting)) ++ BitVec.ofNat 5 js.length)))))

def cstatOp (h : Hdr) (d : Reg) (q : BitVec 2) : SlotOp where
  hdr := h
  slot := 3
  eff := fun i s => pushRes 3 0 0 (.g d (cstatValue i.tile.eng q)) s
def execCstat (h : Hdr) (d : Reg) (q : BitVec 2) (s : State) := (cstatOp h d q).run s

/-- The jobs of a queue that stay after a kill: those that had started (R314). -/
def killJobs (js : List CJob) : List CJob := (js.filter (·.st != .waiting)).map fun j => { j with st := .killed }

def killQueues (qs : List (BitVec 2)) (s : State) : State := qs.foldl (fun s q => onQueue q killJobs s) s

def ckillOp (h : Hdr) (sel : QSel) : SlotOp where
  hdr := h
  slot := 3
  eff := fun _ s => s
  post := fun _ s => killQueues (selected sel) s
def execCkill (h : Hdr) (sel : QSel) (s : State) := (ckillOp h sel).run s

/-- KILLED_JOB_RELEASE: job `n` of queue `q`, killed, whose accesses have completed (R314). -/
def killedJobRelease (q : BitVec 2) (n : Nat) (s : State) : State :=
  match (queueOf s.tile q)[n]? with
  | some j => if j.st = .killed ∧ j.packets = 0 then onQueue q (·.eraseIdx n) s else s
  | none => s
def execKilledJobRelease (q : BitVec 2) (n : Nat) (s : State) : Host.Outcome State Fault Refusal := .next (killedJobRelease q n s)

/-! ## Starting (R300) -/

/-- COPY_JOB_START: the oldest waiting job of queue `q`, once its edges are satisfied. -/
def copyJobStart (q : BitVec 2) (s : State) : State :=
  let js := queueOf s.tile q
  match js.findIdx? (·.st == .waiting) with
  | none => s
  | some n =>
    match js[n]? with
    | none => s
    | some j =>
      if edgesClear s.tile.eng j.serial j.fp && decide ((js.filter (·.st == .running)).length < cqRun) then
        onQueue q (fun js => js.set n { j with st := .running }) s
      else s
def execCopyJobStart (q : BitVec 2) (s : State) : Host.Outcome State Fault Refusal := .next (copyJobStart q s)

/-! ## Moving bytes (R304, R306 to R308) -/

/-- Where a move stops. -/
inductive Move where
  | moved (n : Nat) (s : State)
  /-- a cause of R310 found while the job runs, and the translation fault with its address and source -/
  | fail (cause : Nat) (x : Option (XFault × Word × Nat)) (s : State)
  /-- held by a page-in (none), or at its port (R379, R467) -/
  | stall (hold : Option Hold) (s : State)

/-- The undefined bytes that replace those written inside the read hull of an S2S job (R304). -/
def blurHull (lo hi : Int) (k : Nat) (f : Int) (bs : List Byte) : List Byte :=
  bs.zipIdx.map fun b => if lo ≤ f + b.2 ∧ f + b.2 ≤ hi then Config.undefByte k b.2 else b.1

/-- Hints of a job's reads (R308). -/
def copyHints (s : State) (c : BitVec 512) : Hints :=
  { ownHints s with u := c.extractLsb' 120 8, disc := c.getLsbD 119 }

/-- The next piece of a job: bytes of one run and one block of the far side, in the order of R304: a line of 256 bytes of global
memory, one read or write of it (R332, R338, R376), and 64 bytes of scratchpad; never past the first poisoned byte (R310). -/
def movePiece (q : BitVec 2) (j : CJob) (s : State) : Move :=
  let c := j.card
  let b := j.moved % cardLen0 c
  let i1 := j.moved / cardLen0 c % cardCnt1 c
  let i2 := j.moved / (cardLen0 c * cardCnt1 c)
  let l0 := (cardSaddr c : Int) + (i2 : Int) * cardS2 c + (i1 : Int) * cardS1 c
  let l := (l0 + b).toNat
  let f := (farBase c j.far + (i2 : Int) * cardF2 c + (i1 : Int) * cardF1 c + b).toNat
  let n := if cardDir c ≤ 1 then min (cardLen0 c - b) (256 - f % 256) else min (cardLen0 c - b) (64 - f % 64)
  let n := match (if cardDir c = 0 then none else firstPoison s.tile.mem l n) with
    | some p => if l < p then p - l else n
    | none => n
  let vd := s.tile.place.vd
  if cardDir c = 0 then
    match gRead (ownCluster s) vd f n (copyHints s c) s with
    | .done bs s => .moved n (onMem (fun m => { m with spad := writeList l bs m.spad, poison := unpoison l0.toNat (b + n) m.poison }) s)
    | .fail x s => .fail (if x.code = 0x05 then 6 else 7) (some (x, BitVec.ofNat 64 f, 6)) s
    | .wait s => .stall none s
    | .block h s => .stall (some h) s
  else if (firstPoison s.tile.mem l n).isSome then .fail 8 none s
  else
    let bs := readList s.tile.mem.spad l n
    if cardDir c = 1 then
      match gWrite (ownCluster s) vd f bs (ownHints s) s with
      | .done _ s => .moved n s
      | .fail x s => .fail (if x.code = 0x05 then 6 else 7) (some (x, BitVec.ofNat 64 f, 7)) s
      | .wait s => .stall none s
      | .block h s => .stall (some h) s
    else if cardDir c = 2 then
      .moved n { s with packets := s.packets ++
        [{ src := s.cur, queue := q, serial := j.serial, x := s.tile.place.x, y := s.tile.place.y, dx := farX j.far
           dy := farY j.far, addr := f, bytes := bs }] }
    else
      let h := localHull c
      .moved n (onMem (spadWrite f (blurHull h.1 h.2 s.fresh f bs)) { s with fresh := s.fresh + 1 })

/-- The job after a piece of `n` bytes. -/
def pieceDone (n : Nat) (j : CJob) : CJob :=
  { j with moved := j.moved + n, wb := none, packets := if cardDir j.card = 2 then j.packets + 1 else j.packets }

/-- Pieces in order until the job's bytes have moved, or one does not move; at most `fuel` of them. -/
def movePieces (q : BitVec 2) : Nat → CJob → State → CJob × Move
  | 0, j, s => (j, .moved 0 s)
  | fuel + 1, j, s =>
    if cardTotal j.card ≤ j.moved then (j, .moved 0 s)
    else
      match movePiece q j s with
      | .moved n s => movePieces q fuel (pieceDone n j) s
      | .fail c x s => (j, .fail c x s)
      | .stall h s => (j, .stall h s)

/-- Whether stores that the tile issued before a job with rel = 1 are not all performed (R307). -/
def storesAhead (t : Tile) (j : CJob) : Bool := cardRel j.card && (t.eng.sq.take j.behind).any (·.owed (cardScope j.card))

/-- Whether the job's global writes must wait for earlier stores of its tile (R307). -/
def relHeld (t : Tile) (j : CJob) : Bool := cardDir j.card == 1 && storesAhead t j

/-- Whether the update of a job must wait for them (R309). -/
def updateHeld (t : Tile) (j : CJob) : Bool := cardSe j.card && storesAhead t j

/-! ## Completion and faults (R309, R310) -/

/-- The tile that holds the sync word (R309). -/
def syncTile (j : CJob) (s : State) : Nat :=
  if cardSt j.card then (gangTile s (farX j.far) (farY j.far)).getD s.cur else s.cur

/-- A completed job: its update, and its entry freed (R309). A tile that no longer belongs to the gang takes no update: its cluster has freed
(R424). -/
def copyDone (q : BitVec 2) (n : Nat) (j : CJob) (s : State) : State :=
  let s := onQueue q (·.eraseIdx n) s
  if cardSe j.card then
    modTile (syncTile j s) (fun t =>
      if t.place.slot = s.tile.place.slot then { t with mem := syncAdd (cardSync j.card) (cardTotal j.card) t.mem } else t) s
  else s

/-- A job that faulted while it ran: the records, the waiting jobs of its queue abandoned, its entry kept while packets of it
are still on the fabric (R310). -/
def copyRunFault (q : BitVec 2) (n cause : Nat) (x : Option (XFault × Word × Nat)) (j : CJob) (s : State) : State :=
  let drop := fun (js : List CJob) =>
    (if j.packets = 0 then js.eraseIdx n else js.set n { j with st := .killed }).filter (·.st != .waiting)
  let s := onQueue q drop s
  let s := match x with
    | some (x, va, source) =>
      raiseDeferred { code := x.code, addr := va, cause := if x.code = 0x05 then x.cause else 0, engine := 2 + q.toNat
                      tag := (cardTag j.card).toNat, detail := xDetail x va (cardTag j.card).toNat source } s
    | none => s
  copyFault q cause (cardTag j.card) j.cardAddr s

/-- The running job `n` of queue `q`, where it may move. -/
def runningJob (q : BitVec 2) (n : Nat) (s : State) : Option CJob :=
  match (queueOf s.tile q)[n]? with
  | some j => if j.st = .running ∧ standing j.wb = false ∧ relHeld s.tile j = false then some j else none
  | none => none

/-- The pieces that one step of a job moves at most: one, and a free number more. -/
def copyFuel (s : State) : Nat := Config.copyBurst s.fresh + 1

/-- Whether every byte of a job is written, so that its completion begins (R309). -/
def allMoved (j : CJob) : Bool := decide (cardTotal j.card ≤ j.moved) && j.packets == 0

/-- Job `n` of queue `q` after pieces of it have moved: with its last byte written its footprint is released, its update follows once the stores
before it are performed, and it ends (R309). -/
def jobMoved (q : BitVec 2) (n : Nat) (j : CJob) (s : State) : State :=
  if allMoved j then
    if updateHeld s.tile j then onQueue q (fun js => js.set n { j with fp := [] }) s
    else copyDone q n j (onQueue q (fun js => js.set n j) s)
  else onQueue q (fun js => js.set n j) s

/-- COPY_JOB_COMPLETE: pieces of job `n` move, a free number of them; with the last written the job completes. A job whose next byte
fails is left to COPY_JOB_RUN_FAULT. -/
def copyJobComplete (q : BitVec 2) (n : Nat) (s : State) : State :=
  match runningJob q n s with
  | none => s
  | some j =>
    match movePieces q (copyFuel s) j { s with fresh := s.fresh + 1 } with
    | (_, .fail _ _ _) => s
    | (j, .moved _ s) => jobMoved q n j s
    | (j, .stall none s) => onQueue q (fun js => js.set n j) s
    | (j, .stall (some h) s) => countHold s.tile.place.vd j.wb h (onQueue q (fun js => js.set n { j with wb := some (rehold j.wb h) }) s)
def execCopyJobComplete (q : BitVec 2) (n : Nat) (s : State) : Host.Outcome State Fault Refusal := .next (copyJobComplete q n s)

/-- COPY_JOB_RUN_FAULT: the bytes of job `n` move up to one that fails (R310). -/
def copyJobRunFault (q : BitVec 2) (n : Nat) (s : State) : State :=
  match runningJob q n s with
  | none => s
  | some j =>
    match movePieces q (cardTotal j.card - j.moved) j s with
    | (j, .fail cause x s) => copyRunFault q n cause x j s
    | _ => s
def execCopyJobRunFault (q : BitVec 2) (n : Nat) (s : State) : Host.Outcome State Fault Refusal := .next (copyJobRunFault q n s)

/-! ## Packets (R199, R306, R317, R324) -/

/-- The step along one dimension of `size` positions: up, or down; wrap links are live where `wrap` (R317). -/
def goesUp (size : Nat) (wrap : Bool) (a b : Nat) : Bool :=
  if wrap then decide ((b + size - a) % size ≤ (a + size - b) % size) else decide (a < b)

/-- The next link of a packet; none at its destination. -/
def routeDir (w h : Nat) (p : Packet) : Option Dir :=
  if p.x ≠ p.dx then some (if goesUp (4 * w) (w == 8) p.x p.dx then .east else .west)
  else if p.y ≠ p.dy then some (if goesUp (2 * h) (h == 8) p.y p.dy then .south else .north)
  else none

/-- Whether tiles `a` and `b` of one gang are both members of the set of an open phase (R324). -/
def bothInPhase (s : State) (a b : Tile) : Bool :=
  match a.place.slot with
  | none => false
  | some k =>
    b.place.slot == some k && (heldTiles k s).any fun q =>
      let t := getTile q s
      t.eng.phase.any fun e => inScope t e.toNat a.place.x a.place.y && inScope t e.toNat b.place.x b.place.y

/-- Whether an open phase keeps a packet at the link from its place to (x, y) (R324). -/
def linkStopped (s : State) (src : Tile) (p : Packet) (x y : Nat) : Bool :=
  match src.place.slot with
  | none => false
  | some k => bothInPhase s (getTile (tileAt (getBind k s) p.x p.y) s) (getTile (tileAt (getBind k s) x y) s)

/-- A packet of job `serial` has left the fabric. -/
def landPacket (serial : Nat) (j : CJob) : CJob := if j.serial = serial then { j with packets := j.packets - 1 } else j

/-- The packet written to its tile in one step, and taken off the fabric (R199). A tile that no longer belongs to the gang takes nothing:
its cluster has freed (R424). -/
def deliver (n : Nat) (p : Packet) (s : State) : State :=
  let src := getTile p.src s
  let dst := match src.place.slot with
    | some b => tileAt (getBind b s) p.dx p.dy
    | none => p.src
  { s with packets := s.packets.eraseIdx n }
    |> modTile dst (fun t => if t.place.slot = src.place.slot then { t with mem := spadWrite p.addr p.bytes t.mem } else t)
    |> eachTile [p.src] (onQueue p.queue fun js => js.map (landPacket p.serial))

/-- Whether an earlier packet of the same job that shares a byte has not been written (R304). -/
def overtakes (ps : List Packet) (n : Nat) (p : Packet) : Bool :=
  (ps.take n).any fun o => o.src == p.src && o.serial == p.serial && bytesMeet o.addr o.bytes.length p.addr p.bytes.length

/-- S2T_PACKET_HOP: packet `n` crosses a link, or is written where it has arrived. -/
def s2tPacketHop (n : Nat) (s : State) : State :=
  match s.packets[n]? with
  | none => s
  | some p =>
    let src := getTile p.src s
    match routeDir src.place.w src.place.h p with
    | none => if overtakes s.packets n p then s else deliver n p s
    | some d =>
      match neighbour src.place.w src.place.h p.x p.y d with
      | none => s
      | some (x, y) =>
        if linkStopped s src p x y then s else { s with packets := s.packets.set n { p with x := x, y := y } }
def execS2tPacketHop (n : Nat) (s : State) : Host.Outcome State Fault Refusal := .next (s2tPacketHop n s)

end Sys2Proof.Machine
end

