-- ==== Sys2Proof/Machine/Matrix.lean ====
section
/-! DEFINITION. The matrix class at issue: operand headers (05_numbers.md R153 to R155), matrix calls, the accumulators,
MLDR, MSTAT and MDRN (08_matrix.md R215 to R224, R234 to R242), and the issue of CPBIND, CPINV, CPSAV, CPRST and CPQRY
(09_coppice.md R247 to R249, R259, R262, R264). -/

namespace Sys2Proof.Machine

/-! ## Operand headers (R151, R153 to R155) -/

/-- Bytes of one plane of a panel (R151). -/
def planeBytes (sparse : Nat) : Nat := if sparse = 0 then 512 else if sparse = 1 then 256 else 128

/-- The panel size at the stored planes (R151). -/
def panelBytes (o : Operand) : Nat := planeBytes o.sparse * o.planes

/-- The header at `a` (R154); none where it is invalid by itself (R155). -/
def parseHeader (m : TMem) (a : Nat) : Option Operand :=
  let h := readB m.spad a 64
  let o : Operand :=
    { bstride := field h 255 224, pstride := field h 223 192, scale := field h 191 160, data := field h 159 128
      k := field h 127 96, rows := field h 95 64, version := BitVec.ofNat 16 (field h 63 48)
      seed := BitVec.ofNat 16 (field h 47 32), gdiv := field h 31 24, sparse := field h 17 16, u := field h 15 15 == 1
      planes := field h 10 8 + 1 }
  let ok := field h 7 0 == 1 && field h 511 256 == 0 && field h 23 18 == 0 && field h 14 11 == 0 && o.sparse != 3
    && o.bstride % 64 == 0 && o.pstride % 64 == 0 && decide (panelBytes o ≤ o.pstride) && decide (o.scale < 2 ^ 21)
    && decide (o.data < 2 ^ 21) && o.data % 64 == 0 && decide (32 ≤ o.k ∧ o.k ≤ 1048576) && o.k % 32 == 0
    && decide (1 ≤ o.rows ∧ o.rows ≤ 65536) && decide (1 ≤ o.gdiv ∧ o.gdiv ≤ 128) && (o.sparse != 0 || o.seed == 0)
  if ok then some o else none

/-- Rows rounded up to whole row blocks. -/
def rowBlocks (o : Operand) : Nat := (o.rows + 127) / 128

/-- scale_byte(m, g) (R153). -/
def scaleAddr (o : Operand) (m g : Nat) : Nat := o.scale + g * (128 * rowBlocks o) + m

/-! ## The call (R217, R220, R221) -/

def mpOf (c : MCallSnap) (n : Fin 8) : Nat := c.mp[n].toNat
def callG (c : MCallSnap) : Nat := field (mpOf c 2) 51 32
def callNb (c : MCallSnap) : Nat := field (mpOf c 2) 31 16
def callMb (c : MCallSnap) : Nat := field (mpOf c 2) 15 0
def callKb0 (c : MCallSnap) : Nat := callG c * c.a.gdiv

/-- K-panels of the group (R221). -/
def callNK (c : MCallSnap) : Nat :=
  let g := callG c
  let w := 32 * c.a.gdiv
  (min ((g + 1) * w) c.a.k - g * w) / 32

/-- The first panel of the call's group. -/
def panelBase (o : Operand) (blk kb0 : Nat) : Nat := o.data + blk * o.bstride + kb0 * o.pstride
def callA (c : MCallSnap) : Nat := panelBase c.a (callMb c) (callKb0 c)
def callB (c : MCallSnap) : Nat := panelBase c.b (callNb c) (callKb0 c)

/-- The panel ranges of the footprint. -/
def panelRange (o : Operand) (base nk : Nat) : FRange := { base := base, len := (nk - 1) * o.pstride + panelBytes o, write := false }

/-- The footprint of a matrix call (R221). -/
def callFp (c : MCallSnap) : List FRange :=
  [panelRange c.a (callA c) (callNK c), panelRange c.b (callB c) (callNK c),
   { base := scaleAddr c.a (128 * callMb c) (callG c), len := 128, write := false },
   { base := scaleAddr c.b (128 * callNb c) (callG c), len := 128, write := false }]

/-- Whether a call's row block and scale group are an operand's: one it does not have is cause 2, and the call reads nothing of it
(R155, R223). -/
def blockInRange (o : Operand) (blk g : Nat) : Bool := decide (128 * blk < o.rows ∧ g * (32 * o.gdiv) < o.k)

/-- The bytes of one operand that a call reads (R155): as far as the footprint goes, at the operand's stored planes, whatever planes
the call names. No rule says which bytes of a panel a call reads. DESIGN CHOICE, log entry 62. -/
def operandRanges (o : Operand) (blk g : Nat) : List FRange :=
  if blockInRange o blk g then
    [panelRange o (panelBase o blk (g * o.gdiv)) ((min ((g + 1) * (32 * o.gdiv)) o.k - g * (32 * o.gdiv)) / 32),
     { base := scaleAddr o (128 * blk) g, len := 128, write := false }]
  else []

/-- ahdr and bhdr. -/
def hdrAddr (r : Regs) (n : Fin 2) : Nat := field (if n = 0 then r.mp[0].toNat else r.mp[1].toNat) 20 0

/-- Whether a header is read (R220). -/
def hdrRead (t : Tile) (a : Nat) : Bool := a % 64 == 0 && inProg t a 64

/-- The header reads of a call as timed loads (R194). -/
def hdrAccess (t : Tile) : List FRange :=
  ((upTo 2).map fun n => hdrAddr t.regs (if n = 0 then 0 else 1)).filterMap fun a =>
    if hdrRead t a then some (acc a 64 false) else none

def hdrPoison (t : Tile) : Option TFault := firstFault (fun r => poisonFault t r.base 64) (hdrAccess t)

/-- Reserved mp fields that are not zero: cause 13 (R217, R248). -/
def mpReserved (mp : Vector Word 8) (delta : Bool) : Bool :=
  field mp[0].toNat 63 21 != 0 || field mp[1].toNat 63 21 != 0 || field mp[2].toNat 63 52 != 0 || field mp[3].toNat 30 21 != 0
    || (if delta then field mp[4].toNat 63 38 != 0 || field mp[4].toNat 15 0 != 0 || field mp[7].toNat 63 17 != 0
        else field mp[4].toNat 63 1 != 0)

/-- Whether a routine index has an entry point, as the MLDRs already queued leave the table (R234, R241). -/
def hasEntry (t : Tile) (r : BitVec 8) : Bool :=
  (smGet 0 t.mem.rentry r.toNat).getLsbD 12 ||
    t.eng.mq.any fun j =>
      match j.job with
      | .mldr _ d => d.getLsbD 32 && d.extractLsb' 24 8 == r
      | _ => false

/-- The causes of R223 found at issue, or the job's snapshot. -/
def checkCall (t : Tile) (delta : Bool) (routine tag : BitVec 8) (pa pb : Nat) : Except Nat MCallSnap :=
  let mp := t.regs.mp
  let ha := hdrAddr t.regs 0
  let hb := hdrAddr t.regs 1
  let a := if hdrRead t ha then parseHeader t.mem ha else none
  let b := if hdrRead t hb then parseHeader t.mem hb else none
  let mis := ha % 64 != 0 || hb % 64 != 0
  let bad := (hdrRead t ha && a.isNone) || (hdrRead t hb && b.isNone)
    || (match b with | some o => o.sparse != 0 | none => false)
  let beyond := (ha % 64 == 0 && !inProg t ha 64) || (hb % 64 == 0 && !inProg t hb 64)
  let z : Operand := { bstride := 0, pstride := 0, scale := 0, data := 0, k := 0, rows := 0, version := 0, seed := 0, gdiv := 0
                       sparse := 0, u := false, planes := 0 }
  let c : MCallSnap := { mp := mp, routine := routine, tag := tag, pa := pa, pb := pb, a := a.getD z, b := b.getD z }
  let both := a.isSome && b.isSome
  let far := fun (lim : Nat) =>
    ((a.map (operandRanges · (callMb c) (callG c))).getD [] ++ (b.map (operandRanges · (callNb c) (callG c))).getD []).any fun r =>
      decide (lim < r.base + r.len)
  let range := fun (o : Option Operand) (blk : Nat) =>
    match o with
    | some o => !blockInRange o blk (callG c)
    | none => false
  let planes := fun (o : Option Operand) (p : Nat) =>
    match o with
    | some o => decide (o.planes < p)
    | none => false
  if mis || bad || far 0x200000 then .error 1
  else if (both && (c.a.k != c.b.k || c.a.gdiv != c.b.gdiv)) || range a (callMb c) || range b (callNb c) then .error 2
  else if planes a pa || planes b pb then .error 3
  else if beyond || far (progEnd t) then .error 4
  else if !hasEntry t routine then .error 5
  else if mp[3].getLsbD 31 && (field mp[3].toNat 20 0 % 16 != 0 || !inProg t (field mp[3].toNat 20 0) 16) then .error 10
  else if mpReserved mp delta then .error 13
  else .ok c

/-! ## The matrix queue (R218, R223) -/

/-- Entries of the matrix queue (R218). -/
def mqDepth : Nat := 4
def mqFull (s : State) : Bool := decide (mqDepth ≤ s.tile.eng.mq.length)

/-- A job enters the queue. -/
def mqPush (j : MJob) (fp : List FRange) (s : State) : State :=
  onEng (fun e => { e with mq := e.mq ++ [{ job := j, fp := fp, serial := e.serial, behind := e.sq.length }], serial := e.serial + 1 }) s

/-! ## Broadcasts of the Yarder (R257, R258) -/

/-- Entries cleared, bindings kept (R257): all of them, or those of a layer. -/
def clearEnts (layer : Option (BitVec 16)) (e : Eng) : Eng :=
  { e with ents := e.ents.map fun x =>
    match layer with
    | none => { x with valid := false }
    | some l => if x.bound ∧ x.layer = l then { x with valid := false } else x }

/-- Whether a matrix job runs: a routine, or a CPSAV or CPRST that has begun (R219, R240). -/
def mRuns (e : Eng) : Bool := e.mrun.isSome || e.mq.head?.any (·.begun)

/-- With no matrix job running, the broadcasts that have reached the tile are applied. A CPSAV or CPRST runs from the step that takes it up,
whatever it then waits for, and the broadcasts wait for it; before that they are applied at once. DEDUCED, log entry 84. -/
def applyBcasts (e : Eng) : Eng :=
  if mRuns e then e else { e.bcasts.foldl (fun e l => clearEnts l e) e with bcasts := [] }
/-- A broadcast reaches the tile: applied at once, unless a matrix job runs (R258). -/
def takeBcasts (ls : List (Option (BitVec 16))) (e : Eng) : Eng := applyBcasts { e with bcasts := e.bcasts ++ ls }

/-- A matrix-queue fault: the cause in MSTAT and ENGST, every waiting job abandoned, the deferred ENGINE fault (R223, R414).
`keep` keeps the running job of an earlier call. -/
def matrixFault (keep : Bool) (cause : Nat) (tag : BitVec 8) (s : State) : State :=
  raiseEngine 0x08 1 cause tag.toNat (detailOf 0 0 0x08)
    (onEng (fun e => applyBcasts { e with
      mq := if keep && mRuns e then e.mq.take 1 else []
      mrun := if keep then e.mrun else none
      mftag := tag, mfcause := BitVec.ofNat 8 cause, mfault := true
      pfault := e.pfault || decide (14 ≤ cause ∧ cause ≤ 17) }) s)

/-- A call enters its job, or faults (R220). -/
def enterCall (delta : Bool) (i : State) (routine tag : BitVec 8) (pa1 pb1 : BitVec 3) (s : State) : State :=
  match checkCall i.tile delta routine tag (pa1.toNat + 1) (pb1.toNat + 1) with
  | .ok c => mqPush (if delta then .calld c else .call c) (callFp c) s
  | .error n => matrixFault true n tag s

def mcallOp (h : Hdr) (routine tag : BitVec 8) (pa1 pb1 : BitVec 3) : SlotOp where
  hdr := h
  slot := 2
  wait := mqFull
  access := fun i => hdrAccess i.tile
  fault6 := fun i => hdrPoison i.tile
  eff := fun i s => enterCall false i routine tag pa1 pb1 s
def execMcall (h : Hdr) (routine tag : BitVec 8) (pa1 pb1 : BitVec 3) (s : State) := (mcallOp h routine tag pa1 pb1).run s

def mcalldOp (h : Hdr) (routine tag : BitVec 8) (pa1 pb1 : BitVec 3) : SlotOp where
  hdr := h
  slot := 2
  wait := mqFull
  access := fun i => hdrAccess i.tile
  fault6 := fun i => hdrPoison i.tile
  eff := fun i s => enterCall true i routine tag pa1 pb1 s
def execMcalld (h : Hdr) (routine tag : BitVec 8) (pa1 pb1 : BitVec 3) (s : State) := (mcalldOp h routine tag pa1 pb1).run s

/-- The descriptor errors of MLDR (R241). -/
def mldrBad (t : Tile) (a d : Word) : Bool :=
  field d.toNat 63 33 != 0 || decide (4095 < field d.toNat 11 0 + field d.toNat 23 12) || a.toNat % 4 != 0
    || !inProg t a.toNat (4 * (field d.toNat 23 12 + 1))

def mldrOp (h : Hdr) (a b : Src) : SlotOp where
  hdr := h
  slot := 2
  wait := mqFull
  eff := fun i s =>
    let x := srcMaG i.tile.regs a
    let d := srcMbG i.tile.regs b
    let s := latchMb b (d.setWidth 2048) (latchMa a (x.setWidth 2048) s)
    if mldrBad i.tile x d then matrixFault true 11 0 s
    else mqPush (.mldr x.toNat d) [{ base := x.toNat, len := 4 * (field d.toNat 23 12 + 1), write := false }] s
def execMldr (h : Hdr) (a b : Src) (s : State) := (mldrOp h a b).run s

/-! ## Parameter registers, accumulators, status (R235 to R240, R242) -/

def msetOp (h : Hdr) (mp : BitVec 3) (a : Src) : SlotOp where
  hdr := h
  slot := 2
  eff := fun i s =>
    let x := srcMaG i.tile.regs a
    onRegs (fun r => { r with mp := r.mp.set mp.toNat x mp.isLt }) (latchMa a (x.setWidth 2048) s)
def execMset (h : Hdr) (mp : BitVec 3) (a : Src) (s : State) := (msetOp h mp a).run s

def mgetOp (h : Hdr) (d : Reg) (mp : BitVec 3) : SlotOp where
  hdr := h
  slot := 2
  eff := fun i s => pushRes 2 0 0 (.g d (i.tile.regs.mp[mp.toNat]'mp.isLt)) s
def execMget (h : Hdr) (d : Reg) (mp : BitVec 3) (s : State) := (mgetOp h d mp).run s

/-- Whether a matrix job still holds its accumulator claim (R221, R237). -/
def claimed (s : State) : Bool :=
  s.tile.eng.mq.any fun j =>
    match j.job with
    | .call _ | .calld _ => true
    | _ => false

def mzrOp (h : Hdr) : SlotOp where
  hdr := h
  slot := 2
  wait := claimed
  eff := fun _ s => onMem (fun m => { m with acc := [], aovf := false }) s
def execMzr (h : Hdr) (s : State) := (mzrOp h).run s

/-- The first element of the slice an accumulator index names (R216). -/
def accSlice (i : Word) : Nat := 128 * field i.toNat 8 2 + 32 * field i.toNat 1 0

/-- The 32 elements from `k` in the I40 view: bits 63:40 of a lane copy bit 39 (R137, R238). -/
def readSlice (m : TMem) (k : Nat) : VWord := laneVec 64 32 fun n => ((smGet 0 m.acc (k + n)).signExtend 64).toNat

def writeSlice (k : Nat) (v : VWord) (m : TMem) : TMem :=
  { m with acc := (upTo 32).foldl (fun a n => smPut 0 (k + n) (v.extractLsb' (64 * n) 40) a) m.acc }

def mrdOp (h : Hdr) (d : Reg) (a : Src) : SlotOp where
  hdr := h
  slot := 2
  wait := claimed
  eff := fun i s =>
    let x := srcMaG i.tile.regs a
    pushRes 2 11 0 (.v (physV i.tile.regs d) (BitVec.allOnes 2048) (readSlice i.tile.mem (accSlice x)))
      (latchMa a (x.setWidth 2048) s)
def execMrd (h : Hdr) (d : Reg) (a : Src) (s : State) := (mrdOp h d a).run s

def mwrOp (h : Hdr) (a b : Src) : SlotOp where
  hdr := h
  slot := 2
  wait := claimed
  eff := fun i s =>
    let v := srcMa i.tile.regs a
    let x := srcMbG i.tile.regs b
    onMem (writeSlice (accSlice x) v) (latchMb b (x.setWidth 2048) (latchMa a v s))
def execMwr (h : Hdr) (a b : Src) (s : State) := (mwrOp h a b).run s

/-- MSTAT (R240). -/
def mstatValue (t : Tile) : Word :=
  let e := t.eng
  (0 : BitVec 32) ++ (e.mftag ++ (e.mfcause ++ ((0 : BitVec 5) ++ (BitVec.ofNat 3 e.mq.length ++ ((0 : BitVec 5) ++
    (BitVec.ofBool e.mfault ++ (BitVec.ofBool (mRuns e) ++ BitVec.ofBool t.mem.aovf)))))))

def mstatOp (h : Hdr) (d : Reg) : SlotOp where
  hdr := h
  slot := 2
  eff := fun i s => pushRes 2 0 0 (.g d (mstatValue i.tile)) s
def execMstat (h : Hdr) (d : Reg) (s : State) := (mstatOp h d).run s

def mdrnOp (h : Hdr) : SlotOp where
  hdr := h
  slot := 2
  wait := fun i => !i.tile.eng.mq.isEmpty
  eff := fun _ s => s
def execMdrn (h : Hdr) (s : State) := (mdrnOp h).run s

/-! ## Coppice instructions at issue (R247, R259, R262, R264) -/

/-- A job of two general operands. -/
def cpJob (h : Hdr) (a b : Src) (j : Word → Word → MJob) : SlotOp where
  hdr := h
  slot := 2
  wait := mqFull
  eff := fun i s =>
    let x := srcMaG i.tile.regs a
    let y := srcMbG i.tile.regs b
    mqPush (j x y) [] (latchMb b (y.setWidth 2048) (latchMa a (x.setWidth 2048) s))

def cpbindOp (h : Hdr) (a b : Src) : SlotOp := cpJob h a b .cpbind
def execCpbind (h : Hdr) (a b : Src) (s : State) := (cpbindOp h a b).run s

def cpinvLayerOp (h : Hdr) (a : Src) : SlotOp where
  hdr := h
  slot := 2
  wait := mqFull
  eff := fun i s =>
    let x := srcMaG i.tile.regs a
    mqPush (.cpinv (some (x.extractLsb' 0 16))) [] (latchMa a (x.setWidth 2048) s)
def execCpinvLayer (h : Hdr) (a : Src) (s : State) := (cpinvLayerOp h a).run s

def cpinvAllOp (h : Hdr) : SlotOp where
  hdr := h
  slot := 2
  wait := mqFull
  eff := fun _ s => mqPush (.cpinv none) [] s
def execCpinvAll (h : Hdr) (s : State) := (cpinvAllOp h).run s

def cpsavOp (h : Hdr) (a b : Src) : SlotOp := cpJob h a b .cpsav
def execCpsav (h : Hdr) (a b : Src) (s : State) := (cpsavOp h a b).run s

def cprstOp (h : Hdr) (a b : Src) : SlotOp := cpJob h a b .cprst
def execCprst (h : Hdr) (a b : Src) (s : State) := (cprstOp h a b).run s

/-- CPQRY's value (R264). -/
def cpqryValue (t : Tile) (a : Word) : Word :=
  let n := a.extractLsb' 0 6
  if n.toNat < t.place.ecount then
    let e := t.eng.ents[n.toNat]'n.isLt
    e.layer ++ (e.gen ++ (e.version ++ (e.count ++ (e.reason ++ (BitVec.ofBool e.refused ++ (BitVec.ofBool e.ovf ++
      (BitVec.ofBool e.valid ++ BitVec.ofBool e.bound)))))))
  else 0

def cpqryOp (h : Hdr) (d : Reg) (a : Src) : SlotOp where
  hdr := h
  slot := 2
  wait := fun i => !i.tile.eng.mq.isEmpty
  eff := fun i s =>
    let x := srcMaG i.tile.regs a
    pushRes 2 2 0 (.g d (cpqryValue i.tile x)) (latchMa a (x.setWidth 2048) s)
def execCpqry (h : Hdr) (d : Reg) (a : Src) (s : State) := (cpqryOp h d a).run s

end Sys2Proof.Machine
end

