-- ==== Sys2Proof/Machine/Board.lean ====
section
/-! DEFINITION. Boarding weights from the Flume: board cards, arming, capture, repair, completion, lane steps, laps and the
publishing of lap maps: 10_flume.md R265 to R298, R503. -/

namespace Sys2Proof.Machine

/-! ## The board card (R281) -/

def bcRaft (c : BitVec 256) : BitVec 16 := c.extractLsb' 240 16
def bcOffset (c : BitVec 256) : Nat := field c.toNat 223 192
def bcLength (c : BitVec 256) : Nat := field c.toNat 175 160
def bcHv (c : BitVec 256) : Bool := c.getLsbD 109
def bcSe (c : BitVec 256) : Bool := c.getLsbD 108
def bcHdr (c : BitVec 256) : Nat := field c.toNat 107 87
def bcSync (c : BitVec 256) : Nat := field c.toNat 86 66
def bcDest (c : BitVec 256) : Nat := field c.toNat 20 0

/-- The checks of R283. -/
def boardBad (t : Tile) (c : BitVec 256) : Bool :=
  let v := c.toNat
  field v 239 224 != 0 || field v 191 176 != 0 || field v 127 119 != 0 || field v 65 21 != 0
    || bcOffset c % 16 != 0 || bcLength c % 16 != 0 || bcLength c == 0 || decide (8192 < bcLength c)
    || bcDest c % 64 != 0 || !inProg t (bcDest c) (256 * bcLength c)
    || (bcHv c && (bcHdr c % 64 != 0 || !inProg t (bcHdr c) 64))
    || (bcSe c && (bcSync c % 16 != 0 || !inProg t (bcSync c) 16))

/-- The footprint of R283. -/
def boardFp (c : BitVec 256) (a : Nat) : List FRange :=
  [{ base := bcDest c, len := 256 * bcLength c, write := true }, { base := a, len := 32, write := true }]
    ++ (if bcHv c then [{ base := bcHdr c, len := 64, write := true }] else [])

/-- Board jobs of the port queue (R284). -/
def bqDepth : Nat := 8

/-- A board job's deferred ENGINE fault (R283, R287, R418). -/
def boardEngine (card : Nat) (s : State) : State :=
  raiseEngine 0x08 6 0 0 (copyDetail card) (onEng (fun e => { e with bfault := true }) s)

def boardCard (t : Tile) (a : Nat) : BitVec 256 := BitVec.ofNat 256 (readB t.mem.spad a 32)

/-- A board job entered, or refused with a fault (R283). -/
def enterBoard (t : Tile) (win : Window) (repair : Bool) (a : Nat) (s : State) : State :=
  let c := boardCard t a
  if boardBad t c then boardEngine a s
  else
    onEng (fun e => { e with serial := e.serial + 1
                             bq := e.bq ++ [{ card := c, cardAddr := a, win := win, repair := repair, serial := e.serial
                                              fp := boardFp c a }] }) s

def boardOp (h : Hdr) (win : Window) (repair : Bool) (card : Reg) : SlotOp where
  hdr := h
  slot := 3
  fault5 := fun i => spadFault i.tile (readG i.tile.regs card) 32 32 0
  wait := fun i => decide (bqDepth ≤ i.tile.eng.bq.length)
  access := fun i => [acc (readG i.tile.regs card).toNat 32 false]
  fault6 := fun i => poisonFault i.tile (readG i.tile.regs card).toNat 32
  eff := fun i s => enterBoard i.tile win repair (readG i.tile.regs card).toNat s
def execBoard (h : Hdr) (win : Window) (repair : Bool) (card : Reg) (s : State) := (boardOp h win repair card).run s

/-- LAPW (R298). -/
def lapwOp (h : Hdr) (aux : Reg) : SlotOp where
  hdr := h
  slot := 3
  point := true
  wait := fun i => decide (lapOf i.flume i.cur < (readG i.tile.regs aux).toNat)
  eff := fun _ s => s
def execLapw (h : Hdr) (aux : Reg) (s : State) := (lapwOp h aux).run s

/-! ## Arming (R285 to R287) -/

/-- The entry of a raft id in a map. -/
def raftOf (m : LapHalf) (r : BitVec 16) : Option Raft := m.rafts.find? (·.raft == r)

/-- The raft's version in a map, 0 where it has none (R291). -/
def raftVersion (m : LapHalf) (r : BitVec 16) : BitVec 16 :=
  match raftOf m r with
  | some x => x.version
  | none => 0

/-- The raft in a lap where the checks of R287 pass. -/
def raftFor (m : LapHalf) (vd : BitVec 8) (c : BitVec 256) : Option Raft :=
  match raftOf m (bcRaft c) with
  | some r => if r.access.getLsbD vd.toNat && decide (bcOffset c + bcLength c ≤ r.length) then some r else none
  | none => none

/-- Status bits (R282). -/
def stRefused : BitVec 8 := 0x20
def stBad : BitVec 8 := 0x10
def stMiss : BitVec 8 := 0x08
def stMended : BitVec 8 := 0x04
def stLate : BitVec 8 := 0x02
def stDone : BitVec 8 := 0x01

/-- A capture of the whole segment in lap `n`. -/
def captureIn (n : Nat) (r : Raft) (c : BitVec 256) (late : Bool) : BState :=
  .capturing { lap := n, first := r.start + bcOffset c, lane := r.lane, version := r.version, wanted := upTo (bcLength c / 16)
               late := late }

/-- A window that has passed in lap `n` (R286). -/
def missedIn (n : Nat) (version : BitVec 16) (win : Window) : BState :=
  match win with
  | .wait => .nextLap n
  | .nowait => .over stMiss version n 0
  | .neither => .over 0 version n 0

/-- What arming decides (R286). -/
def armState (f : Flume) (p : Nat) (vd : BitVec 8) (j : BJob) : BState :=
  let (n, pos) := nextFlit f p
  let m := governing f n
  match raftFor m vd j.card with
  | some r => if pos ≤ r.start + bcOffset j.card then captureIn n r j.card false else missedIn n r.version j.win
  | none => if j.win = .wait then .nextLap n else .over stRefused (raftVersion m (bcRaft j.card)) n 0

/-- A waiting job armed once its edges are satisfied. -/
def armJob (f : Flume) (p : Nat) (t : Tile) (j : BJob) : BJob :=
  if j.st = .waiting ∧ edgesClear t.eng j.serial j.fp then { j with st := armState f p t.place.vd j } else j

/-- BOARD_ARM: job `n` of the tile in focus (R285). -/
def boardArm (n : Nat) (s : State) : State :=
  onEng (fun e => { e with bq := e.bq.modify n (armJob s.flume s.cur s.tile) }) s
def execBoardArm (n : Nat) (s : State) : Host.Outcome State Fault Refusal := .next (boardArm n s)

/-- Every job of a tile armed that can be, in a cycle. -/
def armTile (f : Flume) (p : Nat) (t : Tile) : Tile :=
  if t.eng.bq.isEmpty then t else { t with eng := { t.eng with bq := t.eng.bq.map (armJob f p t) } }

/-! ## Weight tiles (R272, R273, R334) -/

/-- CRC-32C, reflected (R273): the remainder after one more bit, and after one more byte. -/
def crcBit (c : BitVec 32) : BitVec 32 := if c.getLsbD 0 then (c >>> 1) ^^^ 0x82F63B78 else c >>> 1
def crcByte (c : BitVec 32) (b : Byte) : BitVec 32 := (upTo 8).foldl (fun c _ => crcBit c) (c ^^^ b.setWidth 32)

/-- The remainder carried on over bytes, from all ones; the CRC is its complement (R273). -/
def crcOver (c : BitVec 32) (bs : List Byte) : BitVec 32 := bs.foldl crcByte c
def crc32c (bs : List Byte) : BitVec 32 := ~~~(crcOver 0xFFFFFFFF bs)

/-- Bytes of a raft's image. -/
def raftBytes (r : Raft) : Nat := 256 * r.length

/-- The CRCs of a raft's weight tiles, from its image in device memory (R273). -/
def raftCrcs (m : MemSys) (r : Raft) : List (BitVec 32) :=
  (upTo (r.length / 16)).map fun i => crc32c (readList m.dmem (r.addr + 4096 * i) 4096)

/-- The bytes of raft-relative flit `k` as they reach tile `p` in lane step `n`: those of the image as its version was committed, which stay
unchanged (R279), unless an error has changed them. What a flit then carries no rule says. DESIGN CHOICE, log entry 72. Nor does any say
whether the reads of a raft that circulates from LPDDR6 fill lines of the slices (R271, R335): here they fill none. DESIGN CHOICE, log
entry 96. -/
def flitBytes (m : MemSys) (n p : Nat) (r : Raft) (k : Nat) : List Byte :=
  if Config.flitWrong n p r.lane || devPoisoned m (r.addr + 256 * k) 256 then (upTo 256).map (Config.flitByte n p r.lane)
  else readList r.image (256 * k) 256

/-! ## Capture (R198, R288, R289) -/

/-- Flits of the staging buffer (R198). -/
def stageDepth : Nat := 64

/-- Block `b` of a staged flit written; a block of a failed weight tile stays poisoned (R289 to R291). -/
def writeStaged (x : Staged) (m : TMem) (b : Nat) : TMem :=
  let bs := (x.bytes.drop (64 * b)).take 64
  if x.bad then { m with spad := writeList (x.addr + 64 * b) bs m.spad } else spadWrite (x.addr + 64 * b) bs m

/-- Whether the engine port has the bank of block `b` of a staged flit in this cycle: timed accesses come first, then the matrix port, of which
no rule says when it takes one while a matrix job runs (R193, R197). DESIGN CHOICE, log entry 94. -/
def bankFree (ticks p : Nat) (t : Tile) (x : Staged) (b : Nat) : Bool :=
  let bank := (x.addr / 64 + b) % 32
  !t.eng.taken.contains bank && !(mRuns t.eng && Config.matrixBank ticks p bank)

/-- The oldest staged flit written, one a cycle at most: those of its blocks whose banks the engine port has; the others retry (R197, R288,
R290). -/
def drainOne (ticks p : Nat) (t : Tile) : Tile :=
  match t.eng.stage with
  | [] => t
  | x :: xs =>
    let left := x.left.filter (!bankFree ticks p t x ·)
    { t with
      mem := (x.left.filter (bankFree ticks p t x)).foldl (writeStaged x) t.mem
      eng := { t.eng with stage := if left.isEmpty then xs else { x with left := left } :: xs } }

/-- A staged flit, marked where it is one of weight tile `i` of job `j`, which has failed. -/
def spoil (j : BJob) (i : Nat) (x : Staged) : Staged :=
  if x.serial = j.serial ∧ (x.addr - bcDest j.card) / 4096 = i then { x with bad := true } else x

/-- Weight tile `i` of a job has failed: its range is poisoned, and stays so under its captured flits that are still to be written (R289 to
R291). -/
def failTile (j : BJob) (t : Tile) (i : Nat) : Tile :=
  { t with
    mem := { t.mem with poison := poisonRange (bcDest j.card + 4096 * i) 4096 t.mem.poison }
    eng := { t.eng with stage := t.eng.stage.map (spoil j i) } }

/-- The index of the first weight tile that failed, kept over a repair. -/
def firstBad (c : Capture) : Option Nat :=
  match c.badtile with
  | some i => some i
  | none => c.bad.head?

/-- The end of a capture: done, awaiting a repair, or bad (R288, R289). -/
def endCapture (j : BJob) (c : Capture) : BState :=
  let late : BitVec 8 := if c.late then stLate else 0
  let b := firstBad c
  if c.bad.isEmpty then .over (stDone ||| late ||| (if c.mended then stMended else 0)) c.version c.lap (b.getD 0)
  else if j.repair && !c.mended then .repair { c with badtile := b }
  else .over (stBad ||| late) c.version c.lap (b.getD 0)

/-- Job `n` of a tile in state `st`. -/
def setBState (n : Nat) (j : BJob) (st : BState) (t : Tile) : Tile :=
  { t with eng := { t.eng with bq := t.eng.bq.set n { j with st := st } } }

/-- Whether flits of a job are staged, captured and not yet written (R198, R291). -/
def hasStaged (j : BJob) (e : Eng) : Bool := e.stage.any (·.serial == j.serial)

/-- Job `n` ended where its last flit has passed and its staged flits are written (R288, R291). -/
def endDrained (n : Nat) (t : Tile) : Tile :=
  match t.eng.bq[n]? with
  | none => t
  | some j =>
    match j.st with
    | .capturing c => if c.passed && !hasStaged j t.eng then setBState n j (endCapture j c) t else t
    | _ => t

/-- Weight tile `i` noted as failed. -/
def noteBad (i : Nat) (c : Capture) : Capture := if c.bad.contains i then c else { c with bad := c.bad ++ [i] }

/-- The CRC carried on over segment-relative flit `k`, and checked at its weight tile's last flit (R273). -/
def checkCrc (r : Raft) (j : BJob) (k : Nat) (bs : List Byte) (c : Capture) : Capture :=
  let x := crcOver (if k % 16 = 0 then 0xFFFFFFFF else c.crc) bs
  let c := { c with crc := x }
  if k % 16 = 15 ∧ r.crcs[(bcOffset j.card + k) / 16]? ≠ some (~~~x) then noteBad (k / 16) c else c

/-- Flit `k` of a segment, `bs`, at the staging buffer: staged, or dropped where the buffer is full, with which its weight tile fails (R198,
R288, R289). -/
def stageFlit (j : BJob) (k : Nat) (bs : List Byte) (t : Tile) : Tile :=
  if stageDepth ≤ t.eng.stage.length then t
  else { t with eng := { t.eng with stage := t.eng.stage ++ [{ addr := bcDest j.card + 256 * k, bytes := bs, serial := j.serial }] } }

/-- Flit `pos` of lap `lap` at a capturing job `n` of tile `p`: staged, also where its weight tile has failed or fails with it (R198, R288,
R289, R291). -/
def captureFlit (f : Flume) (m : MemSys) (p lap pos n : Nat) (j : BJob) (c : Capture) (t : Tile) : Tile :=
  let k := pos - c.first
  if c.passed = false ∧ lap = c.lap ∧ c.first ≤ pos ∧ k < bcLength j.card then
    let (c, t) :=
      if c.wanted.contains (k / 16) then
        match raftOf (governing f lap) (bcRaft j.card) with
        | none => (noteBad (k / 16) c, failTile j t (k / 16))
        | some r =>
          let bs := flitBytes m f.steps p r (bcOffset j.card + k)
          let c := checkCrc r j k bs c
          let c := if stageDepth ≤ t.eng.stage.length then noteBad (k / 16) c else c
          let t := stageFlit j k bs t
          (c, if c.bad.contains (k / 16) then failTile j t (k / 16) else t)
      else (c, t)
    setBState n j (.capturing { c with passed := k + 1 == bcLength j.card }) t
  else t

/-- The repair capture of R289 in lap `lap`, or the refusal of R287, whose status is refused alone: whether bad or late stands beside it no rule
says. DESIGN CHOICE, log entry 111. -/
def repairIn (f : Flume) (vd : BitVec 8) (lap : Nat) (j : BJob) (c : Capture) : BState :=
  let m := governing f lap
  match raftFor m vd j.card with
  | none => .over stRefused (raftVersion m (bcRaft j.card)) lap ((firstBad c).getD 0)
  | some r =>
    .capturing { c with lap := lap, first := r.start + bcOffset j.card, lane := r.lane, version := r.version, bad := [], mended := true
                        passed := false
                        wanted := if r.version = c.version then c.bad else upTo (bcLength j.card / 16) }

/-- A capture under W in lap `lap`, on the checks against the map that governs it (R287). -/
def captureNext (f : Flume) (vd : BitVec 8) (lap : Nat) (j : BJob) : BState :=
  match raftFor (governing f lap) vd j.card with
  | some r => captureIn lap r j.card true
  | none => .over stRefused (raftVersion (governing f lap) (bcRaft j.card)) lap 0

/-- Flits of a segment that the lap of its capture delivered before it ended. -/
def delivered (f : Flume) (c : Capture) : Nat :=
  match f.laps.find? (·.lap == c.lap) with
  | some l => l.laplen - c.first
  | none => 0

/-- A capture that its lap leaves: where the lap ended early, every weight tile not captured whole is failed (R503). -/
def leftBy (f : Flume) (c : Capture) : Capture :=
  if c.passed then c
  else
    let lost := c.wanted.filter fun i => decide (delivered f c < 16 * i + 16)
    { lost.foldl (fun c i => noteBad i c) c with passed := true }

/-- Job `n`, capturing, when lap `lap` begins: nothing captured is a missed window; a repair begins at once in this lap; otherwise the
capture ends once its staged flits are written (R289, R503). A repair capture that has none of its flits yet has failed, and missed no window: R503
speaks of the job's segment. DEDUCED, log entry 111. -/
def lapLeft (f : Flume) (vd : BitVec 8) (lap : Nat) (n : Nat) (j : BJob) (c : Capture) (t : Tile) : Tile :=
  if c.passed = false ∧ delivered f c = 0 ∧ !c.mended then
    setBState n j (match j.win with | .wait => captureNext f vd lap j | w => missedIn c.lap c.version w) t
  else
    let d := leftBy f c
    let t := (d.bad.filter (! c.bad.contains ·)).foldl (failTile j) t
    match endCapture j d with
    | .repair d => setBState n j (repairIn f vd lap j d) t
    | _ => setBState n j (.capturing d) t

/-- What the arrival of position 0 of lap `lap` means to job `n` (R287, R289, R503). -/
def newLapJob (f : Flume) (lap n : Nat) (t : Tile) : Tile :=
  match t.eng.bq[n]? with
  | none => t
  | some j =>
    match j.st with
    | .nextLap l => if l < lap then setBState n j (captureNext f t.place.vd lap j) t else t
    | .repair c => if c.lap < lap then setBState n j (repairIn f t.place.vd lap j c) t else t
    | .capturing c => if c.lap < lap then lapLeft f t.place.vd lap n j c t else t
    | _ => t

/-- What a flit means to job `n` of tile `p`. -/
def flitJob (f : Flume) (m : MemSys) (p lap pos n : Nat) (t : Tile) : Tile :=
  match t.eng.bq[n]? with
  | none => t
  | some j =>
    match j.st with
    | .capturing c => captureFlit f m p lap pos n j c t
    | _ => t

/-- The banks of the cycle are free again. -/
def freeBanks (t : Tile) : Tile := { t with eng := { t.eng with taken := [] } }

/-- A tile in one cycle: a staged flit is written, captures whose bytes are all written end; the flits that reach the tile are captured, job
by job in the order of the port queue (R198, R268, R288). No rule says whether the place of a flit written in the cycle is free for one that
arrives in it, as it is here, nor which of several flits that arrive takes the last place. DESIGN CHOICE, log entry 95. -/
def laneTile (f : Flume) (m : MemSys) (ticks p : Nat) (t : Tile) : Tile :=
  let t := freeBanks (drainOne ticks p t)
  let t := (upTo t.eng.bq.length).foldl (fun t n => endDrained n t) t
  if laneStepDue f && decide (reach p ≤ f.steps) && !t.eng.bq.isEmpty then
    let (lap, pos) := nextFlit f p
    let jobs := upTo t.eng.bq.length
    let t := if pos = 0 then jobs.foldl (fun t n => newLapJob f lap n t) t else t
    jobs.foldl (fun t n => flitJob f m p lap pos n t) t
  else t

/-! ## Laps at the feeding slices (R266 to R268, R278, R503) -/

/-- The lap at the feeding slices ends after `len` positions, and the next begins. -/
def endLap (len start : Nat) (f : Flume) : Flume :=
  match f.laps with
  | [] => f
  | l :: ls => { f with laps := { lap := l.lap + 1, start := start, laplen := 0 } :: { l with laplen := len } :: ls, t := 0, pos := 0 }

/-- The Flume after a cycle (R267). -/
def flumeCycle (f : Flume) : Flume :=
  if laneStepDue f then
    let f := { f with steps := f.steps + 1, pos := f.pos + 1, t := f.t + 1 }
    if f.pos = topLen f then endLap f.pos f.steps f else f
  else if topLen f = 0 then f
  else { f with t := f.t + 1 }

/-- The layers of a device whose version the map of lap `n` changes (R257, R279). -/
def changedLayers (f : Flume) (n : Nat) (vd : BitVec 8) : List (BitVec 16) :=
  ((governing f n).rafts.filter fun r =>
    match raftOf (governing f (n - 1)) r.raft with
    | some q => q.version != r.version && (q.access ||| r.access).getLsbD vd.toNat
    | none => false).map (·.layer)

/-- The Coppice broadcasts of the commits that the map of lap `n` carries, sent as the lap begins (R257, R279). -/
def sendCommits (f : Flume) (t : Tile) : Tile :=
  let n := (topLap f).lap
  match f.maps.find? (·.1 ≤ n) with
  | some (from_, m) =>
    if from_ = n ∧ t.place.slot.isSome then
      let others := (m.commits.filter (·.1 == t.place.vd)).map (·.2)
      { t with eng := takeBcasts ((changedLayers f n t.place.vd).map some ++ others) t.eng }
    else t
  | none => t

/-- A change to every tile that a bind holds or that has work, `f` given its physical number. -/
def everyTile (f : Nat → Tile → Tile) (s : State) : State :=
  { s with tile := f s.cur s.tile, others := s.others.map fun x => (x.1, f x.1 x.2) }

/-- Halts placed at a lap boundary reach their gangs (R391, R393). -/
def plannedHalts (s : State) : State := s.binds.foldl (fun s b => if b.2.planned then haltGang b.1 s else s) s

/-- What follows a lap boundary: broadcasts and planned halts. -/
def lapBegun (before : Flume) (s : State) : State :=
  if (topLap before).lap = (topLap s.flume).lap then s else plannedHalts (everyTile (fun _ => sendCommits s.flume) s)

/-- The slices' feed of a lane step: the flits of pinned rafts are read from their lines (R271; 13 R334, R335). -/
def feedReads (f : Flume) (s : State) : State :=
  if laneStepDue f then
    (governing f (topLap f).lap).rafts.foldl (fun s r =>
      if r.pinned && decide (r.start ≤ f.pos ∧ f.pos < r.start + r.length) then touchLines (r.addr + 256 * (f.pos - r.start)) 256 false { u := 255 } s
      else s) s
  else s

/-- LANE_STEP (R267, R268, R288, R289): one compute cycle of the Flume. -/
def laneStep (s : State) : State :=
  let f := s.flume
  lapBegun f { everyTile (laneTile f s.mem s.ticks) (feedReads f s) with flume := flumeCycle f }
def execLaneStep (s : State) : Host.Outcome State Fault Refusal := .next (laneStep s)

/-- Whether a half may be published: a length, a pace, and rafts of one id each that fit the lap and device memory (R266, R267, R272,
R274, R276). -/
def halfOk (m : LapHalf) : Bool :=
  m.laplen % 16 == 0 && decide (m.laplen ≤ 0xFFFFFFF0) && decide (m.pace ≤ 1024) && decide (m.rafts.length ≤ 511)
    && m.rafts.zipIdx.all fun r =>
      r.1.start % 16 == 0 && r.1.length % 16 == 0 && decide (16 ≤ r.1.length) && decide (r.1.start + r.1.length ≤ m.laplen)
        && decide (r.1.addr + raftBytes r.1 ≤ deviceBytes)
        && m.rafts.zipIdx.all fun q =>
          q.2 == r.2 || (q.1.raft != r.1.raft
            && (q.1.lane != r.1.lane || decide (q.1.start + q.1.length ≤ r.1.start ∨ r.1.start + r.1.length ≤ q.1.start)))

/-- The half published last. -/
def newestHalf (f : Flume) : LapHalf :=
  match f.maps with
  | (_, m) :: _ => m
  | [] => { laplen := 0, pace := 0, rafts := [], commits := [] }

/-- The half published last, to be published again: with its commits where it does not govern yet. -/
def newestAgain (f : Flume) : LapHalf :=
  { newestHalf f with commits := if (topLap f).lap < (f.maps.headD (0, newestHalf f)).1 then (newestHalf f).commits else [] }

/-- The raft of the same id, model, layer and version in the half published last. -/
def sameRaft (f : Flume) (r : Raft) : Option Raft :=
  (raftOf (newestHalf f) r.raft).filter fun q => q.model == r.model && q.layer == r.layer && q.version == r.version

/-- Whether a raft has the model and layer of its id in `rs`, ids that a bind has resolved (R274). -/
def nameKept (rs : List (BitVec 16 × BitVec 16 × BitVec 16)) (r : Raft) : Bool :=
  rs.all fun x => x.1 != r.raft || (x.2.1 == r.model && x.2.2 == r.layer)

/-- A raft's image as it stands in device memory. -/
def raftImage (m : MemSys) (r : Raft) : SMap Byte := sliceMap r.addr (raftBytes r) m.dmem

/-- Whether rafts keep the name of every id that a bind has resolved, and their bytes where they keep their version (R274). -/
def namesKept (m : LapHalf) (s : State) : Bool :=
  m.rafts.all fun r =>
    (s.binds.all fun b => nameKept b.2.rafts r)
      && match sameRaft s.flume r with
         | none => true
         | some q => q.length == r.length && (q.addr == r.addr || q.image == raftImage s.mem r)

/-- A half published from a lap above the current one; one not yet in force is replaced. The Yarder's three writes are one step, so that no reader
finds the half between them. DESIGN CHOICE, log entry 112. -/
def publishHalf (from_ : Nat) (m : LapHalf) (f : Flume) : Flume :=
  { f with maps := (from_, m) :: f.maps.filter fun x => decide (x.1 ≤ (topLap f).lap) }

/-- The devices to which a model is open (R279; 17 R449). -/
def accessOf (model : BitVec 16) (s : State) : BitVec 256 :=
  s.vds.foldl (fun a v => if v.2.enabled && v.2.models.contains model then a ||| BitVec.twoPow 256 v.1 else a) 0

/-- A half as the Yarder publishes it: every raft with the access set then open, and with the bytes and the CRCs of its commit (R273,
R279). -/
def withAccess (s : State) (m : LapHalf) : LapHalf :=
  { m with rafts := m.rafts.map fun r =>
      match sameRaft s.flume r with
      | some q => { r with access := accessOf r.model s, crcs := q.crcs, image := q.image }
      | none => { r with access := accessOf r.model s, crcs := raftCrcs s.mem r, image := raftImage s.mem r } }

/-- The Yarder's reads of the rafts whose bytes it takes for a new version: their lines in the slices (13 R334, R335). -/
def readRafts (m : LapHalf) (s : State) : State :=
  m.rafts.foldl (fun s r => if (sameRaft s.flume r).isNone then touchLines r.addr (raftBytes r) false {} s else s) s

/-- The halves that govern the current lap or a later one. -/
def liveHalves (f : Flume) : List LapHalf :=
  governing f (topLap f).lap :: (f.maps.filter fun x => decide ((topLap f).lap < x.1)).map (·.2)

/-- Whether a line lies in a raft that is pinned. -/
def pinnedRaft (f : Flume) (l : Line) : Bool :=
  (liveHalves f).any fun m => m.rafts.any fun r => r.pinned && decide (r.addr < 256 * l.line + 256 ∧ 256 * l.line < r.addr + raftBytes r)

/-- The Yarder's pins follow the rafts that circulate from the slices; they belong to no bind (R271, R340). No rule says which virtual device's
count an eviction of one raises (R339): virtual device 0's. DESIGN CHOICE, log entry 97. -/
def flumePins (s : State) : State :=
  let s := onMemSys (fun m => { m with lines := m.lines.map fun l =>
    if l.count = 255 ∧ l.owner = none ∧ pinnedRaft s.flume l = false then { l with count := 0 } else l }) s
  (newestHalf s.flume).rafts.foldl (fun s r => if r.pinned then touchLines r.addr (raftBytes r) false { u := 255 } s else s) s

/-- Whether the module's state admits a half: in Calm the Flume stands at pace 0; in Doldrums no memory holds rafts to read (R478). That the
Yarder publishes only then no rule says. DESIGN CHOICE, log entry 90. -/
def mayPublish (m : LapHalf) (x : Mod) : Bool := x.power == .active || (x.power == .calm && m.pace == 0)

/-- LAP_MAP_PUBLISH (R278, R279, R503): at pace 0 or laplen 0 the boundary is forced and the map takes effect at once. -/
def lapMapPublish (from_ : Nat) (m : LapHalf) (s : State) : State :=
  let f := s.flume
  let l := (topLap f).lap
  if !(halfOk m && namesKept m s && mayPublish m s.mod) then s
  else
    let u := readRafts m s
    let m := withAccess s m
    if topLen f = 0 ∨ topPace f = 0 then
      flumePins (lapBegun f { u with flume := endLap f.pos f.steps (publishHalf (l + 1) m f) })
    else if l < from_ then flumePins { u with flume := publishHalf from_ m f }
    else s
def execLapMapPublish (from_ : Nat) (m : LapHalf) (s : State) : Host.Outcome State Fault Refusal := .next (lapMapPublish from_ m s)

/-- The newest map published again with the access sets now open, from the first lap that can still be given one, where they differ
(R279). -/
def republish (s : State) : State :=
  let f := s.flume
  let m := newestAgain f
  if (m.rafts.all fun r => r.access == accessOf r.model s) then s else lapMapPublish ((topLap f).lap + 1) m s

/-! ## Completion (R291) -/

/-- The card's fields written back (R281, R291). -/
def writeCard (a : Nat) (status : BitVec 8) (version : BitVec 16) (lap badtile : Nat) (m : TMem) : TMem :=
  let old := readB m.spad (a + 13) 2
  let mid := old / 2 ^ 15 * 2 ^ 15 + badtile % 512 * 2 ^ 6 + old % 2 ^ 6
  m |> spadStore (a + 13) 2 mid
    |> spadStore (a + 16) 4 (status.toNat + lap % 256 * 2 ^ 8 + version.toNat * 2 ^ 16)

/-- The detail slot of a BOARD fault (R418). -/
def boardDetail (j : BJob) (version : BitVec 16) (badtile : Nat) (status : BitVec 8) : BitVec 256 :=
  bcRaft j.card ++ (version ++ ((0 : BitVec 1) ++ (BitVec.ofNat 21 j.cardAddr ++ (BitVec.ofNat 9 badtile ++ (status ++
    ((0 : BitVec 177) ++ (0x07 : BitVec 8)))))))

/-- BOARD_COMPLETE: job `n` of the tile in focus, ended, once every byte it captured is written (R291). -/
def boardComplete (n : Nat) (s : State) : State :=
  match s.tile.eng.bq[n]? with
  | none => s
  | some j =>
    if hasStaged j s.tile.eng then s
    else
    match j.st with
    | .over status version lap badtile =>
      let done := status.getLsbD 0
      let s := onMem (fun m => if done && bcHv j.card then spadStore (bcHdr j.card + 6) 2 version.toNat m else m) s
      let s := onMem (writeCard j.cardAddr status version lap badtile) s
      let s := onEng (fun e => { e with bq := e.bq.eraseIdx n }) s
      if done || status.getLsbD 3 then
        if bcSe j.card then onMem (syncAdd (bcSync j.card) (256 * bcLength j.card)) s else s
      else if status.getLsbD 5 then boardEngine j.cardAddr s
      else raiseEngine 0x07 6 0 0 (boardDetail j version badtile status) (onEng (fun e => { e with bfault := true }) s)
    | _ => s
def execBoardComplete (n : Nat) (s : State) : Host.Outcome State Fault Refusal := .next (boardComplete n s)

end Sys2Proof.Machine
end

