-- ==== Sys2Proof/Machine/Coppice.lean ====
section
/-! DEFINITION. Coppice entries: their shape, the mode and scan of an MCALLD, its write-back, and the jobs of CPBIND, CPINV,
CPSAV and CPRST (09_coppice.md R243 to R263). -/

namespace Sys2Proof.Machine

/-! ## Elements of plane panels (R149, R150) -/

/-- The element (row, k) of the first `p` planes of a dense panel at `base`, in the given signedness. -/
def planeElem (m : SMap Byte) (base p : Nat) (signed : Bool) (row k : Nat) : Int :=
  (upTo p).foldl (fun v j =>
    let bit := (smGet 0 m (base + 512 * j + 4 * row + k / 8)).getLsbD (k % 8)
    let w : Int := 2 ^ (p - 1 - j)
    if bit then v + (if j = 0 && signed then -w else w) else v) 0

/-- A scale byte of a row of the call's group; −128 at and beyond the operand's rows (R228). -/
def scaleOf (m : TMem) (o : Operand) (blk g row : Nat) : BitVec 8 :=
  if o.rows ≤ 128 * blk + row then 0x80 else smGet 0 m.spad (scaleAddr o (128 * blk + row) g)

/-! ## Shape and storage (R244, R245) -/

def callShape (c : MCallSnap) : CopShape :=
  { rr := min 128 (c.a.rows - 128 * callMb c), cc := min 128 (c.b.rows - 128 * callNb c), nk := callNK c, pa := c.pa, pb := c.pb
    au := c.a.u, bu := c.b.u, mb := callMb c, nb := callNb c, g := callG c }

/-- RB (R245). -/
def resultBytes (s : CopShape) : Nat := 256 * ((5 * s.rr * s.cc + 255) / 256)

/-- The bytes a shape needs (R245). -/
def needBytes (s : CopShape) : Nat := resultBytes s + 512 * s.pb * s.nk

/-- x(n, k): B's element of the group (R251). -/
def groupElem (m : TMem) (c : MCallSnap) (n k : Nat) : Int :=
  if scaleOf m c.b (callNb c) (callG c) n = 0x80 then 0
  else planeElem m.spad (callB c + k / 32 * c.b.pstride) c.pb (!c.b.u) n (k % 32)

/-- X̂(n, k): the stored reconstruction (R245, R251). -/
def storedElem (m : TMem) (e : CopEntry) (s : CopShape) (bu : Bool) (n k : Nat) : Int :=
  planeElem m.cpart (e.offset + resultBytes s + 512 * s.pb * (k / 32)) s.pb (!bu) n (k % 32)

/-- Arithmetic shift right of an integer, rounding toward −∞. -/
def floorShift (x : Int) (s : Nat) : Int := x / 2 ^ s

/-- The scan (R251): q of every element, or none where one is out of range. -/
def scanGroup (m : TMem) (c : MCallSnap) (e : CopEntry) : Option (SMap Int) :=
  let s := callShape c
  let hiQ : Int := 2 ^ (e.d - 1) - 1
  let lo : Int := if c.b.u then 0 else -(2 ^ (c.pb - 1))
  let hi : Int := if c.b.u then 2 ^ c.pb - 1 else 2 ^ (c.pb - 1) - 1
  let one := fun (i : Nat) =>
    let n := i / (32 * s.nk)
    let k := i % (32 * s.nk)
    let x := storedElem m e s c.b.u n k
    let q := floorShift (groupElem m c n k - x) e.s
    let y := x + q * 2 ^ e.s
    (i, q, decide (-(2 ^ (e.d - 1)) ≤ q ∧ q ≤ hiQ ∧ lo ≤ y ∧ y ≤ hi))
  let all := (upTo (s.cc * (32 * s.nk))).map one
  if all.all (·.2.2) then some ((all.filter (·.2.1 != 0)).map fun x => (x.1, x.2.1)) else none

/-- Whether every row of B has scale −128 in the call's group, so that its planes are not fetched (R152). -/
def scanZero (m : TMem) (c : MCallSnap) : Bool := (upTo 128).all fun n => scaleOf m c.b (callNb c) (callG c) n == 0x80

/-- Whether the scan meets a poisoned block (R152, R251). -/
def scanPoisoned (m : TMem) (c : MCallSnap) : Bool :=
  (firstPoison m (scaleAddr c.b (128 * callNb c) (callG c)) 128).isSome
    || !scanZero m c && (upTo (callNK c)).any fun j => (firstPoison m (callB c + j * c.b.pstride) (512 * c.pb)).isSome

/-- The reason of R250, without row 9: 0 stands for a scan to be made. -/
def modeReason (t : Tile) (c : MCallSnap) (e : CopEntry) : Nat :=
  let s := callShape c
  if !e.valid then 1
  else if e.vd ≠ t.place.vd then 2
  else if (c.mp[7]).getLsbD 16 then 3
  else if c.a.version ≠ e.version then 4
  else if e.shape ≠ s then 5
  else if (upTo s.cc).any (fun n => scaleOf t.mem c.b s.nb s.g n != smGet 0 e.bscale n) then 6
  else if e.ovf then 7
  else if e.n ≤ e.count.toNat then 8
  else 0

/-! ## Entries -/

def entOf (e : Eng) (n : BitVec 6) : CopEntry := e.ents[n.toNat]'n.isLt
def setEnt (n : BitVec 6) (f : CopEntry → CopEntry) (e : Eng) : Eng := { e with ents := e.ents.set n.toNat (f (entOf e n)) n.isLt }

/-- The entry a call names (R248). -/
def callEnt (c : MCallSnap) : BitVec 6 := (c.mp[4]).extractLsb' 32 6

/-- COPPICE_BROADCAST_APPLY (R258). -/
def execCoppiceBroadcastApply (s : State) : Host.Outcome State Fault Refusal := .next (onEng applyBcasts s)

/-- The write-back of an MCALLD (R253). A delta job whose q is zero throughout writes back count and ovf alone (R255). -/
def writeBack (c : MCallSnap) (r : MRun) (t : Tile) : Tile :=
  let s := callShape c
  let n := callEnt c
  let e := entOf t.eng n
  let m := t.mem
  let part := (upTo (s.rr * s.cc)).foldl (fun p i =>
    writeB (e.offset + 5 * i) 5 (smGet 0 m.acc (128 * (i / s.cc) + i % s.cc)).toNat p) m.cpart
  let xhat := fun (n k : Nat) =>
    if r.mode = .delta then storedElem m e s c.b.u n k + smGet 0 r.q (32 * s.nk * n + k) * 2 ^ e.s else groupElem m c n k
  let base := e.offset + resultBytes s
  let word := fun (kk j n : Nat) =>
    (upTo 32).foldl (fun w k =>
      if n < s.cc && (wrapN s.pb (xhat n (32 * kk + k))).testBit (s.pb - 1 - j) then w + 2 ^ k else w) 0
  let part := (upTo (s.nk * s.pb * 128)).foldl (fun p i =>
    let kk := i / (s.pb * 128)
    let j := i / 128 % s.pb
    let n := i % 128
    writeB (base + 512 * s.pb * kk + 512 * j + 4 * n) 4 (word kk j n) p) part
  let upd := fun (e : CopEntry) =>
    if r.mode = .delta then { e with count := e.count + 1, ovf := r.ovf }
    else { e with version := c.a.version, shape := s, count := 0, gen := e.gen + 1, valid := true, ovf := r.ovf
                  bscale := (upTo s.cc).foldl (fun b n => smPut 0 n (scaleOf m c.b s.nb s.g n) b) [] }
  { t with mem := if r.mode = .delta ∧ r.q = [] then m else { m with cpart := part }, eng := setEnt n upd t.eng }

/-! ## The jobs in their turn -/

/-- Whether the gang of the tile in focus is to be discarded (16 R424). -/
def discarding (s : State) : Bool := (ownBind s).decided && (ownBind s).discard

/-- The oldest job, when no routine runs and the broadcasts are applied: the engine's turn (R219, R258). Of a gang that is to be discarded no
job begins or goes on (R230, R260). -/
def jobTurn (s : State) : State × Option MEntry :=
  if s.tile.eng.mrun.isSome || discarding s then (s, none)
  else
    let s := onEng applyBcasts s
    match s.tile.eng.mq with
    | [] => (s, none)
    | j :: _ => if edgesClear s.tile.eng j.serial j.fp then (s, some j) else (s, none)

/-- The running job leaves the queue, and the broadcasts that reached the tile meanwhile are applied (R258). A load that is still on the
matrix port as a routine ends is dropped. DESIGN CHOICE, log entry 83. -/
def mqPop (s : State) : State := onEng (fun e => applyBcasts { e with mq := e.mq.tail, mrun := none }) s

/-- The cause-16 errors of a CPBIND (R247). -/
def cpbindBad (t : Tile) (a b : Word) : Bool :=
  let x := a.toNat
  let y := b.toNat
  let off := field y 19 0
  let size := field y 51 32
  let n := field x 5 0
  field x 39 35 != 0 || field x 31 29 != 0 || field x 25 6 != 0 || field y 63 52 != 0 || field y 31 20 != 0
    || decide (t.place.ecount ≤ n) || off % 256 != 0 || size % 256 != 0 || size == 0 || decide (t.place.coppice < off + size)
    || (t.eng.ents.toList.zipIdx.any fun e => e.2 != n && e.1.bound && decide (off < e.1.offset + e.1.size ∧ e.1.offset < off + size))

/-- CPBIND_JOB (R247). -/
def cpbindJob (s : State) : State :=
  match jobTurn s with
  | (s, some { job := .cpbind a b, .. }) =>
    if cpbindBad s.tile a b then matrixFault false 16 0 s
    else
      let x := a.toNat
      let vd := s.tile.place.vd
      mqPop (onEng (setEnt (a.extractLsb' 0 6) fun e =>
        { e with bound := true, layer := a.extractLsb' 48 16, n := if field x 47 40 = 0 then 64 else field x 47 40
                 s := field x 34 32, d := field x 28 26 + 1, offset := field b.toNat 19 0, size := field b.toNat 51 32, vd := vd
                 valid := false, count := 0, ovf := false, reason := 15, refused := false }) s)
  | (s, _) => s
def execCpbindJob (s : State) : Host.Outcome State Fault Refusal := .next (cpbindJob s)

/-- CPINV_JOB (R259). -/
def cpinvJob (s : State) : State :=
  match jobTurn s with
  | (s, some { job := .cpinv l, .. }) => mqPop (onEng (clearEnts l) s)
  | (s, _) => s
def execCpinvJob (s : State) : Host.Outcome State Fault Refusal := .next (cpinvJob s)

/-- Whether CPSAV or CPRST names no entry it may act on: cause 16 (R249). -/
def cpEntBad (t : Tile) (a : Word) : Bool :=
  field a.toNat 63 6 != 0 || decide (t.place.ecount ≤ field a.toNat 5 0) || !(entOf t.eng (a.extractLsb' 0 6)).bound

/-- The save record's header (R261). -/
def recordHeader (e : CopEntry) : BitVec 2048 :=
  let s := e.shape
  let scale : BitVec 1024 := BitVec.ofNat 1024 (readB e.bscale 0 128)
  scale ++ ((0 : BitVec 716) ++ (BitVec.ofNat 20 s.g ++ (BitVec.ofNat 16 s.nb ++ (BitVec.ofNat 16 s.mb ++ ((0 : BitVec 32) ++
    (BitVec.ofNat 32 e.size ++ (BitVec.ofNat 7 (s.rr - 1) ++ (BitVec.ofNat 7 (s.cc - 1) ++ (BitVec.ofNat 7 (s.nk - 1) ++
    (BitVec.ofNat 3 (s.pa - 1) ++ (BitVec.ofNat 3 (s.pb - 1) ++ (BitVec.ofBool s.au ++ (BitVec.ofBool s.bu ++ ((0 : BitVec 3) ++
    (e.layer ++ (e.gen ++ (e.version ++ (BitVec.ofNat 8 e.n ++ (BitVec.ofNat 3 e.s ++ (BitVec.ofNat 3 (e.d - 1) ++ ((0 : BitVec 2) ++
    (e.count ++ ((0 : BitVec 22) ++ (BitVec.ofBool e.ovf ++ (BitVec.ofBool e.valid ++ ((0 : BitVec 48) ++ (e.vd ++
    (0x01 : BitVec 8))))))))))))))))))))))))))))

/-- The reserved fields of a record (R261). -/
def recordReserved (r : Nat) : Bool :=
  field r 1023 308 != 0 || field r 255 224 != 0 || field r 162 160 != 0 || field r 97 96 != 0 || field r 87 66 != 0 || field r 63 16 != 0

/-- The entry as a record gives it (R262). -/
def entryFrom (r : Nat) (e : CopEntry) : CopEntry :=
  let cc := field r 184 178 + 1
  { e with
    valid := field r 64 64 == 1, ovf := field r 65 65 == 1, count := BitVec.ofNat 8 (field r 95 88), d := field r 100 98 + 1
    s := field r 103 101, n := field r 111 104, version := BitVec.ofNat 16 (field r 127 112), gen := BitVec.ofNat 16 (field r 143 128)
    shape := { rr := field r 191 185 + 1, cc := cc, nk := field r 177 171 + 1, pa := field r 170 168 + 1, pb := field r 167 165 + 1
               au := field r 164 164 == 1, bu := field r 163 163 == 1, mb := field r 271 256, nb := field r 287 272
               g := field r 307 288 }
    bscale := (upTo cc).foldl (fun b n => smPut 0 n (BitVec.ofNat 8 (r >>> (1024 + 8 * n))) b) []
    refused := false }

/-- A cause-17 or 19 fault of a save record, with the XLATE or POISON record of the failing access (R249, R383). -/
def recordFault17 (x : XFault) (va : Word) (entry source : Nat) (s : State) : State :=
  let cause := if x.code = 0x05 then 17 else 19
  let s := raiseDeferred { code := x.code, addr := va, cause := if x.code = 0x05 then x.cause else 0, engine := 1
                           detail := xDetail x va entry source } s
  matrixFault false cause 0 s

/-- Up to `n` more 256-byte pieces of a record, of which `got` has moved, written or read in order, `f` one access: how that ends, and what
has moved then. -/
def overPieces (f : Nat → State → GOut) : Nat → List Byte → State → GOut × List Byte
  | 0, got, s => (.done got s, got)
  | n + 1, got, s =>
    match f (got.length / 256) s with
    | .done b s => overPieces f n (got ++ b) s
    | o => (o, got)

/-- Pieces of a record of `n` that are still to move. -/
def piecesLeft (n : Nat) (got : List Byte) : Nat := n - got.length / 256

/-- Whether the global stores that the tile issued before a job are performed, at device scope as its completion is (R262). -/
def storesDone (j : MEntry) (s : State) : Bool := !(s.tile.eng.sq.take j.behind).any (·.owed .device)

def modHead (f : MEntry → MEntry) (s : State) : State := onEng (fun e => { e with mq := e.mq.modify 0 f }) s

/-- The oldest job, a CPSAV or CPRST, begins in its turn (R219). -/
def beginHead (s : State) : State := modHead (fun j => { j with begun := true }) s

/-- The oldest job goes on later from what has moved: its page is being paged in (R378). -/
def pauseHead (got : List Byte) (s : State) : State :=
  modHead (fun j => { j with wb := if j.got.length = got.length then j.wb else none, got := got }) s

/-- The oldest job's next write is held by `h`: noted, and counted once where it waits for a pool page (R379, R467). -/
def holdHead (h : Hold) (got : List Byte) (s : State) : State :=
  let s := pauseHead got s
  countHold s.tile.place.vd (s.tile.eng.mq.head?.bind (·.wb)) h (modHead (fun j => { j with wb := some (rehold j.wb h) }) s)

/-- CPSAV_JOB (R262). -/
def cpsavJob (s : State) : State :=
  match jobTurn s with
  | (s, some j@{ job := .cpsav a b, .. }) =>
    let s := beginHead s
    if standing j.wb || !storesDone j s then s
    else if cpEntBad s.tile a then matrixFault false 16 0 s
    else if b.toNat % 256 ≠ 0 then matrixFault false 17 0 s
    else
      let n := a.extractLsb' 0 6
      let e := entOf s.tile.eng n
      let bytes := toBytes 256 (recordHeader e).toNat ++ readList s.tile.mem.cpart e.offset e.size
      match overPieces (fun j s =>
          gWrite (ownCluster s) s.tile.place.vd (b.toNat + 256 * j) ((bytes.drop (256 * j)).take 256) (ownHints s) s)
          (piecesLeft (1 + e.size / 256) j.got) j.got s with
      | (.done _ s, _) => mqPop s
      | (.fail x s, got) => recordFault17 x (b + BitVec.ofNat 64 got.length) n.toNat 8 s
      | (.wait s, got) => pauseHead got s
      | (.block h s, got) => holdHead h got s
  | (s, _) => s
def execCpsavJob (s : State) : Host.Outcome State Fault Refusal := .next (cpsavJob s)

/-- CPRST_JOB (R262, R263). A record whose read ends in cause 17 leaves the entry and its storage as they were; R249 states what is left for cause
19 alone. DESIGN CHOICE, log entry 104. -/
def cprstJob (s : State) : State :=
  match jobTurn s with
  | (s, some j@{ job := .cprst a b, .. }) =>
    let s := beginHead s
    if !storesDone j s then s
    else if cpEntBad s.tile a then matrixFault false 16 0 s
    else if b.toNat % 256 ≠ 0 then matrixFault false 17 0 s
    else
      let n := a.extractLsb' 0 6
      let e := entOf s.tile.eng n
      let read := fun (j : Nat) (s : State) =>
        gRead (ownCluster s) s.tile.place.vd (b.toNat + 256 * j) 256 { ownHints s with counts := false } s
      let failed := fun (x : XFault) (got : List Byte) (s : State) =>
        let s := if x.code = 0x06 then onEng (setEnt n fun e => { e with valid := false }) s else s
        recordFault17 x (b + BitVec.ofNat 64 got.length) n.toNat 9 s
      match overPieces read (piecesLeft 1 j.got) j.got s with
      | (.done hd s, _) =>
        let r := ofBytes (hd.take 256)
        if field r 7 0 ≠ 1 ∨ field r 15 8 ≠ s.tile.place.vd.toNat ∨ field r 159 144 ≠ e.layer.toNat ∨ field r 223 192 ≠ e.size
            ∨ recordReserved r then
          mqPop (onEng (setEnt n fun e => { e with valid := false, refused := true }) s)
        else
          match overPieces read (piecesLeft (1 + e.size / 256) hd) hd s with
          | (.done bs s, _) =>
            mqPop (onEng (setEnt n (entryFrom r)) (onMem (fun m => { m with cpart := writeList e.offset (bs.drop 256) m.cpart }) s))
          | (.fail x s, got) => failed x got s
          | (.wait s, got) | (.block _ s, got) => pauseHead got s
      | (.fail x s, got) => failed x got s
      | (.wait s, got) | (.block _ s, got) => pauseHead got s
  | (s, _) => s
def execCprstJob (s : State) : Host.Outcome State Fault Refusal := .next (cprstJob s)

end Sys2Proof.Machine
end

