-- ==== Sys2Proof/Machine/Engine.lean ====
section
/-! DEFINITION. The matrix engine: starting a job, panel loads, MLDR, and the micro-ops (08_matrix.md R219 to R232, R241;
09_coppice.md R249 to R253). A micro-op with no routine running, or one that must wait for a load, leaves the machine as it is. -/

namespace Sys2Proof.Machine

/-! ## The running call -/

/-- The snapshot of the running routine's call. -/
def runCall (e : Eng) : Option (MCallSnap × MRun) :=
  match e.mrun, e.mq with
  | some r, j :: _ =>
    match j.job with
    | .call c => some (c, r)
    | .calld c => some (c, r)
    | _ => none
  | _, _ => none

def setRun (r : MRun) (s : State) : State := onEng (fun e => { e with mrun := some r }) s

/-- The running job of a gang that is to be discarded stops: no write-back, no completion update (R230, R260). -/
def stopJob (s : State) : State := onEng (fun e => { e with mq := e.mq.tail, mrun := none }) s

/-- The running job faults: it stops, its entry is left not valid once read, the waiting jobs are abandoned (R223, R253). Of a gang that is to be
discarded it stops and nothing is reported: R230 lets it go on to its next YLD, and no rule says what a fault before that does. DESIGN CHOICE, log
entry 109. -/
def jobFault (cause : Nat) (c : MCallSnap) (r : MRun) (s : State) : State :=
  if discarding s then stopJob s else
  let s := if r.mode = .plain then s else onEng (setEnt (callEnt c) fun e => { e with valid := false }) s
  matrixFault false cause c.tag s

/-- Whether a row or column reads as zero to the routine: its scale byte is −128, it lies at or beyond the operand's rows, or,
of B in delta mode, every q of it is zero (R228, R252). A column of scale byte −128 reads as zero in delta mode too, whatever its q, of which
R252 does not speak. DESIGN CHOICE, log entry 103. -/
def rowZero (m : TMem) (c : MCallSnap) (r : MRun) (ofB : Bool) (row : Nat) : Bool :=
  if ofB then
    scaleOf m c.b (callNb c) (callG c) row == 0x80
      || (r.mode == .delta && (decide ((callShape c).cc ≤ row) ||
          (upTo (32 * callNK c)).all fun k => smGet 0 r.q (32 * callNK c * row + k) == 0))
  else scaleOf m c.a (callMb c) (callG c) row == 0x80

def allZero (m : TMem) (c : MCallSnap) (r : MRun) (ofB : Bool) : Bool := (upTo 128).all (rowZero m c r ofB)

/-! ## MATRIX_JOB_START (R219, R234, R249 to R252) -/

/-- A routine at its first micro-op. What the pointers, the block number, the sums and the buffers hold before its INIT no rule says: zero and
empty. DESIGN CHOICE, log entry 82. -/
def freshRun (t : Tile) (c : MCallSnap) : MRun := { upc := ((smGet 0 t.mem.rentry c.routine.toNat).extractLsb' 0 12).toNat }

/-- The accumulators as an MCALLD's routine finds them (R252). -/
def deltaAcc (m : TMem) (c : MCallSnap) (e : CopEntry) : SMap (BitVec 40) :=
  let s := callShape c
  (upTo (s.rr * s.cc)).foldl (fun a i =>
    smPut 0 (128 * (i / s.cc) + i % s.cc) (BitVec.ofNat 40 (readB m.cpart (e.offset + 5 * i) 5)) a) []

/-- The start of an MCALLD: causes 14 and 15, the mode and its reason, the scan (R249 to R252). -/
def startCalld (c : MCallSnap) (s : State) : State :=
  let t := s.tile
  let n := callEnt c
  let e := entOf t.eng n
  if t.place.ecount ≤ n.toNat ∨ !e.bound ∨ e.layer ≠ (c.mp[4]).extractLsb' 16 16 then matrixFault false 14 c.tag s
  else if e.size < needBytes (callShape c) then matrixFault false 15 c.tag s
  else
    let full := fun (reason : Nat) =>
      s |> onMem (fun m => { m with acc := [] })
        |> onEng (setEnt n fun e => { e with reason := BitVec.ofNat 4 reason })
        |> setRun { freshRun t c with mode := .full }
    match modeReason t c e with
    | 0 =>
      if scanPoisoned t.mem c then jobFault 18 c { freshRun t c with mode := .full } s
      else
        match scanGroup t.mem c e with
        | none => full 9
        | some q =>
          s |> onMem (fun m => { m with acc := deltaAcc m c e })
            |> onEng (setEnt n fun e => { e with reason := 0 })
            |> setRun { freshRun t c with mode := .delta, q := q }
    | reason => full reason

/-- MATRIX_JOB_START: the oldest call starts in its turn; zacc is applied (R219, R234). -/
def matrixJobStart (s : State) : State :=
  match jobTurn s with
  | (s, some { job := .call c, .. }) =>
    let s := if (c.mp[4]).getLsbD 0 then onMem (fun m => { m with acc := [] }) s else s
    setRun (freshRun s.tile c) s
  | (s, some { job := .calld c, .. }) => startCalld c s
  | (s, _) => s
def execMatrixJobStart (s : State) : Host.Outcome State Fault Refusal := .next (matrixJobStart s)

/-! ## MLDR_JOB (R241) -/

/-- The micro-ops copied to their slots, and the entry set. -/
def mldrWrite (addr : Nat) (d : Word) (m : TMem) : TMem :=
  let start := field d.toNat 11 0
  let slots := (upTo (field d.toNat 23 12 + 1)).foldl (fun r j =>
    smPut 0 (start + j) (BitVec.ofNat 32 (readB m.spad (addr + 4 * j) 4)) r) m.rstore
  { m with rstore := slots
           rentry := if d.getLsbD 32 then smPut 0 (field d.toNat 31 24) (BitVec.ofNat 13 (4096 + start)) m.rentry else m.rentry }

def mldrJob (s : State) : State :=
  match jobTurn s with
  | (s, some { job := .mldr addr d, .. }) =>
    if (firstPoison s.tile.mem addr (4 * (field d.toNat 23 12 + 1))).isSome then matrixFault false 18 0 s
    else mqPop (onMem (mldrWrite addr d) s)
  | (s, _) => s
def execMldrJob (s : State) : Host.Outcome State Fault Refusal := .next (mldrJob s)

/-! ## Staging buffers (R225, R228, R231) -/

def bufOf (r : MRun) (ofB : Bool) (b : BitVec 1) : Buf :=
  match ofB, b == 1 with
  | false, false => r.a0
  | false, true => r.a1
  | true, false => r.b0
  | true, true => r.b1

def setBuf (ofB : Bool) (b : BitVec 1) (x : Buf) (r : MRun) : MRun :=
  match ofB, b == 1 with
  | false, false => { r with a0 := x }
  | false, true => { r with a1 := x }
  | true, false => { r with b0 := x }
  | true, true => { r with b1 := x }

def loadPending (r : MRun) (ofB : Bool) (b : BitVec 1) : Bool := r.loads.any fun l => l.1 == ofB && l.2.1 == b

/-- The words an A panel's rows take from scratchpad: planes 0 to pa − 1, rows that read as zero left out (R150, R151, R228). -/
def loadA (m : TMem) (c : MCallSnap) (r : MRun) (addr : Nat) : SMap (BitVec 32) :=
  let pb := planeBytes c.a.sparse
  (upTo (128 * c.pa)).foldl (fun w i =>
    let row := i % 128
    if rowZero m c r false row then w
    else smPut 0 i (BitVec.ofNat 32 (readB m.spad (addr + pb * (i / 128) + pb / 128 * row) (pb / 128))) w) []

/-- The same of a B panel: pb planes of the panel, or d planes of q in delta mode (R228, R252). Of a BPTR at no panel's first byte in delta mode
no rule says which panel's q is loaded, nor whether cause 12 applies where no byte of B is fetched: q is that of the panel it lies in, and
cause 12 is judged as in full mode. DESIGN CHOICE, log entry 103. -/
def loadB (t : Tile) (c : MCallSnap) (r : MRun) (addr : Nat) : SMap (BitVec 32) :=
  if r.mode = .delta then
    let d := (entOf t.eng (callEnt c)).d
    let kk := (addr - callB c) / c.b.pstride
    (upTo (128 * d)).foldl (fun w i =>
      let row := i % 128
      if rowZero t.mem c r true row then w
      else
        let word := (upTo 32).foldl (fun x k =>
          if (wrapN d (smGet 0 r.q (32 * callNK c * row + 32 * kk + k))).testBit (d - 1 - i / 128) then x + 2 ^ k else x) 0
        smPut 0 i (BitVec.ofNat 32 word) w) []
  else
    (upTo (128 * c.pb)).foldl (fun w i =>
      let row := i % 128
      if rowZero t.mem c r true row then w
      else smPut 0 i (BitVec.ofNat 32 (readB t.mem.spad (addr + 512 * (i / 128) + 4 * row) 4)) w) []

/-- Whether a load's operand or scale blocks are poisoned (R223, R290). -/
def loadPoisoned (m : TMem) (c : MCallSnap) (r : MRun) (ofB : Bool) (addr : Nat) : Bool :=
  let scale := if ofB then scaleAddr c.b (128 * callNb c) (callG c) else scaleAddr c.a (128 * callMb c) (callG c)
  let n := if ofB then (if r.mode = .delta then 0 else 512 * c.pb) else planeBytes c.a.sparse * c.pa
  (firstPoison m scale 128).isSome || (!allZero m c r ofB && n != 0 && (firstPoison m addr n).isSome)

/-- PANEL_LOAD_ARRIVAL: the oldest load on the matrix port arrives whole (R231). -/
def panelLoadArrival (s : State) : State :=
  match runCall s.tile.eng with
  | none => s
  | some (c, r) =>
    match r.loads with
    | [] => s
    | (ofB, b, addr, _) :: rest =>
      if loadPoisoned s.tile.mem c r ofB addr then jobFault 18 c r s
      else
        let w := if ofB then loadB s.tile c r addr else loadA s.tile.mem c r addr
        setRun (setBuf ofB b { bufOf r ofB b with words := w } { r with loads := rest }) s
def execPanelLoadArrival (s : State) : Host.Outcome State Fault Refusal := .next (panelLoadArrival s)

/-! ## Sequence of micro-ops (R228, R229) -/

/-- A counter at the end of a pass of its body: it goes on, or becomes inactive. -/
def countDown (k : Counter) : Option Counter := if 1 < k.left then some { k with left := k.left - 1 } else none

/-- Whether counter 1 is inside counter 0, of two that end together: the one whose body starts later (R229). -/
def inner1 (r : MRun) : Bool :=
  match r.l0, r.l1 with
  | some x, some y => decide (x.first < y.first)
  | none, _ => true
  | _, none => false

/-- The slot after the body's last slot `s` completes, the inner counter first (R229). -/
def slotDone (s : Nat) (r : MRun) : MRun :=
  let end0 := match r.l0 with | some k => k.last == s | none => false
  let end1 := match r.l1 with | some k => k.last == s | none => false
  let next := { r with upc := s + 1 }
  let do0 := fun (r : MRun) (other : MRun → MRun) =>
    match r.l0 with
    | some k => match countDown k with
      | some k' => { r with l0 := some k', upc := k.first }
      | none => other { r with l0 := none }
    | none => other r
  let do1 := fun (r : MRun) (other : MRun → MRun) =>
    match r.l1 with
    | some k => match countDown k with
      | some k' => { r with l1 := some k', upc := k.first }
      | none => other { r with l1 := none }
    | none => other r
  if end0 && end1 then
    if inner1 r then do1 next fun r => do0 r id else do0 next fun r => do1 r id
  else if end0 then do0 next id
  else if end1 then do1 next id
  else next

/-- A micro-op of the running routine; slots past 4,095 do not exist (cause 6). -/
def micro (f : MCallSnap → MRun → State → State) (s : State) : Host.Outcome State Fault Refusal :=
  .next (match runCall s.tile.eng with
    | none => s
    | some (c, r) => if 4095 < r.upc then jobFault 6 c r s else f c r s)

/-- A micro-op that changes the routine's state alone, and goes on. -/
def microStep (f : MCallSnap → MRun → MRun) : State → Host.Outcome State Fault Refusal :=
  micro fun c r s => setRun (slotDone r.upc (f c r)) s

/-- The micro-op at a slot that decodes to none: cause 6 (R223). -/
def microIllegal (s : State) : State :=
  match runCall s.tile.eng with
  | none => s
  | some (c, r) => jobFault 6 c r s

/-- INIT. A load that is still on the matrix port is dropped: no rule says that it arrives, nor that it raises cause 18. DESIGN CHOICE, log
entry 83. -/
def execUInit (s : State) : Host.Outcome State Fault Refusal :=
  microStep (fun c r => { r with aptr := callA c, bptr := callB c, kb := callKb0 c, sums := [], a0 := {}, a1 := {}, b0 := {}, b1 := {}
                                 loads := [] }) s

/-- LDA and LDB: the load goes on the matrix port; a byte outside the footprint range is cause 12 (R223, R228). -/
def microLoad (ofB : Bool) (b : BitVec 1) : State → Host.Outcome State Fault Refusal :=
  micro fun c r s =>
    let ptr := if ofB then r.bptr else r.aptr
    let range := if ofB then panelRange c.b (callB c) (callNK c) else panelRange c.a (callA c) (callNK c)
    let n := if ofB then 512 * c.pb else planeBytes c.a.sparse * c.pa
    let out := decide (ptr < range.base ∨ (range.base + range.len : Int) < ptr + n)
    if out && !allZero s.tile.mem c r ofB then jobFault 12 c r s
    else
      let st : BufState := if !ofB && c.a.sparse != 0 then .packed else .loaded
      setRun (slotDone r.upc (setBuf ofB b { bufOf r ofB b with st := st } { r with loads := r.loads ++ [(ofB, b, ptr.toNat, r.kb)] })) s

def execLda (b : BitVec 1) (s : State) := microLoad false b s
def execLdb (b : BitVec 1) (s : State) := microLoad true b s

/-! ## PAT (R232) -/

/-- `n` clocks of the generator: the bits out, first first. -/
def lfsrBits : Nat → BitVec 16 → List Bool
  | 0, _ => []
  | n + 1, st =>
    let out := st.getLsbD 0
    let nx := st >>> 1
    out :: lfsrBits n (if out then nx ^^^ 0xB400 else nx)

/-- The kept positions of a row's block, in order. -/
def keptPositions (seed : BitVec 16) (sparse m : Nat) (kb : Int) : List Nat :=
  let st0 := seed ^^^ BitVec.ofNat 16 ((m % 128) * 512) ^^^ BitVec.ofNat 16 (kb % 512).toNat
  let bits := lfsrBits 16 (if st0 = 0 then 0xFFFF else st0)
  let bit := fun i => if bits.getD i false then 1 else 0
  if sparse = 1 then (upTo 16).map fun i => 2 * i + bit i
  else (upTo 8).map fun i => 4 * i + 2 * bit (2 * i) + bit (2 * i + 1)

/-- A packed row expanded to its 32 positions. -/
def expandRow (w : BitVec 32) (pos : List Nat) : BitVec 32 :=
  BitVec.ofNat 32 (pos.zipIdx.foldl (fun v p => if w.getLsbD p.2 then v + 2 ^ p.1 else v) 0)

def expandBuf (c : MCallSnap) (kb : Int) (x : Buf) : Buf :=
  { x with st := .loaded, words := x.words.map fun w => (w.1, expandRow w.2 (keptPositions c.a.seed c.a.sparse (w.1 % 128) kb)) }

def execPat (b : BitVec 1) (s : State) : Host.Outcome State Fault Refusal :=
  micro (fun c r s =>
    if loadPending r false b then s
    else if (bufOf r false b).st ≠ .packed then jobFault 8 c r s
    else setRun (slotDone r.upc (setBuf false b (expandBuf c r.kb (bufOf r false b)) r)) s) s

/-! ## STEP and SHACC (R213, R228, R230) -/

/-- The values of keys `i` to `i + n − 1` of a sparse table, in order. -/
def smList (d : Int) : SMap Int → Nat → Nat → List Int
  | _, _, 0 => []
  | [], i, n + 1 => d :: smList d [] (i + 1) n
  | (k, v) :: t, i, n + 1 => if k = i then v :: smList d t (i + 1) n else d :: smList d ((k, v) :: t) (i + 1) n

/-- A sparse table from its values in order, zeros unlisted. -/
def smOfList : Nat → List Int → SMap Int
  | _, [] => []
  | i, v :: vs => if v = 0 then smOfList (i + 1) vs else (i, v) :: smOfList (i + 1) vs

/-- b(n, k) for k from 0 to 31: the planes read, in their signedness. -/
def bRow (x : Buf) (planes : Nat) (signed : Bool) (n : Nat) : List Int :=
  (upTo 32).map fun k => (upTo planes).foldl (fun v j =>
    let w : Int := 2 ^ (planes - 1 - j)
    if (smGet 0 x.words (128 * j + n)).getLsbD k then v + (if j = 0 && signed then -w else w) else v) 0

/-- Plane `j` of a row of A against a row of B. -/
def dotBits (w : BitVec 32) (b : List Int) : Int := b.zipIdx.foldl (fun v p => if w.getLsbD p.2 then v + p.1 else v) 0

/-- The step sums with plane `j` added. -/
def stepPlane (c : MCallSnap) (planes : Nat) (signed : Bool) (x y : Buf) (j : Nat) (sums : SMap Int) : SMap Int :=
  let w : Int := if j = 0 && !c.a.u then -(2 ^ (c.pa - 1)) else 2 ^ (c.pa - 1 - j)
  let rows := (upTo 128).map (bRow y planes signed)
  let add := (upTo 128).flatMap fun m => rows.map fun b => w * dotBits (smGet 0 x.words (128 * j + m)) b
  smOfList 0 (List.zipWith (· + ·) (smList 0 sums 0 16384) add)

/-- STEP over a list of planes: each is checked for cause 8 and cause 9 before it runs (R228, R230). -/
def stepPlanes (c : MCallSnap) (planes : Nat) (signed : Bool) (x y : Buf) : List Nat → MRun → Except Nat MRun
  | [], r => .ok r
  | j :: js, r =>
    if c.pa ≤ j then .error 8
    else if 256 < r.y + 32 then .error 9
    else stepPlanes c planes signed x y js { r with y := r.y + 32, sums := stepPlane c planes signed x y j r.sums }

def microStepOp (a b : BitVec 1) (js : MCallSnap → List Nat) : State → Host.Outcome State Fault Refusal :=
  micro fun c r s =>
    let x := bufOf r false a
    let y := bufOf r true b
    if loadPending r false a || loadPending r true b then s
    else if x.st ≠ .loaded ∨ y.st ≠ .loaded then jobFault 8 c r s
    else
      let delta := r.mode == .delta
      let planes := if delta then (entOf s.tile.eng (callEnt c)).d else c.pb
      match stepPlanes c planes (delta || !c.b.u) x y (js c) r with
      | .ok r => setRun (slotDone r.upc r) s
      | .error n => jobFault n c r s

def execStep (a b : BitVec 1) (p : BitVec 3) (s : State) := microStepOp a b (fun _ => [p.toNat]) s
def execStepAll (a b : BitVec 1) (s : State) := microStepOp a b (fun c => upTo c.pa) s

/-- sat_s to 40 bits (R157). -/
def sat40 (t : Int) : Int := max (-(2 ^ 39)) (min t (2 ^ 39 - 1))

/-- SHACC: the step sums, times 2^s in delta mode, added with saturation (R157, R228, R252). -/
def shaccMem (r : MRun) (shift : Nat) (m : TMem) : TMem × Bool :=
  let sums := smList 0 r.sums 0 16384
  let old := smList 0 (m.acc.map fun x => (x.1, x.2.toInt)) 0 16384
  let t := List.zipWith (fun a s => a + s * 2 ^ shift) old sums
  let clamped := t.any fun x => sat40 x != x
  ({ m with acc := (smOfList 0 (t.map sat40)).map (fun x => (x.1, BitVec.ofInt 40 x.2)), aovf := m.aovf || clamped }, clamped)

def execShacc (s : State) : Host.Outcome State Fault Refusal :=
  micro (fun c r s =>
    let shift := if r.mode = .delta then (entOf s.tile.eng (callEnt c)).s else 0
    let (m, clamped) := shaccMem r shift s.tile.mem
    setRun (slotDone r.upc { r with sums := [], ovf := r.ovf || clamped }) (onMem (fun _ => m) s)) s

/-! ## PADD, RPT, ZGT, YLD, END -/

def paddTo (t : PaddTgt) (n : Int) (r : MRun) : MRun :=
  match t with
  | .a => { r with aptr := r.aptr + n }
  | .b => { r with bptr := r.bptr + n }
  | .k => { r with kb := r.kb + n }

def execPadd (t : PaddTgt) (s : State) : Host.Outcome State Fault Refusal :=
  microStep (fun c r => paddTo t (match t with | .a => c.a.pstride | .b => c.b.pstride | .k => 1) r) s

def execPaddImm (t : PaddTgt) (i : BitVec 24) (s : State) : Host.Outcome State Fault Refusal :=
  microStep (fun _ r => paddTo t i.toInt r) s

/-- The count an RPT reads (R229). -/
def rptCount (c : MCallSnap) (src : BitVec 4) : Nat :=
  if h : src.toNat < 8 then field (c.mp[src.toNat]'h).toNat 15 0 else callNK c

/-- Whether RPT's body breaks the rules of nesting: cause 7 (R223). -/
def rptBad (r : MRun) (ctr : BitVec 1) (s len : Nat) : Bool :=
  let own := if ctr == 0 then r.l0 else r.l1
  let other := if ctr == 0 then r.l1 else r.l0
  decide (4095 < s + len) || own.isSome ||
    match other with
    | some k => decide (k.last < s + len)
    | none => false

def execRpt (ctr : BitVec 1) (src : BitVec 4) (len1 : BitVec 6) (s : State) : Host.Outcome State Fault Refusal :=
  micro (fun c r s =>
    let len := len1.toNat + 1
    if rptBad r ctr r.upc len then jobFault 7 c r s
    else
      let n := rptCount c src
      if n = 0 then setRun (slotDone (r.upc + len) r) s
      else
        let k : Counter := { left := n, first := r.upc + 1, last := r.upc + len }
        setRun { (if ctr == 0 then { r with l0 := some k } else { r with l1 := some k }) with upc := r.upc + 1 } s) s

/-- A counter whose body a jump to `t` leaves becomes inactive (R229). -/
def leaveBody (t : Nat) (k : Option Counter) : Option Counter := k.filter fun k => t ≤ k.last

def execZgt (t : BitVec 12) (s : State) : Host.Outcome State Fault Refusal :=
  micro (fun c r s =>
    if t.toNat ≤ r.upc then jobFault 6 c r s
    else if (firstPoison s.tile.mem (scaleAddr c.a (128 * callMb c) (callG c)) 128).isSome
        || (firstPoison s.tile.mem (scaleAddr c.b (128 * callNb c) (callG c)) 128).isSome then jobFault 18 c r s
    else if allZero s.tile.mem c r false || allZero s.tile.mem c r true then
      setRun { r with upc := t.toNat, l0 := leaveBody t.toNat r.l0, l1 := leaveBody t.toNat r.l1 } s
    else setRun (slotDone r.upc r) s) s

/-- YLD: Y is zero again (R230). -/
def execYld (s : State) : Host.Outcome State Fault Refusal :=
  micro (fun _ r s => if discarding s then stopJob s else setRun (slotDone r.upc { r with y := 0 }) s) s

/-- The completion of a call: the entry's write-back, the claim and footprint released, the sync word updated (R222, R253); of a gang that is to
be discarded, none of it (R230, R260). -/
def completeCall (c : MCallSnap) (r : MRun) (s : State) : State :=
  if discarding s then stopJob s else
  let s := if r.mode = .plain then s else onTile (writeBack c r) s
  let s := mqPop s
  if (c.mp[3]).getLsbD 31 then onMem (syncAdd (field (mpOf c 3) 20 0) (field (mpOf c 3) 63 32)) s else s

def execUopEnd (s : State) : Host.Outcome State Fault Refusal := micro completeCall s

end Sys2Proof.Machine
end

