-- ==== Sys2Proof/Machine/Jobs.lean ====
section
/-! DEFINITION. Mailboxes, outboxes, job control blocks, schedule tables, the performing of store-queue entries, and the
freeing of tiles: 15_tiles_time.md R385, R398 to R411; 13_memory.md R346, R349; 01_machine.md R16. -/

namespace Sys2Proof.Machine

/-! ## Records without a tile (R404, R456) -/

/-- The bind record of a job that is in a slot. -/
def slotOfJob (vd : BitVec 8) (stream gen : BitVec 16) (s : State) : Option Nat :=
  (s.binds.find? fun x => x.2.state != .empty && x.2.vd == vd && x.2.stream == stream && x.2.gen == gen).map (·.1)

/-- A fault record of no tile (R404, R456): code, engine and cause, with the bind's stream and generation; no job tag, and the records of the
halt before it, under way or saved, one of which may forbid a resume (R422). No rule states its FLTADDR, pc, x and y: free values (log entry
3). -/
def unitRecord (vd : BitVec 8) (stream gen : BitVec 16) (code : BitVec 8) (engine cause : Nat) (s : State) : State :=
  let a := Config.openAddr s.fresh
  let b := Config.openAddr (s.fresh + 1)
  let slot := (slotOfJob vd stream gen s).filter fun k => (getBind k s).halt || (getBind k s).state == .saved
  let (seq, ok) := match slot with
    | some k => ((getBind k s).seq, (getBind k s).resumable)
    | none => (0, true)
  let hdr := faultHeader s.mod.time a (b.extractLsb' 0 20).toNat ok engine stream gen (b.extractLsb' 24 8).toNat
    (b.extractLsb' 32 8).toNat code 0 cause (min seq 255)
  let s := queueRec vd 1 { slots := [hdr, detailOf 0 0 code] } { s with fresh := s.fresh + 2 }
  match slot with
  | some k => modBind k (fun b => { b with seq := b.seq + 1 }) s
  | none => s

/-! ## Job control blocks (R402 to R406) -/

/-- A job's JCB: its device and address, and what its records carry. -/
structure JcbRef where
  vd     : BitVec 8
  addr   : Nat
  stream : BitVec 16
  gen    : BitVec 16
  deriving DecidableEq, Repr

/-- The JCB's fields (R402). -/
structure Jcb where
  cookie : Word
  total  : Nat
  count  : Nat
  gen    : BitVec 16
  status : BitVec 8
  rsvd   : BitVec 40
  time   : Word
  deriving DecidableEq, Repr

def parseJcb (v : Nat) : Jcb :=
  { cookie := BitVec.ofNat 64 (field v 255 192), total := field v 191 160, count := field v 159 128
    gen := BitVec.ofNat 16 (field v 127 112), status := BitVec.ofNat 8 (field v 111 104), rsvd := BitVec.ofNat 40 (field v 103 64)
    time := BitVec.ofNat 64 (field v 63 0) }

def jcbWord (j : Jcb) : BitVec 256 :=
  j.cookie ++ (BitVec.ofNat 32 j.total ++ (BitVec.ofNat 32 j.count ++ (j.gen ++ (j.status ++ (j.rsvd ++ j.time)))))

/-- The completion record (R404). -/
def completionRec (r : JcbRef) (j : Jcb) : BitVec 256 :=
  j.time ++ (j.cookie ++ (r.stream ++ (r.gen ++ (BitVec.ofNat 32 j.count ++ ((0 : BitVec 48) ++ (j.status ++ (0x10 : BitVec 8)))))))

/-- The first job whose gang has not left arrives at the head of its stream (R17, R387). -/
def arriveHead (time : Word) : List Job → List Job
  | [] => []
  | j :: js => if j.left then j :: arriveHead time js
    else if j.arrived.isSome then j :: js
    else { j with arrived := some time, agedAt := time } :: js

/-- The stream forgets a job whose record is posted and whose gang has left (17 R449). -/
def pruneJobs (time : Word) (st : StreamSt) : StreamSt :=
  { st with jobs := arriveHead time (st.jobs.filter fun j => !(j.left && j.posted)) }

/-- A change to the job of a stream and generation. -/
def modJob (vd : BitVec 8) (stream gen : BitVec 16) (f : Job → Job) (s : State) : State :=
  modVd vd (fun v => { v with streams := v.streams.map fun st =>
    if st.num = stream then pruneJobs s.mod.time { st with jobs := st.jobs.map fun j => if j.gen = gen then f j else j } else st }) s

/-- The completion record is posted, and the job ends for its stream once its gang has left (R397, R404). -/
def postCompletion (r : JcbRef) (j : Jcb) (s : State) : State :=
  modJob r.vd r.stream r.gen (fun x => { x with posted := true }) (queueRec r.vd 0 { slots := [completionRec r j] } s)

/-- One completion received: count, and status, generation and time where count first reaches total (R404). -/
def jcbReceive (time : Word) (gen : BitVec 16) (j : Jcb) : Jcb :=
  let c := (j.count + 1) % 2 ^ 32
  if j.status.getLsbD 0 then { j with count := c, status := j.status ||| 2 }
  else if j.total ≠ 0 ∧ j.total ≤ c then { j with count := c, status := j.status ||| 1, gen := gen, time := time }
  else { j with count := c }

/-- A commit of `raise` and `n` completions (0 or 1) to a JCB; none where total would pass 2^32 − 1 (R404 to R406). -/
def jcbApply (time : Word) (gen : BitVec 16) (raise n : Nat) (j : Jcb) : Option Jcb :=
  if 2 ^ 32 ≤ j.total + raise then none
  else
    let j := { j with total := j.total + raise }
    some (if n = 0 then j else jcbReceive time gen j)

/-- How an update of a JCB ends. -/
inductive JcbOut where
  | done (s : State)
  /-- a commit beyond 2^32 − 1: the JCB is unchanged -/
  | over (s : State)
  /-- held for lack of a snapshot pool page (17 R467) -/
  | held (s : State)

/-- Whether a write to device memory at `va` waits for a snapshot pool page (17 R467). -/
def snapHeld (vd : BitVec 8) (va : Nat) (s : State) : Bool :=
  match sysXlate vd va true true s with
  | (some e, s) => e.res == 0 && (snapBefore vd va (farAddr e va) s).isNone
  | (none, _) => false

/-- The tile in focus waits for a snapshot pool page to write at `va` of its device: noted and counted once (R467). -/
def tileHeld (vd : BitVec 8) (va : Nat) (s : State) : State :=
  countHold vd s.tile.ctl.portHeld (granuleOf va) (onCtl (fun c => { c with portHeld := some (rehold c.portHeld (granuleOf va)) }) s)

/-- The sequencer's indivisible update of a JCB (R404): where it does not translate, the update is dropped and reported. -/
def jcbUpdate (r : JcbRef) (raise n : Nat) (s : State) : JcbOut :=
  if snapHeld r.vd r.addr s then .held s
  else
    let new := fun (old : List Byte) => jcbApply s.mod.time r.gen raise n (parseJcb (ofBytes old))
    match sysPart r.vd r.addr 32 true true true (fun old => (new old).map fun j => toBytes 32 (jcbWord j).toNat) s with
    | (none, s) => .done (unitRecord r.vd r.stream r.gen 0x08 7 38 s)
    | (some old, s) =>
      match new old with
      | none => .over s
      | some j =>
        if j.status.getLsbD 0 && !(parseJcb (ofBytes old)).status.getLsbD 0 then .done (postCompletion r j s) else .done s

/-- The JCB of a gang ended by the host, or of a refused bind: status bit 2, and the record unless it was posted before
(R404, R420, R456). -/
def jcbEnd (r : JcbRef) (report : Bool) (s : State) : JcbOut :=
  let new := fun (old : List Byte) =>
    let j := parseJcb (ofBytes old)
    { j with status := j.status ||| 4 }
  if snapHeld r.vd r.addr s then .held s
  else
    match sysPart r.vd r.addr 32 true true true (fun old => some (toBytes 32 (jcbWord (new old)).toNat)) s with
    | (some old, s) =>
      .done (if (parseJcb (ofBytes old)).status.getLsbD 0 then s else postCompletion r { new old with time := s.mod.time } s)
    | (none, s) => .done (if report then unitRecord r.vd r.stream r.gen 0x08 7 38 s else s)

/-- The JCB of a bind. -/
def jcbOf (b : Bind) : JcbRef := { vd := b.vd, addr := b.jcb, stream := b.stream, gen := b.gen }

/-! ## Commits of a tile (R405, R406) -/

/-- ENGINE causes 32 to 34, taken at the boundary after the bundle (R406). -/
def jcbFault (cause : Nat) (s : State) : State := raiseEngine 0x08 7 cause 0 (detailOf 0 0 0x08) s

/-- The commit of a NEXT: a pending raise of zero changes nothing (R405), and one that is held stays pending. -/
def commitPend (s : State) : State :=
  let raise := s.tile.place.pend.toNat
  if raise = 0 then s
  else
    match jcbUpdate (jcbOf (ownBind s)) raise 0 (onPlace (fun p => { p with pend := 0 }) s) with
    | .done s => s
    | .over s => jcbFault 33 s
    | .held _ => s

/-- JRAISE (R406). -/
def jraiseEff (v : Word) (s : State) : State :=
  let p := s.tile.place
  if p.posted && !p.thisRun then s
  else if p.posted then jcbFault 32 s
  else if 2 ^ 32 ≤ p.pend.toNat + v.toNat then jcbFault 33 s
  else onPlace (fun p => { p with pend := BitVec.ofNat 32 (p.pend.toNat + v.toNat) }) s

def jraiseOp (h : Hdr) (a : Src) : SlotOp where
  hdr := h
  slot := 0
  eff := fun i s =>
    let v := srcSa i.tile.regs a
    jraiseEff v (latchSa a v s)
def execJraise (h : Hdr) (a : Src) (s : State) := (jraiseOp h a).run s

/-- JDONE (R406). -/
def jdoneEff (s : State) : State :=
  let p := s.tile.place
  if p.posted && !p.thisRun then s
  else if p.posted then jcbFault 34 s
  else
    sqPush { kind := .jdone p.pend, va := 0, data := 0, width := .w8, order := .rel, scope := .system }
      (onPlace (fun p => { p with pend := 0, posted := true, thisRun := true }) s)

def jdoneOp (h : Hdr) : SlotOp where
  hdr := h
  slot := 0
  wait := fun i => sqFull i && !i.tile.place.posted
  eff := fun _ s => jdoneEff s
def execJdone (h : Hdr) (s : State) := (jdoneOp h).run s

/-! ## Mailboxes and outboxes (R398 to R401) -/

/-- The index of a MBX (R400). -/
def mbxIndex (r : Regs) (a : Src) (idx : BitVec 6) : BitVec 6 := idx + (srcSa r a).extractLsb' 0 6

def mbxOp (h : Hdr) (d : Reg) (a : Src) (idx : BitVec 6) : SlotOp where
  hdr := h
  slot := 0
  eff := fun i s =>
    let n := mbxIndex i.tile.regs a idx
    latchSa a (srcSa i.tile.regs a) s
      |> pushRes 0 2 0 (.g d (i.tile.place.mbx[n.toNat]'n.isLt))
      |> onPlace fun p => { p with mbxFresh := p.mbxFresh &&& ~~~(BitVec.twoPow 64 n.toNat) }
def execMbx (h : Hdr) (d : Reg) (a : Src) (idx : BitVec 6) (s : State) := (mbxOp h d a idx).run s

/-- The address of outbox word `idx` (R398). -/
def outboxAddr (b : Bind) (idx : BitVec 4) : Word := BitVec.ofNat 64 (b.mbox + 512 + 8 * idx.toNat)

def mbxwOp (h : Hdr) (a : Src) (idx : BitVec 4) : SlotOp where
  hdr := h
  slot := 0
  wait := sqFull
  eff := fun i s =>
    let v := srcSa i.tile.regs a
    sqPush { kind := .mbxw idx, va := outboxAddr (ownBind i) idx, data := v, width := .w8, order := .rel, scope := .system }
      (latchSa a v s)
def execMbxw (h : Hdr) (a : Src) (idx : BitVec 4) (s : State) := (mbxwOp h a idx).run s

/-- The outbox notification (R401). -/
def outboxRec (time : Word) (b : Bind) (p : Place) (v : Word) (idx : BitVec 4) : BitVec 256 :=
  time ++ (v ++ (b.stream ++ (b.gen ++ (BitVec.ofNat 8 p.x ++ (BitVec.ofNat 8 p.y ++ ((0 : BitVec 12) ++ (idx ++
    ((0 : BitVec 56) ++ (0x11 : BitVec 8)))))))))

/-! ## Schedule tables (R407 to R411) -/

/-- The item NEXT delivers (R408). -/
def itemAddr (p : Place) : Nat := p.st + 16 + 4 * p.schedPos.toNat

def itemLeft (p : Place) : Bool := decide (p.schedPos.toNat < p.schedN.toNat)

/-- Whether the commit of a NEXT waits for a snapshot pool page (R405, R467). -/
def commitHeld (s : State) : Bool := s.tile.place.pend != 0 && snapHeld (ownBind s).vd (ownBind s).jcb s

def nextOp (h : Hdr) (d : Reg) (pe : BitVec 5) : SlotOp where
  hdr := h
  slot := 0
  wait := commitHeld
  again := commitHeld
  reach := fun s => if commitHeld s then tileHeld (ownBind s).vd (ownBind s).jcb s else s
  access := fun i => if itemLeft i.tile.place then [acc (itemAddr i.tile.place) 4 false] else []
  fault6 := fun i => if itemLeft i.tile.place then poisonFault i.tile (itemAddr i.tile.place) 4 else none
  eff := fun i s =>
    let s := commitPend s
    let q := physP i.tile.regs pe
    if itemLeft i.tile.place then
      s |> pushRes 0 2 0 (.gp d (BitVec.ofNat 64 (readB i.tile.mem.spad (itemAddr i.tile.place) 4)) q false)
        |> onPlace fun p => { p with schedPos := p.schedPos + 1, schedProg := true }
    else
      s |> pushRes 0 2 0 (.gp d 0 q true) |> onPlace fun p => { p with schedProg := false }
def execNext (h : Hdr) (d : Reg) (pe : BitVec 5) (s : State) := (nextOp h d pe).run s

/-! ## Leaving (R16, R17, R340, R385) -/

/-- A line no longer pinned by a bind. -/
def unpinLine (slot : Nat) (l : Line) : Line :=
  if l.owner = some slot then { l with count := 0, disc := false, owner := none } else l

/-- Pins of a bind are released, with count 0 (R340). -/
def releasePins (slot : Nat) (s : State) : State :=
  onMemSys (fun m => { m with lines := m.lines.map (unpinLine slot) }) s

/-- A tile given up by its bind: its overlay frames stay (R16). -/
def dropTile (t : Tile) : Tile :=
  { t with place := { t.place with slot := none }, ctl := { t.ctl with run := .free, haltReq := false, portHeld := none } }

/-- The clusters of a bind become free (R385). -/
def freeClusters (slot : Nat) (s : State) : State :=
  overTiles ((gangTiles (getBind slot s)).filter fun p => (getTile p s).place.slot = some slot) dropTile s

/-- The gang leaves: pins released, clusters free, slot empty, the next job of the stream may be bound (R16, R17, R388). -/
def gangLeave (slot : Nat) (s : State) : State :=
  let b := getBind slot s
  s |> releasePins slot
    |> freeClusters slot
    |> modJob b.vd b.stream b.gen (fun j => { j with left := true, slot := none })
    |> modBind slot fun _ => {}

/-- A gang whose tiles are all free leaves. -/
def leaveIfFree (s : State) : State :=
  match s.tile.place.slot with
  | none => s
  | some b =>
    if (getBind b s).state = .leaving ∧ (gangTiles (getBind b s)).all (fun p => (getTile p s).ctl.run == .free) then gangLeave b s
    else s

/-- Whether an ended tile's queues are all empty (R16). -/
def queuesEmpty (e : Eng) : Bool :=
  e.mq.isEmpty && e.cq.toList.all List.isEmpty && e.bq.isEmpty && e.sq.isEmpty

/-- Marks a tile freed. -/
def markFree (s : State) : State := onCtl (fun c => { c with run := .free }) s

/-- The drained cluster of the tile in focus frees with its last tile, while its gang halts for a save (R424). -/
def freeDrained (s : State) : State :=
  match s.tile.place.slot with
  | none => s
  | some k =>
    let b := getBind k s
    let ps := clusterTiles (clusterOf s.cur)
    if b.state = .halting ∧ b.decided ∧ b.discard = false ∧ b.ended.contains (regionIndex b s.tile)
        ∧ ps.all fun p => (getTile p s).ctl.run == .free then
      let kept := ps.foldl (fun m p => smSet (regionIndex b (getTile p s)) (getTile p s) m) b.gone
      overTiles ps dropTile (modBind k (fun b => { b with gone := kept }) s)
    else s

/-- The tile in focus, drained, is freed: its gang or its cluster may leave with it (R16, R385, R424). -/
def freeTile (s : State) : State := freeDrained (leaveIfFree (leaveIfEnded (markFree s)))

/-- TILE_FREE (R16, R406): the tile in focus, ended and drained, makes its implicit completion if it has not posted, and is
freed. A commit beyond 2^32 − 1 halts the gang first. -/
def tileFree (s : State) : State :=
  if s.tile.ctl.run = .ended ∧ queuesEmpty s.tile.eng then
    if s.tile.place.posted then freeTile s
    else
      match jcbUpdate (jcbOf (ownBind s)) s.tile.place.pend.toNat 1
          (onPlace (fun p => { p with pend := 0, posted := true, thisRun := true }) s) with
      | .done s => freeTile s
      | .over s => jcbFault 33 s
      | .held _ => tileHeld (ownBind s).vd (ownBind s).jcb s
  else s
def execTileFree (s : State) : Host.Outcome State Fault Refusal := .next (tileFree s)

/-! ## Performing store-queue entries (R346, R347, R349, R401, R406) -/

def sqSource (k : SqKind) : Nat :=
  match k with
  | .red _ => 4
  | _ => 1

/-- Entry `n` is held by `h`: noted, and counted once where it waits for a pool page (R379, R467). -/
def holdEntry (n : Nat) (h : Hold) (s : State) : State :=
  countHold s.tile.place.vd (s.tile.eng.sq[n]?.bind (·.wb)) h (sqMark n (fun e => { e with wb := some (rehold e.wb h) }) s)

/-- Entry `n` ends: a JDONE posts its completion, an MBXW its notification, another is done (R401, R406). -/
def performJdone (n : Nat) (raise : BitVec 32) (s : State) : State :=
  match jcbUpdate (jcbOf (ownBind s)) raise.toNat 1 s with
  | .done s => sqRemove n s
  | .over s => jcbFault 33 (sqRemove n s)
  | .held s => holdEntry n (granuleOf (ownBind s).jcb) s

def performed (n : Nat) (e : SqEntry) (s : State) : State :=
  match e.kind with
  | .mbxw idx =>
    let p := s.tile.place
    queueRec p.vd 0 { slots := [outboxRec s.mod.time (ownBind s) p e.data idx], tile := some s.cur }
      (sqMark n (fun e => { e with done := true }) s)
  | _ => sqRemove n s

/-- Whether a write of the tile in focus to `va` goes to the host or a peer, which completes or acknowledges it (R359). -/
def goesFar (va : Word) (s : State) : Bool := (lookNow s va).any (·.res == 1)

/-- Whether entry `e`, whose write is made, is kept until the host or a peer completes or acknowledges it (R359); an MBXW's notification carries
the TIME of its write and follows at once (R401). DEDUCED, log entry 108. -/
def awaitsFar (e : SqEntry) (s : State) : Bool :=
  match e.kind with
  | .mbxw _ => false
  | _ => goesFar e.va s

/-- STORE_QUEUE_PERFORM: entry `n` of the tile in focus, once order and write-block allow (R346, R353, R354, R379). A store to the host or a
peer is made in one step, and is complete or acknowledged there with another (R359). -/
def storeQueuePerform (n : Nat) (s : State) : State :=
  match s.tile.eng.sq[n]? with
  | none => s
  | some e =>
    if sqReady s n then
      match e.kind with
      | .jdone raise => postTrap (performJdone n raise s)
      | _ =>
        if e.sent then postTrap (performed n e s)
        else
        match performEntry e s with
        | .done _ s => if awaitsFar e s then sqMark n (fun e => { e with sent := true }) s else postTrap (performed n e s)
        | .fail x s => postTrap (raiseDeferred (xTFault x e.va (sqSource e.kind)) (sqRemove n s))
        | .wait s => s
        | .block h s => holdEntry n h s
    else s
def execStoreQueuePerform (n : Nat) (s : State) : Host.Outcome State Fault Refusal := .next (storeQueuePerform n s)

end Sys2Proof.Machine
end

