-- ==== Sys2Proof/Machine/Sync.lean ====
section
/-! DEFINITION. The sync word instructions: 07_scratchpad.md R200 to R203, R210 to R212. -/

namespace Sys2Proof.Machine

/-- Alignment and SPAD checks of a sync word address (R210). -/
def syncFault (t : Tile) (a : Word) : Option TFault := spadFault t a 16 16 0

def swinitOp (h : Hdr) (card aux : Reg) : SlotOp where
  hdr := h
  slot := 3
  fault5 := fun i =>
    match syncFault i.tile (readG i.tile.regs card) with
    | some f => some f
    | none => if 2 ^ 36 ≤ (readG i.tile.regs aux).toNat then some (illegal i) else none
  access := fun i => [acc (readG i.tile.regs card).toNat 16 true]
  eff := fun i s => onMem (spadStore (readG i.tile.regs card).toNat 16 ((readG i.tile.regs aux).toNat * 2 ^ 64)) s
def execSwinit (h : Hdr) (card aux : Reg) (s : State) := (swinitOp h card aux).run s

def swaddOp (h : Hdr) (card aux : Reg) : SlotOp where
  hdr := h
  slot := 3
  fault5 := fun i => syncFault i.tile (readG i.tile.regs card)
  access := fun i => [acc (readG i.tile.regs card).toNat 16 true]
  eff := fun i s => onMem (syncAdd (readG i.tile.regs card).toNat (readG i.tile.regs aux).toNat) s
def execSwadd (h : Hdr) (card aux : Reg) (s : State) := (swaddOp h card aux).run s

/-- What SWRD returns (R211). -/
def swrdValue (w : BitVec 128) : Word :=
  (0 : BitVec 11) ++ (w.extractLsb' 116 1 ++ (w.extractLsb' 100 16 ++ w.extractLsb' 0 36))

def swrdOp (h : Hdr) (card aux : Reg) : SlotOp where
  hdr := h
  slot := 3
  fault5 := fun i => syncFault i.tile (readG i.tile.regs aux)
  access := fun i => [acc (readG i.tile.regs aux).toNat 16 false]
  fault6 := fun i => poisonFault i.tile (readG i.tile.regs aux).toNat 16
  eff := fun i s => pushRes 3 2 0 (.g card (swrdValue (syncAt i.tile.mem (readG i.tile.regs aux).toNat))) s
def execSwrd (h : Hdr) (card aux : Reg) (s : State) := (swrdOp h card aux).run s

/-- Whether a generation has passed the expected value (R212). -/
def genPassed (gen : BitVec 16) (b : Word) : Bool :=
  let d := (gen - b.extractLsb' 0 16).toNat
  decide (1 ≤ d ∧ d ≤ 32767)

def waitsOp (h : Hdr) (a b : Src) : SlotOp where
  hdr := h
  slot := 0
  point := true
  fault5 := fun i => syncFault i.tile (srcSa i.tile.regs a)
  wait := fun i =>
    !genPassed ((syncAt i.tile.mem (srcSa i.tile.regs a).toNat).extractLsb' 100 16) (srcSb i.tile.regs b)
  eff := fun i s => latchSb b (srcSb i.tile.regs b) (latchSa a (srcSa i.tile.regs a) s)
def execWaits (h : Hdr) (a b : Src) (s : State) := (waitsOp h a b).run s

end Sys2Proof.Machine
end

