-- ==== Sys2Proof/Machine/VectorInt.lean ====
section
/-! DEFINITION. The vector slot on integers, moves, permutations, reductions and bit planes: 06_vector.md R162 to R179,
R184. The float members of VRED and VSCAN are here too, since they share the trees of R179. -/

namespace Sys2Proof.Machine

/-! ## Lane-wise writes (R163 to R165) -/

/-- A vector write: the bits written, their values and the flags of its active lanes. -/
structure VOut where
  mask  : VWord
  val   : VWord
  flags : FFlags := 0

/-- `n` elements of width `w` computed under a mask; merge or zero (R164); lanes from `n` on written zero when `tail`. -/
def lanesOut (w n : Nat) (k : Mask) (z tail : Bool) (f : Nat → Flagged Nat) : VOut :=
  let rs := (upTo n).map fun i => if k.getLsbD i then some (f i) else none
  let val := rs.foldr (fun r x => (match r with | some v => v.1 % 2 ^ w | none => 0) + 2 ^ w * x) 0
  let act := rs.foldr (fun r x => (match r with | some _ => 2 ^ w - 1 | none => 0) + 2 ^ w * x) 0
  let m := BitVec.ofNat 2048 (if z then 2 ^ (w * n) - 1 else act)
  { mask := if tail then m ||| tailMask w n else m
    val := BitVec.ofNat 2048 val
    flags := rs.foldl (fun fl r => match r with | some v => fl ||| v.2 | none => fl) 0 }

/-- A vector register result at a class, to the physical register of `d` at issue. -/
def pushV (i : State) (cls : Nat) (d : Reg) (o : VOut) (s : State) : State :=
  pushRes 1 cls o.flags (.v (physV i.tile.regs d) o.mask o.val) s

/-- One vector source. -/
def vOp1 (h : Hdr) (cls : Nat) (d : Reg) (a : Src) (f : Regs → VWord → VOut) : SlotOp where
  hdr := h
  slot := 1
  eff := fun i s =>
    let x := srcVa i.tile.regs a
    pushV i cls d (f i.tile.regs x) (latchVa a x s)

/-- Two vector sources. -/
def vOp2 (h : Hdr) (cls : Nat) (d : Reg) (a b : Src) (f : Regs → VWord → VWord → VOut) : SlotOp where
  hdr := h
  slot := 1
  eff := fun i s =>
    let x := srcVa i.tile.regs a
    let y := srcVb i.tile.regs b
    pushV i cls d (f i.tile.regs x y) (latchVb b y (latchVa a x s))

/-- Three vector sources. -/
def vOp3 (h : Hdr) (cls : Nat) (d : Reg) (a b c : Src) (f : Regs → VWord → VWord → VWord → VOut) : SlotOp where
  hdr := h
  slot := 1
  eff := fun i s =>
    let x := srcVa i.tile.regs a
    let y := srcVb i.tile.regs b
    let z := srcVc i.tile.regs c
    pushV i cls d (f i.tile.regs x y z) (latchVc c z (latchVb b y (latchVa a x s)))

/-- A lane-wise function of two fields of one type. -/
def lanes2 (ty : ElemTy) (m : VMask) (r : Regs) (f : Nat → Nat → Flagged Nat) (x y : VWord) : VOut :=
  lanesOut ty.bits (lanesOf ty.bits) (readK r m.k) m.z false
    fun i => f (laneN x.toNat i ty.bits) (laneN y.toNat i ty.bits)

def lanes1 (ty : ElemTy) (m : VMask) (r : Regs) (f : Nat → Flagged Nat) (x : VWord) : VOut :=
  lanesOut ty.bits (lanesOf ty.bits) (readK r m.k) m.z false fun i => f (laneN x.toNat i ty.bits)

/-- A lane-wise integer instruction of two sources (R170). -/
def viOp2 (h : Hdr) (ty : ElemTy) (sat : Bool) (m : VMask) (d : Reg) (a b : Src) (f : Int → Int → Int) : SlotOp :=
  vOp2 h 3 d a b fun r => lanes2 ty m r fun x y => (narrow ty sat (f (elemVal ty x) (elemVal ty y)), 0)

/-- A lane-wise bitwise instruction (R170). -/
def vbOp2 (h : Hdr) (ty : ElemTy) (m : VMask) (d : Reg) (a b : Src) (f : Nat → Nat → Nat) : SlotOp :=
  vOp2 h 3 d a b fun r => lanes2 ty m r fun x y => (f x y, 0)

/-! ## Integer lane operations (R170, R171) -/

def vaddOp (h : Hdr) (ty : ElemTy) (sat : Bool) (m : VMask) (d : Reg) (a b : Src) : SlotOp :=
  viOp2 h ty sat m d a b fun x y => x + y
def execVadd (h : Hdr) (ty : ElemTy) (sat : Bool) (m : VMask) (d : Reg) (a b : Src) (s : State) := (vaddOp h ty sat m d a b).run s

def vsubOp (h : Hdr) (ty : ElemTy) (sat : Bool) (m : VMask) (d : Reg) (a b : Src) : SlotOp :=
  viOp2 h ty sat m d a b fun x y => x - y
def execVsub (h : Hdr) (ty : ElemTy) (sat : Bool) (m : VMask) (d : Reg) (a b : Src) (s : State) := (vsubOp h ty sat m d a b).run s

def vmulOp (h : Hdr) (ty : ElemTy) (sat : Bool) (m : VMask) (d : Reg) (a b : Src) : SlotOp :=
  viOp2 h ty sat m d a b fun x y => x * y
def execVmul (h : Hdr) (ty : ElemTy) (sat : Bool) (m : VMask) (d : Reg) (a b : Src) (s : State) := (vmulOp h ty sat m d a b).run s

def vmulhOp (h : Hdr) (ty : ElemTy) (m : VMask) (d : Reg) (a b : Src) : SlotOp :=
  viOp2 h ty false m d a b fun x y => Int.fdiv (x * y) (2 ^ ty.bits)
def execVmulh (h : Hdr) (ty : ElemTy) (m : VMask) (d : Reg) (a b : Src) (s : State) := (vmulhOp h ty m d a b).run s

def vminOp (h : Hdr) (ty : ElemTy) (m : VMask) (d : Reg) (a b : Src) : SlotOp := viOp2 h ty false m d a b min
def execVmin (h : Hdr) (ty : ElemTy) (m : VMask) (d : Reg) (a b : Src) (s : State) := (vminOp h ty m d a b).run s

def vmaxOp (h : Hdr) (ty : ElemTy) (m : VMask) (d : Reg) (a b : Src) : SlotOp := viOp2 h ty false m d a b max
def execVmax (h : Hdr) (ty : ElemTy) (m : VMask) (d : Reg) (a b : Src) (s : State) := (vmaxOp h ty m d a b).run s

def vandOp (h : Hdr) (ty : ElemTy) (m : VMask) (d : Reg) (a b : Src) : SlotOp := vbOp2 h ty m d a b (· &&& ·)
def execVand (h : Hdr) (ty : ElemTy) (m : VMask) (d : Reg) (a b : Src) (s : State) := (vandOp h ty m d a b).run s

def vorOp (h : Hdr) (ty : ElemTy) (m : VMask) (d : Reg) (a b : Src) : SlotOp := vbOp2 h ty m d a b (· ||| ·)
def execVor (h : Hdr) (ty : ElemTy) (m : VMask) (d : Reg) (a b : Src) (s : State) := (vorOp h ty m d a b).run s

def vxorOp (h : Hdr) (ty : ElemTy) (m : VMask) (d : Reg) (a b : Src) : SlotOp := vbOp2 h ty m d a b (· ^^^ ·)
def execVxor (h : Hdr) (ty : ElemTy) (m : VMask) (d : Reg) (a b : Src) (s : State) := (vxorOp h ty m d a b).run s

/-- A count of w or more acts as w: every bit is shifted out, and the saturating limit is the same (R171). -/
def vshlOp (h : Hdr) (ty : ElemTy) (sat : Bool) (m : VMask) (d : Reg) (a b : Src) : SlotOp :=
  vOp2 h 3 d a b fun r => lanes2 ty m r fun x n => (narrow ty sat (elemVal ty x * 2 ^ min n ty.bits), 0)
def execVshl (h : Hdr) (ty : ElemTy) (sat : Bool) (m : VMask) (d : Reg) (a b : Src) (s : State) := (vshlOp h ty sat m d a b).run s

def vshrOp (h : Hdr) (ty : ElemTy) (m : VMask) (d : Reg) (a b : Src) : SlotOp :=
  vOp2 h 3 d a b fun r => lanes2 ty m r fun x n => (wrapN ty.bits (Int.fdiv (elemVal ty x) (2 ^ min n ty.bits)), 0)
def execVshr (h : Hdr) (ty : ElemTy) (m : VMask) (d : Reg) (a b : Src) (s : State) := (vshrOp h ty m d a b).run s

def vabsOp (h : Hdr) (ty : ElemTy) (sat : Bool) (m : VMask) (d : Reg) (a : Src) : SlotOp :=
  vOp1 h 3 d a fun r => lanes1 ty m r fun x => (narrow ty sat (elemVal ty x).natAbs, 0)
def execVabs (h : Hdr) (ty : ElemTy) (sat : Bool) (m : VMask) (d : Reg) (a : Src) (s : State) := (vabsOp h ty sat m d a).run s

def vmaddOp (h : Hdr) (ty : ElemTy) (sat : Bool) (m : VMask) (d : Reg) (a b c : Src) : SlotOp :=
  vOp3 h 3 d a b c fun r x y z =>
    lanesOut ty.bits (lanesOf ty.bits) (readK r m.k) m.z false fun i =>
      (narrow ty sat (elemVal ty (laneN x.toNat i ty.bits) * elemVal ty (laneN y.toNat i ty.bits)
        + elemVal ty (laneN z.toNat i ty.bits)), 0)
def execVmadd (h : Hdr) (ty : ElemTy) (sat : Bool) (m : VMask) (d : Reg) (a b c : Src) (s : State) :=
  (vmaddOp h ty sat m d a b c).run s

def vpopcOp (h : Hdr) (ty : ElemTy) (m : VMask) (d : Reg) (a : Src) : SlotOp :=
  vOp1 h 3 d a fun r => lanes1 ty m r fun x => (popNat ty.bits x, 0)
def execVpopc (h : Hdr) (ty : ElemTy) (m : VMask) (d : Reg) (a : Src) (s : State) := (vpopcOp h ty m d a).run s

def vclzOp (h : Hdr) (ty : ElemTy) (m : VMask) (d : Reg) (a : Src) : SlotOp :=
  vOp1 h 3 d a fun r => lanes1 ty m r fun x => (clzNat ty.bits x, 0)
def execVclz (h : Hdr) (ty : ElemTy) (m : VMask) (d : Reg) (a : Src) (s : State) := (vclzOp h ty m d a).run s

/-! ## Compares and masks (R172, R174) -/

def vcondHolds (c : VCond) (x y : Int) : Bool :=
  match c with
  | .eq => x == y
  | .ne => x != y
  | .lt => decide (x < y)
  | .le => decide (x ≤ y)
  | .gt => decide (y < x)
  | .ge => decide (y ≤ x)

/-- A lane mask with the bits of `n` lanes given by `f`. -/
def maskBits (n : Nat) (f : Nat → Bool) : Mask :=
  BitVec.ofNat 256 ((upTo n).foldr (fun i x => (if f i then 1 else 0) + 2 * x) 0)

/-- The bits of a lane mask that a compare of `n` lanes writes: active lanes, and every bit from `n` on (R172). -/
def cmpMask (n : Nat) (k : Mask) : Mask := (k &&& maskBits n fun _ => true) ||| (BitVec.allOnes 256 <<< n)

def vcmpOp (h : Hdr) (c : VCond) (ty : ElemTy) (k kd : BitVec 3) (a b : Src) : SlotOp where
  hdr := h
  slot := 1
  eff := fun i s =>
    let r := i.tile.regs
    let x := srcVa r a
    let y := srcVb r b
    let n := lanesOf ty.bits
    let res := maskBits n fun j => vcondHolds c (elemVal ty (laneN x.toNat j ty.bits)) (elemVal ty (laneN y.toNat j ty.bits))
    pushRes 1 6 0 (.k kd (cmpMask n (readK r k)) res) (latchVb b y (latchVa a x s))
def execVcmp (h : Hdr) (c : VCond) (ty : ElemTy) (k kd : BitVec 3) (a b : Src) (s : State) := (vcmpOp h c ty k kd a b).run s

def kopValue (o : KopOp) (x y : Mask) : Mask :=
  match o with
  | .and => x &&& y
  | .or => x ||| y
  | .xor => x ^^^ y
  | .andn => x &&& ~~~y
  | .not => ~~~x

def kopOp (h : Hdr) (o : KopOp) (kd ka kb : BitVec 3) : SlotOp where
  hdr := h
  slot := 1
  eff := fun i s =>
    pushRes 1 6 0 (.k kd (BitVec.allOnes 256) (kopValue o (readK i.tile.regs ka) (readK i.tile.regs kb))) s
def execKop (h : Hdr) (o : KopOp) (kd ka kb : BitVec 3) (s : State) := (kopOp h o kd ka kb).run s

/-! ## Moves, inserts and permutations (R175 to R178) -/

def vselOp (h : Hdr) (ty : ElemTy) (k : BitVec 3) (d : Reg) (a b : Src) : SlotOp :=
  vOp2 h 3 d a b fun r x y =>
    lanesOut ty.bits (lanesOf ty.bits) (BitVec.allOnes 256) false false fun i =>
      (laneN (if (readK r k).getLsbD i then x else y).toNat i ty.bits, 0)
def execVsel (h : Hdr) (ty : ElemTy) (k : BitVec 3) (d : Reg) (a b : Src) (s : State) := (vselOp h ty k d a b).run s

def vmovOp (h : Hdr) (ty : ElemTy) (m : VMask) (d : Reg) (a : Src) : SlotOp :=
  vOp1 h 3 d a fun r => lanes1 ty m r fun x => (x, 0)
def execVmov (h : Hdr) (ty : ElemTy) (m : VMask) (d : Reg) (a : Src) (s : State) := (vmovOp h ty m d a).run s

def vbcastOp (h : Hdr) (ty : ElemTy) (m : VMask) (d : Reg) (a : Src) : SlotOp where
  hdr := h
  slot := 1
  eff := fun i s =>
    let x := srcVaG i.tile.regs a
    pushV i 3 d (lanesOut ty.bits (lanesOf ty.bits) (readK i.tile.regs m.k) m.z false fun _ => (x.toNat, 0))
      (latchVa a (x.setWidth 2048) s)
def execVbcast (h : Hdr) (ty : ElemTy) (m : VMask) (d : Reg) (a : Src) (s : State) := (vbcastOp h ty m d a).run s

def vextOp (h : Hdr) (ty : ElemTy) (d : Reg) (a b : Src) : SlotOp where
  hdr := h
  slot := 1
  eff := fun i s =>
    let x := srcVa i.tile.regs a
    let j := srcVbG i.tile.regs b
    pushRes 1 3 0 (.g d (BitVec.ofInt 64 (elemVal ty (laneN x.toNat (j.toNat % lanesOf ty.bits) ty.bits))))
      (latchVb b (j.setWidth 2048) (latchVa a x s))
def execVext (h : Hdr) (ty : ElemTy) (d : Reg) (a b : Src) (s : State) := (vextOp h ty d a b).run s

def vinsOp (h : Hdr) (ty : ElemTy) (d : Reg) (a b : Src) : SlotOp where
  hdr := h
  slot := 1
  eff := fun i s =>
    let x := srcVaG i.tile.regs a
    let j := srcVbG i.tile.regs b
    let n := j.toNat % lanesOf ty.bits
    pushV i 3 d { mask := BitVec.ofNat 2048 ((2 ^ ty.bits - 1) * 2 ^ (n * ty.bits))
                  val := BitVec.ofNat 2048 (x.toNat % 2 ^ ty.bits * 2 ^ (n * ty.bits)) }
      (latchVb b (j.setWidth 2048) (latchVa a (x.setWidth 2048) s))
def execVins (h : Hdr) (ty : ElemTy) (d : Reg) (a b : Src) (s : State) := (vinsOp h ty d a b).run s

/-- VPERM of one or two sources (R177). -/
def permOut (ty : ElemTy) (two : Bool) (k : Mask) (z : Bool) (x y c : VWord) : VOut :=
  let w := ty.bits
  let n := lanesOf w
  lanesOut w n k z false fun i =>
    let j := laneN y.toNat i w
    if two then
      let q := j % (2 * n)
      (if q < n then laneN x.toNat q w else laneN c.toNat (q - n) w, 0)
    else (laneN x.toNat (j % n) w, 0)

def vpermOp (h : Hdr) (ty : ElemTy) (two : Bool) (m : VMask) (d : Reg) (a b c : Src) : SlotOp :=
  if two then vOp3 h 3 d a b c fun r x y z => permOut ty true (readK r m.k) m.z x y z
  else vOp2 h 3 d a b fun r x y => permOut ty false (readK r m.k) m.z x y 0
def execVperm (h : Hdr) (ty : ElemTy) (two : Bool) (m : VMask) (d : Reg) (a b c : Src) (s : State) :=
  (vpermOp h ty two m d a b c).run s

/-- A field of `w` bits as an integer in the signedness of `ty`. -/
def elemAt (ty : ElemTy) (w v : Nat) : Int := if ty.isSignedInt then sextN w v else (v % 2 ^ w : Nat)

def vpackOp (h : Hdr) (ty : ElemTy) (sat : Bool) (m : VMask) (d : Reg) (a b : Src) : SlotOp :=
  vOp2 h 3 d a b fun r x y =>
    let w := ty.bits
    let half := lanesOf w / 2
    lanesOut w (lanesOf w) (readK r m.k) m.z false fun i =>
      let v := if i < half then laneN x.toNat i (2 * w) else laneN y.toNat (i - half) (2 * w)
      (narrow ty sat (elemAt ty (2 * w) v), 0)
def execVpack (h : Hdr) (ty : ElemTy) (sat : Bool) (m : VMask) (d : Reg) (a b : Src) (s : State) :=
  (vpackOp h ty sat m d a b).run s

def vunpkOp (h : Hdr) (ty : ElemTy) (hi : Bool) (m : VMask) (d : Reg) (a : Src) : SlotOp :=
  vOp1 h 3 d a fun r x =>
    let w := ty.bits
    let n := lanesOf w
    lanesOut w n (readK r m.k) m.z false fun i =>
      (wrapN w (elemAt ty (w / 2) (laneN x.toNat (if hi then i + n else i) (w / 2))), 0)
def execVunpk (h : Hdr) (ty : ElemTy) (hi : Bool) (m : VMask) (d : Reg) (a : Src) (s : State) :=
  (vunpkOp h ty hi m d a).run s

/-! ## Reductions and scans (R179) -/

/-- comb on two present lanes. -/
def combine (op : RedOp) (ty : ElemTy) (ftz : Bool) (rnd : Rnd) (x y : Nat) : Flagged Nat :=
  if ty.isFloat then
    let f := fmtOf ty
    let u := decodeF f ftz x
    let v := decodeF f ftz y
    match op with
    | .add => fAdd f ftz rnd u v
    | .min => fMinMax f true u v
    | .max => fMinMax f false u v
  else
    match op with
    | .add => ((x + y) % 2 ^ ty.bits, 0)
    | .min => (wrapN ty.bits (min (elemVal ty x) (elemVal ty y)), 0)
    | .max => (wrapN ty.bits (max (elemVal ty x) (elemVal ty y)), 0)

/-- comb with ABSENT as none, which raises nothing and rounds nothing (R179). -/
def combOpt (op : RedOp) (ty : ElemTy) (ftz : Bool) (rnd : Rnd) (x y : Option Nat) : Option Nat × FFlags :=
  match x, y with
  | none, y => (y, 0)
  | x, none => (x, 0)
  | some a, some b => let r := combine op ty ftz rnd a b; (some r.1, r.2)

/-- A lane as it is written: of a float type the operand as read, so a lane that met only ABSENT is a zero where it is subnormal under ftz
and the canonical NaN where it is a NaN (R141, R142, R180). DEDUCED, log entry 61. -/
def asRead (ty : ElemTy) (ftz : Bool) (v : Nat) : Nat :=
  if ty.isFloat then encodeF (fmtOf ty) (decodeF (fmtOf ty) ftz v) else v

/-- The lanes of a source, ABSENT where inactive. -/
def redLanes (ty : ElemTy) (k : Mask) (x : VWord) : List (Option Nat) :=
  (upTo (lanesOf ty.bits)).map fun i => if k.getLsbD i then some (laneN x.toNat i ty.bits) else none

/-- One level of VRED's tree: neighbours combined. -/
def redLevel (f : Option Nat → Option Nat → Option Nat × FFlags) : List (Option Nat) → List (Option Nat) × FFlags
  | a :: b :: t =>
    let r := f a b
    let q := redLevel f t
    (r.1 :: q.1, r.2 ||| q.2)
  | l => (l, 0)

/-- VRED's tree, to one value. -/
def redTree (f : Option Nat → Option Nat → Option Nat × FFlags) : Nat → List (Option Nat) → FFlags → Option Nat × FFlags
  | 0, l, fl => (l.headD none, fl)
  | n + 1, l, fl =>
    let q := redLevel f l
    redTree f n q.1 (fl ||| q.2)

/-- The value of an empty reduction. -/
def emptyRed (op : RedOp) (ty : ElemTy) : Nat :=
  match op with
  | .add => 0
  | .min => if ty.isFloat then (fmtOf ty).infBits false else wrapN ty.bits (tyMax ty)
  | .max => if ty.isFloat then (fmtOf ty).infBits true else wrapN ty.bits (tyMin ty)

/-- VRED's write: all lanes. -/
def redOut (op : RedOp) (ty : ElemTy) (rnd : Rnd) (ftz : Bool) (k : Mask) (x : VWord) : VOut :=
  let q := redTree (combOpt op ty ftz rnd) (Nat.log2 (lanesOf ty.bits)) (redLanes ty k x) 0
  { mask := BitVec.allOnes 2048, val := BitVec.ofNat 2048 (asRead ty ftz (q.1.getD (emptyRed op ty))), flags := q.2 }

def vredOp (h : Hdr) (op : RedOp) (ty : ElemTy) (rnd : Rnd) (k : BitVec 3) (d : Reg) (a : Src) : SlotOp :=
  vOp1 h (if ty.isFloat then 4 else 3) d a fun r x => redOut op ty rnd r.ftz (readK r k) x
def execVred (h : Hdr) (op : RedOp) (ty : ElemTy) (rnd : Rnd) (k : BitVec 3) (d : Reg) (a : Src) (s : State) :=
  (vredOp h op ty rnd k d a).run s

/-- One level of VSCAN: lane i combined with lane i − step. -/
def scanLevel (f : Option Nat → Option Nat → Option Nat × FFlags) (step : Nat) (l : List (Option Nat)) :
    List (Option Nat) × FFlags :=
  let rs := (List.replicate step none ++ l).zipWith f l
  (rs.map (·.1), rs.foldl (fun fl r => fl ||| r.2) 0)

def scanTree (f : Option Nat → Option Nat → Option Nat × FFlags) : Nat → Nat → List (Option Nat) → FFlags →
    List (Option Nat) × FFlags
  | 0, _, l, fl => (l, fl)
  | n + 1, step, l, fl =>
    let q := scanLevel f step l
    scanTree f n (2 * step) q.1 (fl ||| q.2)

/-- VSCAN's write: the active lanes. -/
def scanOut (op : RedOp) (ty : ElemTy) (rnd : Rnd) (ftz : Bool) (k : Mask) (x : VWord) : VOut :=
  let q := scanTree (combOpt op ty ftz rnd) (Nat.log2 (lanesOf ty.bits)) 1 (redLanes ty k x) 0
  let val := q.1.foldr (fun v acc => asRead ty ftz (v.getD 0) % 2 ^ ty.bits + 2 ^ ty.bits * acc) 0
  { mask := laneMask ty.bits (lanesOf ty.bits) fun i => k.getLsbD i, val := BitVec.ofNat 2048 val, flags := q.2 }

def vscanOp (h : Hdr) (op : RedOp) (ty : ElemTy) (rnd : Rnd) (k : BitVec 3) (d : Reg) (a : Src) : SlotOp :=
  vOp1 h (if ty.isFloat then 4 else 3) d a fun r x => scanOut op ty rnd r.ftz (readK r k) x
def execVscan (h : Hdr) (op : RedOp) (ty : ElemTy) (rnd : Rnd) (k : BitVec 3) (d : Reg) (a : Src) (s : State) :=
  (vscanOp h op ty rnd k d a).run s

/-! ## Bit planes (R184) -/

/-- The planes of the low P bits of each lane (R184). -/
def plnValue (ty : ElemTy) (planes1 : BitVec 3) (x : VWord) : VWord :=
  let n := lanesOf ty.bits
  let p := planes1.toNat
  BitVec.ofNat 2048 ((upTo (p + 1)).foldr (fun j acc =>
    (upTo n).foldr (fun i y => (x.toNat >>> (i * ty.bits + (p - j))) % 2 + 2 * y) 0 + 2 ^ n * acc) 0)

/-- The lanes read from P planes (R184). -/
def uplValue (ty : ElemTy) (planes1 : BitVec 3) (unsigned : Bool) (x : VWord) : VWord :=
  let n := lanesOf ty.bits
  let p := planes1.toNat + 1
  laneVec ty.bits n fun i =>
    let r : Nat := (upTo p).foldl (fun acc j => 2 * acc + (x.toNat >>> (j * n + i)) % 2) 0
    wrapN ty.bits (if !unsigned && (x.toNat >>> i) % 2 == 1 then (r : Int) - 2 ^ p else r)

def plnOp (h : Hdr) (ty : ElemTy) (planes1 : BitVec 3) (d : Reg) (a : Src) : SlotOp :=
  vOp1 h 3 d a fun _ x => { mask := BitVec.allOnes 2048, val := plnValue ty planes1 x }
def execPln (h : Hdr) (ty : ElemTy) (planes1 : BitVec 3) (d : Reg) (a : Src) (s : State) := (plnOp h ty planes1 d a).run s

def uplOp (h : Hdr) (ty : ElemTy) (planes1 : BitVec 3) (unsigned : Bool) (d : Reg) (a : Src) : SlotOp :=
  vOp1 h 3 d a fun _ x => { mask := BitVec.allOnes 2048, val := uplValue ty planes1 unsigned x }
def execUpl (h : Hdr) (ty : ElemTy) (planes1 : BitVec 3) (unsigned : Bool) (d : Reg) (a : Src) (s : State) :=
  (uplOp h ty planes1 unsigned d a).run s

end Sys2Proof.Machine
end

