-- ==== Sys2Proof/Machine/VectorFloat.lean ====
section
/-! DEFINITION. The vector slot on floats: arithmetic, compares, conversion, quantisation, block scales, scaled
accumulation and table interpolation: 06_vector.md R173, R180 to R185, R186, R189 over 05_numbers.md. -/

namespace Sys2Proof.Machine

/-- A lane as a float datum after ftz. -/
def laneF (ty : ElemTy) (ftz : Bool) (x : VWord) (i : Nat) : FVal := decodeF (fmtOf ty) ftz (laneN x.toNat i ty.bits)

/-- A lane-wise float instruction of two sources (R180). -/
def vfOp2 (h : Hdr) (cls : Nat) (ty : ElemTy) (m : VMask) (d : Reg) (a b : Src) (f : Bool → FVal → FVal → Flagged Nat) : SlotOp :=
  vOp2 h cls d a b fun r x y =>
    lanesOut ty.bits (lanesOf ty.bits) (readK r m.k) m.z false fun i => f r.ftz (laneF ty r.ftz x i) (laneF ty r.ftz y i)

def vfaddOp (h : Hdr) (ty : ElemTy) (rnd : Rnd) (m : VMask) (d : Reg) (a b : Src) : SlotOp :=
  vfOp2 h 4 ty m d a b fun z x y => fAdd (fmtOf ty) z rnd x y
def execVfadd (h : Hdr) (ty : ElemTy) (rnd : Rnd) (m : VMask) (d : Reg) (a b : Src) (s : State) := (vfaddOp h ty rnd m d a b).run s

def vfsubOp (h : Hdr) (ty : ElemTy) (rnd : Rnd) (m : VMask) (d : Reg) (a b : Src) : SlotOp :=
  vfOp2 h 4 ty m d a b fun z x y => fAdd (fmtOf ty) z rnd x (negate y)
def execVfsub (h : Hdr) (ty : ElemTy) (rnd : Rnd) (m : VMask) (d : Reg) (a b : Src) (s : State) := (vfsubOp h ty rnd m d a b).run s

def vfmulOp (h : Hdr) (ty : ElemTy) (rnd : Rnd) (m : VMask) (d : Reg) (a b : Src) : SlotOp :=
  vfOp2 h 4 ty m d a b fun z x y => fMul (fmtOf ty) z rnd x y
def execVfmul (h : Hdr) (ty : ElemTy) (rnd : Rnd) (m : VMask) (d : Reg) (a b : Src) (s : State) := (vfmulOp h ty rnd m d a b).run s

def vfmaOp (h : Hdr) (ty : ElemTy) (rnd : Rnd) (m : VMask) (d : Reg) (a b c : Src) : SlotOp :=
  vOp3 h 4 d a b c fun r x y z =>
    lanesOut ty.bits (lanesOf ty.bits) (readK r m.k) m.z false fun i =>
      fFma (fmtOf ty) r.ftz rnd (laneF ty r.ftz x i) (laneF ty r.ftz y i) (laneF ty r.ftz z i)
def execVfma (h : Hdr) (ty : ElemTy) (rnd : Rnd) (m : VMask) (d : Reg) (a b c : Src) (s : State) :=
  (vfmaOp h ty rnd m d a b c).run s

def vfminOp (h : Hdr) (ty : ElemTy) (m : VMask) (d : Reg) (a b : Src) : SlotOp :=
  vfOp2 h 4 ty m d a b fun _ x y => fMinMax (fmtOf ty) true x y
def execVfmin (h : Hdr) (ty : ElemTy) (m : VMask) (d : Reg) (a b : Src) (s : State) := (vfminOp h ty m d a b).run s

def vfmaxOp (h : Hdr) (ty : ElemTy) (m : VMask) (d : Reg) (a b : Src) : SlotOp :=
  vfOp2 h 4 ty m d a b fun _ x y => fMinMax (fmtOf ty) false x y
def execVfmax (h : Hdr) (ty : ElemTy) (m : VMask) (d : Reg) (a b : Src) (s : State) := (vfmaxOp h ty m d a b).run s

def vfdivOp (h : Hdr) (ty : ElemTy) (rnd : Rnd) (m : VMask) (d : Reg) (a b : Src) : SlotOp :=
  vfOp2 h 9 ty m d a b fun z x y => fDiv (fmtOf ty) z rnd x y
def execVfdiv (h : Hdr) (ty : ElemTy) (rnd : Rnd) (m : VMask) (d : Reg) (a b : Src) (s : State) := (vfdivOp h ty rnd m d a b).run s

def vfrndOp (h : Hdr) (ty : ElemTy) (rnd : Rnd) (m : VMask) (d : Reg) (a : Src) : SlotOp :=
  vOp1 h 4 d a fun r x =>
    lanesOut ty.bits (lanesOf ty.bits) (readK r m.k) m.z false fun i => fRound (fmtOf ty) rnd (laneF ty r.ftz x i)
def execVfrnd (h : Hdr) (ty : ElemTy) (rnd : Rnd) (m : VMask) (d : Reg) (a : Src) (s : State) := (vfrndOp h ty rnd m d a).run s

/-! ## Compares (R173) -/

/-- The compare of each active lane; none where inactive. -/
def fcmpLanes (c : FCond) (ty : ElemTy) (ftz : Bool) (k : Mask) (x y : VWord) : List (Option (Bool × FFlags)) :=
  (upTo (lanesOf ty.bits)).map fun i => if k.getLsbD i then some (fCmp c (laneF ty ftz x i) (laneF ty ftz y i)) else none

def fcmpFlags (rs : List (Option (Bool × FFlags))) : FFlags :=
  rs.foldl (fun fl r => match r with | some v => fl ||| v.2 | none => fl) 0

def fcmpHit : Option (Bool × FFlags) → Bool
  | some v => v.1
  | none => false

def vfcmpKOp (h : Hdr) (c : FCond) (ty : ElemTy) (k kd : BitVec 3) (a b : Src) : SlotOp where
  hdr := h
  slot := 1
  eff := fun i s =>
    let r := i.tile.regs
    let x := srcVa r a
    let y := srcVb r b
    let rs := fcmpLanes c ty r.ftz (readK r k) x y
    let res : Mask := BitVec.ofNat 256 (rs.foldr (fun v n => (if fcmpHit v then 1 else 0) + 2 * n) 0)
    pushRes 1 6 (fcmpFlags rs) (.k kd (cmpMask (lanesOf ty.bits) (readK r k)) res) (latchVb b y (latchVa a x s))
def execVfcmpK (h : Hdr) (c : FCond) (ty : ElemTy) (k kd : BitVec 3) (a b : Src) (s : State) := (vfcmpKOp h c ty k kd a b).run s

def vfcmpPOp (h : Hdr) (c : FCond) (ty : ElemTy) (k : BitVec 3) (pd pe : BitVec 5) (a b : Src) : SlotOp where
  hdr := h
  slot := 1
  eff := fun i s =>
    let r := i.tile.regs
    let x := srcVa r a
    let y := srcVb r b
    let rs := fcmpLanes c ty r.ftz (readK r k) x y
    pushRes 1 6 (fcmpFlags rs) (.pair (physP r pd) (physP r pe) (rs.any fcmpHit)) (latchVb b y (latchVa a x s))
def execVfcmpP (h : Hdr) (c : FCond) (ty : ElemTy) (k : BitVec 3) (pd pe : BitVec 5) (a b : Src) (s : State) :=
  (vfcmpPOp h c ty k pd pe a b).run s

/-! ## Conversions and quantisation (R181 to R183) -/

/-- `n` elements of width `w` computed; lanes from `n` on are written zero where there are more (R163, R181). -/
def elemsOut (w n : Nat) (k : Mask) (z : Bool) (f : Nat → Flagged Nat) : VOut :=
  lanesOut w n k z (decide (n < lanesOf w)) f

def vcvtOp (h : Hdr) (dst src : ElemTy) (rnd : Rnd) (sat : Bool) (m : VMask) (d : Reg) (a : Src) : SlotOp :=
  vOp1 h 4 d a fun r x =>
    elemsOut dst.bits (min (lanesOf src.bits) (lanesOf dst.bits)) (readK r m.k) m.z fun i =>
      cvtElem dst src r.ftz rnd sat (laneN x.toNat i src.bits)
def execVcvt (h : Hdr) (dst src : ElemTy) (rnd : Rnd) (sat : Bool) (m : VMask) (d : Reg) (a : Src) (s : State) :=
  (vcvtOp h dst src rnd sat m d a).run s

def qntOp (h : Hdr) (ty : ElemTy) (rnd : Rnd) (m : VMask) (d : Reg) (a b : Src) : SlotOp :=
  vOp2 h 13 d a b fun r x y =>
    elemsOut ty.bits 64 (readK r m.k) m.z fun i => qntElem ty r.ftz rnd (laneN x.toNat i 32) (laneN y.toNat i 32)
def execQnt (h : Hdr) (ty : ElemTy) (rnd : Rnd) (m : VMask) (d : Reg) (a b : Src) (s : State) := (qntOp h ty rnd m d a b).run s

/-- BSC's write: all of vd. -/
def bscOut (ty : ElemTy) (planes1 : BitVec 3) (ftz : Bool) (k : Mask) (x : VWord) : VOut :=
  let q := bscExp (planes1.toNat + 1)
    ((upTo (lanesOf ty.bits)).filterMap fun i => if k.getLsbD i then some (laneF ty ftz x i) else none)
  { mask := BitVec.allOnes 2048, val := BitVec.ofNat 2048 (wrapN 8 q.1), flags := q.2 }

def bscOp (h : Hdr) (ty : ElemTy) (planes1 : BitVec 3) (k : BitVec 3) (d : Reg) (a : Src) : SlotOp :=
  vOp1 h 4 d a fun r x => bscOut ty planes1 r.ftz (readK r k) x
def execBsc (h : Hdr) (ty : ElemTy) (planes1 : BitVec 3) (k : BitVec 3) (d : Reg) (a : Src) (s : State) :=
  (bscOp h ty planes1 k d a).run s

/-! ## Scaled accumulation (R185) -/

/-- SCACC's write: an active lane with a scale byte of −128 is not written and raises nothing. -/
def scaccOut (ty : ElemTy) (rnd : Rnd) (adjust : Nat) (ftz : Bool) (k : Mask) (x y z acc : VWord) : VOut :=
  let n := if ty = .i40 then 32 else 64
  let q (i : Nat) : Int := if ty = .i40 then sextN 40 (laneN x.toNat i 64) else sextN 32 (laneN x.toNat i 32)
  let rs := (upTo n).map fun i =>
    if k.getLsbD i then
      scaccElem ftz rnd adjust (q i) (sextN 8 (laneN y.toNat i 8)) (sextN 8 (laneN z.toNat i 8)) (laneN acc.toNat i 32)
    else none
  { mask := BitVec.ofNat 2048 (rs.foldr (fun r n => (match r with | some _ => 2 ^ 32 - 1 | none => 0) + 2 ^ 32 * n) 0)
    val := BitVec.ofNat 2048 (rs.foldr (fun r n => (match r with | some v => v.1 % 2 ^ 32 | none => 0) + 2 ^ 32 * n) 0)
    flags := rs.foldl (fun fl r => match r with | some v => fl ||| v.2 | none => fl) 0 }

/-- SCACC reads its destination at issue through no latch (R167). -/
def scaccOp (h : Hdr) (ty : ElemTy) (rnd : Rnd) (k : BitVec 3) (adjust : BitVec 5) (d : Reg) (a b c : Src) : SlotOp :=
  vOp3 h 4 d a b c fun r x y z => scaccOut ty rnd adjust.toNat r.ftz (readK r k) x y z (readV r d)
def execScacc (h : Hdr) (ty : ElemTy) (rnd : Rnd) (k : BitVec 3) (adjust : BitVec 5) (d : Reg) (a b c : Src) (s : State) :=
  (scaccOp h ty rnd k adjust d a b c).run s

/-! ## Table interpolation (R186, R189) -/

/-- Table `t` of the table store as its header describes it (R186, R187). -/
def tableOf (m : TMem) (t : BitVec 2) : TliTable :=
  let hd := m.thdr[t.toNat]'t.isLt
  let off := (hd.extractLsb' 64 9).toNat
  { x0 := (hd.extractLsb' 0 32).toNat
    step := (hd.extractLsb' 56 8).toInt
    lo := (hd.extractLsb' 32 2).toNat
    hi := (hd.extractLsb' 34 2).toNat
    n := (hd.extractLsb' 48 8).toNat + 1
    entry := fun i =>
      let e := smGet 0 m.tstore (off + i)
      ((e.extractLsb' 0 32).toNat, (e.extractLsb' 32 32).toNat) }

def tliOp (h : Hdr) (ty : ElemTy) (rnd : Rnd) (sat : Bool) (m : VMask) (t : BitVec 2) (d : Reg) (a : Src) : SlotOp where
  hdr := h
  slot := 1
  eff := fun i s =>
    let r := i.tile.regs
    let x := srcVa r a
    let tb := tableOf i.tile.mem t
    pushV i 7 d (elemsOut ty.bits 64 (readK r m.k) m.z fun j => tliElem (fmtOf ty) r.ftz rnd sat tb (laneN x.toNat j 32))
      (latchVa a x s)
def execTli (h : Hdr) (ty : ElemTy) (rnd : Rnd) (sat : Bool) (m : VMask) (t : BitVec 2) (d : Reg) (a : Src) (s : State) :=
  (tliOp h ty rnd sat m t d a).run s

end Sys2Proof.Machine
end

