-- ==== Sys2Proof/Machine/VectorMem.lean ====
section
/-! DEFINITION. Vector scratchpad and spill access, and TLD: 07_scratchpad.md R194, R206 to R209; 06_vector.md R187, R188. -/

namespace Sys2Proof.Machine

/-! ## Element addresses (R206, R207) -/

/-- The base address of a VMEM syllable (R206). -/
def vmemBase (r : Regs) (base : Reg) (disp : BitVec 22) : Word := readG r base + disp.signExtend 64

/-- Elements of one access: index, address, in lane order, active ones only (R207). -/
def activeElems (n : Nat) (k : Mask) (addr : Nat → Word) : List (Nat × Word) :=
  (upTo n).filterMap fun i => if k.getLsbD i then some (i, addr i) else none

/-- VLD, VST: consecutive elements. -/
def unitElems (r : Regs) (ty : ElemTy) (k : BitVec 3) (base : Reg) (disp : BitVec 22) : List (Nat × Word) :=
  activeElems (lanesOf ty.bits) (readK r k) fun i => vmemBase r base disp + BitVec.ofNat 64 (i * (ty.bits / 8))

/-- VLDS, VSTS: a byte stride. -/
def strideElems (r : Regs) (ty : ElemTy) (k : BitVec 3) (base stride : Reg) (disp : BitVec 22) : List (Nat × Word) :=
  activeElems (lanesOf ty.bits) (readK r k) fun i => vmemBase r base disp + BitVec.ofNat 64 i * readG r stride

/-- VGATH, VSCAT: 64 offsets from a vector register, signed for I32. -/
def indexElems (r : Regs) (ty : ElemTy) (k : BitVec 3) (base index : Reg) (disp : BitVec 22) : List (Nat × Word) :=
  let x := readV r index
  activeElems 64 (readK r k) fun i => vmemBase r base disp + BitVec.ofInt 64 (elemAt ty 32 (laneN x.toNat i 32))

/-- ALIGN and SPAD of the lowest active element that raises one (R208). -/
def elemsFault (t : Tile) (n al : Nat) (es : List (Nat × Word)) : Option TFault :=
  firstFault (fun e => spadFault t e.2 n al e.1) es

/-- VLD and VST check the base whenever the guard holds (R207). -/
def unitFault (t : Tile) (a : Word) (n : Nat) (es : List (Nat × Word)) : Option TFault :=
  if a.toNat % 64 ≠ 0 then some (addrFault 0x04 a 0 0) else elemsFault t n 1 es

/-- POISON of the lowest active element that touches a poisoned block (R208). -/
def elemsPoison (t : Tile) (n : Nat) (es : List (Nat × Word)) : Option TFault :=
  firstFault (fun e => poisonFault t e.2.toNat n) es

def elemsAccess (n : Nat) (write : Bool) (es : List (Nat × Word)) : List FRange := es.map fun e => acc e.2.toNat n write

/-- The vector and the mask of the elements loaded. -/
def loadElems (m : TMem) (w : Nat) (es : List (Nat × Word)) : VOut :=
  es.foldl (fun o e =>
    { mask := o.mask ||| (BitVec.ofNat 2048 (2 ^ w - 1) <<< (e.1 * w))
      val := o.val ||| (BitVec.ofNat 2048 (readB m.spad e.2.toNat (w / 8)) <<< (e.1 * w)) }) { mask := 0, val := 0 }

/-- The elements stored, the highest active lane last (R207). Marks are cleared from the blocks that the one access
covers whole (R290). -/
def storeElems (w : Nat) (v : VWord) (es : List (Nat × Word)) (m : TMem) : TMem :=
  let spad := es.foldl (fun sp e => writeB e.2.toNat (w / 8) (laneN v.toNat e.1 w) sp) m.spad
  let bytes : SMap Bool := es.foldl (fun bs e => (upTo (w / 8)).foldl (fun bs j => smSet (e.2.toNat + j) true bs) bs) []
  let blocks := (blocksOf (elemsAccess (w / 8) true es)).map (·.1)
  let full := blocks.filter fun b => (smGet false m.poison b) && (upTo 64).all fun j => smGet false bytes (64 * b + j)
  { m with spad := spad, poison := full.foldl (fun p b => smPut false b false p) m.poison }

/-- A vector load of elements of width `w` bits. -/
def vloadOp (h : Hdr) (w : Nat) (d : Reg) (fault : State → Option TFault) (es : Regs → List (Nat × Word)) : SlotOp where
  hdr := h
  slot := 1
  fault5 := fault
  access := fun i => elemsAccess (w / 8) false (es i.tile.regs)
  fault6 := fun i => elemsPoison i.tile (w / 8) (es i.tile.regs)
  eff := fun i s => pushV i 5 d (loadElems i.tile.mem w (es i.tile.regs)) s

/-- A vector store of elements of width `w` bits, which sees the stores of lower slots (R195). -/
def vstoreOp (h : Hdr) (w : Nat) (r : Reg) (fault : State → Option TFault) (es : Regs → List (Nat × Word)) : SlotOp where
  hdr := h
  slot := 1
  fault5 := fault
  access := fun i => elemsAccess (w / 8) true (es i.tile.regs)
  eff := fun i s => onMem (storeElems w (readV i.tile.regs r) (es i.tile.regs)) s

def vldOp (h : Hdr) (ty : ElemTy) (k : BitVec 3) (d base : Reg) (disp : BitVec 22) : SlotOp :=
  vloadOp h ty.bits d
    (fun i => unitFault i.tile (vmemBase i.tile.regs base disp) (ty.bits / 8) (unitElems i.tile.regs ty k base disp))
    fun r => unitElems r ty k base disp
def execVld (h : Hdr) (ty : ElemTy) (k : BitVec 3) (d base : Reg) (disp : BitVec 22) (s : State) := (vldOp h ty k d base disp).run s

def vstOp (h : Hdr) (ty : ElemTy) (k : BitVec 3) (r base : Reg) (disp : BitVec 22) : SlotOp :=
  vstoreOp h ty.bits r
    (fun i => unitFault i.tile (vmemBase i.tile.regs base disp) (ty.bits / 8) (unitElems i.tile.regs ty k base disp))
    fun r => unitElems r ty k base disp
def execVst (h : Hdr) (ty : ElemTy) (k : BitVec 3) (r base : Reg) (disp : BitVec 22) (s : State) := (vstOp h ty k r base disp).run s

def vldsOp (h : Hdr) (ty : ElemTy) (k : BitVec 3) (d base stride : Reg) (disp : BitVec 22) : SlotOp :=
  vloadOp h ty.bits d
    (fun i => elemsFault i.tile (ty.bits / 8) (ty.bits / 8) (strideElems i.tile.regs ty k base stride disp))
    fun r => strideElems r ty k base stride disp
def execVlds (h : Hdr) (ty : ElemTy) (k : BitVec 3) (d base stride : Reg) (disp : BitVec 22) (s : State) :=
  (vldsOp h ty k d base stride disp).run s

def vstsOp (h : Hdr) (ty : ElemTy) (k : BitVec 3) (r base stride : Reg) (disp : BitVec 22) : SlotOp :=
  vstoreOp h ty.bits r
    (fun i => elemsFault i.tile (ty.bits / 8) (ty.bits / 8) (strideElems i.tile.regs ty k base stride disp))
    fun r => strideElems r ty k base stride disp
def execVsts (h : Hdr) (ty : ElemTy) (k : BitVec 3) (r base stride : Reg) (disp : BitVec 22) (s : State) :=
  (vstsOp h ty k r base stride disp).run s

def vgathOp (h : Hdr) (ty : ElemTy) (k : BitVec 3) (d base index : Reg) (disp : BitVec 22) : SlotOp :=
  vloadOp h 32 d (fun i => elemsFault i.tile 4 4 (indexElems i.tile.regs ty k base index disp))
    fun r => indexElems r ty k base index disp
def execVgath (h : Hdr) (ty : ElemTy) (k : BitVec 3) (d base index : Reg) (disp : BitVec 22) (s : State) :=
  (vgathOp h ty k d base index disp).run s

def vscatOp (h : Hdr) (ty : ElemTy) (k : BitVec 3) (r base index : Reg) (disp : BitVec 22) : SlotOp :=
  vstoreOp h 32 r (fun i => elemsFault i.tile 4 4 (indexElems i.tile.regs ty k base index disp))
    fun r => indexElems r ty k base index disp
def execVscat (h : Hdr) (ty : ElemTy) (k : BitVec 3) (r base index : Reg) (disp : BitVec 22) (s : State) :=
  (vscatOp h ty k r base index disp).run s

/-! ## Spill (R209) -/

def vldpOp (h : Hdr) (d : Reg) (page : BitVec 6) : SlotOp where
  hdr := h
  slot := 1
  eff := fun i s =>
    pushV i 10 d { mask := BitVec.allOnes 2048, val := BitVec.ofNat 2048 (readB i.tile.mem.spill (256 * page.toNat) 256) } s
def execVldp (h : Hdr) (d : Reg) (page : BitVec 6) (s : State) := (vldpOp h d page).run s

def vstpOp (h : Hdr) (r : Reg) (page : BitVec 6) : SlotOp where
  hdr := h
  slot := 1
  eff := fun i s =>
    onMem (fun m => { m with spill := writeB (256 * page.toNat) 256 (readV i.tile.regs r).toNat m.spill }) s
def execVstp (h : Hdr) (r : Reg) (page : BitVec 6) (s : State) := (vstpOp h r page).run s

/-! ## TLD (R188) -/

/-- The 16-byte header at `a`. -/
def tldHeader (m : TMem) (a : Nat) : BitVec 128 := BitVec.ofNat 128 (readB m.spad a 16)
def tldCount (hd : BitVec 128) : Nat := (hd.extractLsb' 48 8).toNat + 1
def tldOffset (hd : BitVec 128) : Nat := (hd.extractLsb' 64 9).toNat

/-- Whether a header's fields are refused (R188). -/
def tldBad (hd : BitVec 128) : Bool :=
  hd.extractLsb' 73 55 != 0 || hd.extractLsb' 36 12 != 0 || decide (512 < tldOffset hd + tldCount hd)

/-- Items 1 and 2 of R188. -/
def tldFault5 (t : Tile) (a : Word) : Option TFault := spadFault t a 16 64 0

/-- Items 3 to 6 of R188. -/
def tldFault6 (s : State) (a : Word) : Option TFault :=
  let t := s.tile
  let n := a.toNat
  match poisonFault t n 16 with
  | some f => some f
  | none =>
    let hd := tldHeader t.mem n
    if tldBad hd then some (illegal s)
    else
      match spadFault t (a + 16) (8 * tldCount hd) 1 0 with
      | some f => some f
      | none => poisonFault t (n + 16) (8 * tldCount hd)

/-- The table store with the entries and the header loaded. -/
def tldLoad (i : TMem) (a : Nat) (t : BitVec 2) (m : TMem) : TMem :=
  let hd := tldHeader i a
  { m with
    tstore := (upTo (tldCount hd)).foldl
      (fun ts j => smPut 0 (tldOffset hd + j) (BitVec.ofNat 64 (readB i.spad (a + 16 + 8 * j) 8)) ts) m.tstore
    thdr := m.thdr.set t.toNat hd t.isLt }

/-- What TLD loads: every whole 64-byte block that the table occupies. -/
def tldSpan (hd : BitVec 128) : Nat := (16 + 8 * tldCount hd + 63) / 64 * 64

/-- TLD (R188). Blocks of a table beyond the end of the program area, which fault in step 6, count for no bank and no footprint: no rule says that
they do. DESIGN CHOICE, log entry 110. -/
def tldOp (h : Hdr) (t : BitVec 2) (base : Reg) (disp : BitVec 22) : SlotOp where
  hdr := h
  slot := 1
  fault5 := fun i => tldFault5 i.tile (vmemBase i.tile.regs base disp)
  access := fun i =>
    let a := (vmemBase i.tile.regs base disp).toNat
    [acc a (min (tldSpan (tldHeader i.tile.mem a)) (progEnd i.tile - a)) false]
  fault6 := fun i => tldFault6 i (vmemBase i.tile.regs base disp)
  eff := fun i s => onMem (tldLoad i.tile.mem (vmemBase i.tile.regs base disp).toNat t) s
def execTld (h : Hdr) (t : BitVec 2) (base : Reg) (disp : BitVec 22) (s : State) := (tldOp h t base disp).run s

end Sys2Proof.Machine
end

