-- ==== Sys2Proof/Machine/Bundle.lean ====
section
/-! DEFINITION. The tile's own cycle: which syllable a term is, loop fill, holds and halts, the watchdog, a bundle's issue, the
landing of results, and overlay page-in: 02_encoding.md R45, R49, R54; 03_issue.md R64 to R84; 16_preemption.md R415, R423. -/

namespace Sys2Proof.Machine

/-- A syllable as its slot executes it; none for a term that is no syllable. -/
def slotOp (i : Instr) : Option SlotOp :=
  match i with
  | .nop h => some (nopOp h)
  | .add h d a b => some (addOp h d a b)
  | .addi h d a imm => some (addiOp h d a imm)
  | .sub h d a b => some (subOp h d a b)
  | .mul h d a b => some (mulOp h d a b)
  | .mulh h op d a b => some (mulhOp h op d a b)
  | .div h op d a b => some (divOp h op d a b)
  | .and h d a b => some (andOp h d a b)
  | .andi h d a imm => some (andiOp h d a imm)
  | .or h d a b => some (orOp h d a b)
  | .ori h d a imm => some (oriOp h d a imm)
  | .xor h d a b => some (xorOp h d a b)
  | .xori h d a imm => some (xoriOp h d a imm)
  | .shl h d a b => some (shlOp h d a b)
  | .shr h arith d a b => some (shrOp h arith d a b)
  | .shli h d a n => some (shliOp h d a n)
  | .shri h arith d a n => some (shriOp h arith d a n)
  | .min h unsigned d a b => some (minOp h unsigned d a b)
  | .max h unsigned d a b => some (maxOp h unsigned d a b)
  | .clz h d a => some (clzOp h d a)
  | .popc h d a => some (popcOp h d a)
  | .ext h signed d a pos len1 => some (extOp h signed d a pos len1)
  | .ins h d a pos len1 => some (insOp h d a pos len1)
  | .movi h d imm => some (moviOp h d imm)
  | .movh h d a imm => some (movhOp h d a imm)
  | .sel h d pn a b => some (selOp h d pn a b)
  | .cmp h c pd pe a b => some (cmpOp h c pd pe a b)
  | .cmpi h c pt pc a imm => some (cmpiOp h c pt pc a imm)
  | .pand h op pd pe pa pb => some (pandOp h op pd pe pa pb)
  | .pset h value pd pe => some (psetOp h value pd pe)
  | .lds h w d base disp => some (ldsOp h w d base disp)
  | .sts h w s base disp => some (stsOp h w s base disp)
  | .ldp h w d disp => some (ldpOp h w d disp)
  | .stp h w s disp => some (stpOp h w s disp)
  | .ldg h w o d base sd => some (ldgOp h w o d base sd)
  | .stg h w o s base sd => some (stgOp h w o s base sd)
  | .amo h op w o sc d base b => some (amoOp h op w o sc d base b)
  | .acas h w o sc d base b => some (acasOp h w o sc d base b)
  | .red h op w o sc base b => some (redOp h op w o sc base b)
  | .fence h k sc => some (fenceOp h k sc)
  | .br h disp => some (brOp h disp)
  | .brt h t0 t1 t2 t3 stride1 disp => some (brtOp h t0 t1 t2 t3 stride1 disp)
  | .bri h a => some (briOp h a)
  | .call h disp => some (callOp h disp)
  | .ret h => some (retOp h)
  | .loop h level count rotate len1 => some (loopOp h level count rotate len1)
  | .lbrk h level => some (lbrkOp h level)
  | .endTask h => some (endTaskOp h)
  | .waits h a b => some (waitsOp h a b)
  | .monitor h a => some (monitorOp h a)
  | .waitm h w t a b => some (waitmOp h w t a b)
  | .mbx h d a idx => some (mbxOp h d a idx)
  | .mbxw h a idx => some (mbxwOp h a idx)
  | .next h d pe => some (nextOp h d pe)
  | .align h peer => some (alignOp h peer)
  | .bar h k e => some (barOp h k e)
  | .rdsr h d idx => some (rdsrOp h d idx)
  | .wrsr h a idx => some (wrsrOp h a idx)
  | .trap h code => some (trapOp h code)
  | .yield h => some (yieldOp h)
  | .jraise h a => some (jraiseOp h a)
  | .jdone h => some (jdoneOp h)
  | .vadd h ty sat m d a b => some (vaddOp h ty sat m d a b)
  | .vsub h ty sat m d a b => some (vsubOp h ty sat m d a b)
  | .vmul h ty sat m d a b => some (vmulOp h ty sat m d a b)
  | .vmulh h ty m d a b => some (vmulhOp h ty m d a b)
  | .vmin h ty m d a b => some (vminOp h ty m d a b)
  | .vmax h ty m d a b => some (vmaxOp h ty m d a b)
  | .vand h ty m d a b => some (vandOp h ty m d a b)
  | .vor h ty m d a b => some (vorOp h ty m d a b)
  | .vxor h ty m d a b => some (vxorOp h ty m d a b)
  | .vshl h ty sat m d a b => some (vshlOp h ty sat m d a b)
  | .vshr h ty m d a b => some (vshrOp h ty m d a b)
  | .vabs h ty sat m d a => some (vabsOp h ty sat m d a)
  | .vcmp h c ty k kd a b => some (vcmpOp h c ty k kd a b)
  | .vsel h ty k d a b => some (vselOp h ty k d a b)
  | .vmov h ty m d a => some (vmovOp h ty m d a)
  | .vbcast h ty m d a => some (vbcastOp h ty m d a)
  | .vext h ty d a b => some (vextOp h ty d a b)
  | .vins h ty d a b => some (vinsOp h ty d a b)
  | .vperm h ty two m d a b c => some (vpermOp h ty two m d a b c)
  | .vred h op ty rnd k d a => some (vredOp h op ty rnd k d a)
  | .vscan h op ty rnd k d a => some (vscanOp h op ty rnd k d a)
  | .vfadd h ty rnd m d a b => some (vfaddOp h ty rnd m d a b)
  | .vfsub h ty rnd m d a b => some (vfsubOp h ty rnd m d a b)
  | .vfmul h ty rnd m d a b => some (vfmulOp h ty rnd m d a b)
  | .vfma h ty rnd m d a b c => some (vfmaOp h ty rnd m d a b c)
  | .vfmin h ty m d a b => some (vfminOp h ty m d a b)
  | .vfmax h ty m d a b => some (vfmaxOp h ty m d a b)
  | .vfcmpK h c ty k kd a b => some (vfcmpKOp h c ty k kd a b)
  | .vfcmpP h c ty k pd pe a b => some (vfcmpPOp h c ty k pd pe a b)
  | .vfdiv h ty rnd m d a b => some (vfdivOp h ty rnd m d a b)
  | .vcvt h dst src rnd sat m d a => some (vcvtOp h dst src rnd sat m d a)
  | .qnt h ty rnd m d a b => some (qntOp h ty rnd m d a b)
  | .scacc h ty rnd k adjust d a b c => some (scaccOp h ty rnd k adjust d a b c)
  | .bsc h ty planes1 k d a => some (bscOp h ty planes1 k d a)
  | .pln h ty planes1 d a => some (plnOp h ty planes1 d a)
  | .upl h ty planes1 unsigned d a => some (uplOp h ty planes1 unsigned d a)
  | .tld h t base disp => some (tldOp h t base disp)
  | .tli h ty rnd sat m t d a => some (tliOp h ty rnd sat m t d a)
  | .vld h ty k d base disp => some (vldOp h ty k d base disp)
  | .vst h ty k s base disp => some (vstOp h ty k s base disp)
  | .vlds h ty k d base stride disp => some (vldsOp h ty k d base stride disp)
  | .vsts h ty k s base stride disp => some (vstsOp h ty k s base stride disp)
  | .vgath h ty k d base index disp => some (vgathOp h ty k d base index disp)
  | .vscat h ty k s base index disp => some (vscatOp h ty k s base index disp)
  | .vldp h d page => some (vldpOp h d page)
  | .vstp h s page => some (vstpOp h s page)
  | .kop h op kd ka kb => some (kopOp h op kd ka kb)
  | .vmadd h ty sat m d a b c => some (vmaddOp h ty sat m d a b c)
  | .vpopc h ty m d a => some (vpopcOp h ty m d a)
  | .vclz h ty m d a => some (vclzOp h ty m d a)
  | .vpack h ty sat m d a b => some (vpackOp h ty sat m d a b)
  | .vunpk h ty hi m d a => some (vunpkOp h ty hi m d a)
  | .vfrnd h ty rnd m d a => some (vfrndOp h ty rnd m d a)
  | .mcall h routine tag pa1 pb1 => some (mcallOp h routine tag pa1 pb1)
  | .mcalld h routine tag pa1 pb1 => some (mcalldOp h routine tag pa1 pb1)
  | .mldr h a b => some (mldrOp h a b)
  | .mset h mp a => some (msetOp h mp a)
  | .mget h d mp => some (mgetOp h d mp)
  | .mzr h => some (mzrOp h)
  | .mrd h d a => some (mrdOp h d a)
  | .mwr h a b => some (mwrOp h a b)
  | .mstat h d => some (mstatOp h d)
  | .mdrn h => some (mdrnOp h)
  | .cpbind h a b => some (cpbindOp h a b)
  | .cpinvLayer h a => some (cpinvLayerOp h a)
  | .cpinvAll h => some (cpinvAllOp h)
  | .cpsav h a b => some (cpsavOp h a b)
  | .cprst h a b => some (cprstOp h a b)
  | .cpqry h d a => some (cpqryOp h d a)
  | .cpy h card q => some (cpyOp h card q)
  | .cpys h card aux q => some (cpysOp h card aux q)
  | .board h win repair card => some (boardOp h win repair card)
  | .lapw h aux => some (lapwOp h aux)
  | .xmit h d vs => some (xmitOp h d vs)
  | .xsel h d vd => some (xselOp h d vd)
  | .swinit h card aux => some (swinitOp h card aux)
  | .swadd h card aux => some (swaddOp h card aux)
  | .swrd h card aux => some (swrdOp h card aux)
  | .pref h card aux => some (prefOp h card aux)
  | .slch h card aux => some (slchOp h card aux)
  | .cdrn h q => some (cdrnOp h q)
  | .cstat h d q => some (cstatOp h d q)
  | .ckill h q => some (ckillOp h q)
  | .bundleIssue | .resultLanding | .watchdog | .overlayPageIn | .tileFree | .ldgComplete | .storeQueuePerform _
  | .monitorPollWake | .waitmTimeout | .barrierRelease _ | .xmitArrival | .killedJobRelease _ _ | .copyJobStart _
  | .copyJobComplete _ _ | .copyJobRunFault _ _ | .s2tPacketHop _ | .matrixJobStart | .panelLoadArrival | .mldrJob
  | .cpbindJob | .cpinvJob | .cpsavJob | .cprstJob | .coppiceBroadcastApply | .uopEnd | .uInit | .lda _ | .ldb _
  | .pat _ | .step _ _ _ | .stepAll _ _ | .shacc | .padd _ | .paddImm _ _ | .rpt _ _ _ | .zgt _ | .yld | .laneStep
  | .boardArm _ | .boardComplete _ | .lapMapPublish _ _ | .pageWalk _ _ _ _ | .flashPageIn _ _ | .coldPageOut _ _ _
  | .skidderTransferEnd _ _ | .snapshot _ | .invalidationComplete _ | .eventRecordPost _ _ | .haltRequest _
  | .tileHalt | .gangStopped _ _ | .contextSave _ | .gangDiscard _ | .yarderBind _ _ _ _ _ | .gangStart _
  | .gangResume _ | .sliceEnd _ | .priorityAgeing _ _ | .publish _ _ | .retire _ _ | .openStream _ _
  | .closeStream _ _ | .submit _ _ | .mboxw _ _ | .jpost _ _ | .replyResume _ _ | .replyRestart _ _ | .replyEnd _ _
  | .mappage _ _ | .reload _ _ | .sessionDefine _ _ | .sessionRemove _ _ | .snapread _ _ | .snaprel _ _ | .quota _ _
  | .enroll _ _ | .pool _ _ | .slots _ _ | .dump _ _ | .pair _ _ | .accessOpen _ _ | .accessClose _ _
  | .invalidateAll _ _ | .invalidateRange _ _ | .counterFlush _ _ | .interfaceRegisterWrite _ _ _
  | .lockedBarConfigWrite _ | .ideIntegrityFailure _ | .vfEnable _ | .functionLevelReset _ | .windowRead _ _ _
  | .windowWrite _ _ _ | .getTdispVersion _ | .getTdispCapabilities _ | .lockInterfaceRequest _
  | .getDeviceInterfaceReport _ | .getDeviceInterfaceState _ | .startInterfaceRequest _ | .stopInterfaceRequest _
  | .ideKm _ _ | .getVersion _ | .getCapabilities _ | .negotiateAlgorithms _ | .challenge _ | .keyExchange _
  | .getMeasurements _ | .peerAccess _ _ _ _ _ | .chinookLinkTraining _ _ | .chinookLinkDown _ | .calmEntry
  | .doldrumsEntry | .wakeEvent | .throttleEngage | .throttleRelease | .clockStop | .clockRestart | .moduleStart
  | .rlen _ | .rdata _ | .rgo _ | .recoveryVerifyDone | .fatalError | .healthRecord _ | .pcieCompletionTimeout
  | .unknownOp _ _ => none

/-- An ILLEGAL at execution as a bundle's record has it: with the word and position of its syllable (R418). -/
def placed (w : Word) (pos : Nat) (f : TFault) : TFault :=
  if f.code = 0x01 then { f with detail := detailOf w (pos * 2 ^ 8) 0x01 } else f

/-- A syllable of a bundle, with its word and position. -/
def located (w : Word) (pos : Nat) (o : SlotOp) : SlotOp :=
  { o with fault5 := fun s => (o.fault5 s).map (placed w pos), fault6 := fun s => (o.fault6 s).map (placed w pos) }

/-- The syllables of a decoded bundle, with their words. -/
def bundleOps : List Word → Nat → List Instr → List SlotOp
  | w :: ws, n, i :: is =>
    match slotOp i with
    | some o => located w n o :: bundleOps ws (n + 1) is
    | none => bundleOps ws (n + 1) is
  | _, _, _ => []

/-- ILLEGAL raised at decoding (R54, R418). -/
def decodeFault (ws : List Word) (s : State) : TFault :=
  let f := firstFailing none 0 ws
  { code := 0x01, addr := s.tile.ctl.pc, detail := detailOf f.2 (f.1 * 2 ^ 8) 0x01 }

/-! ## The loop fill (R82, R84) -/

/-- The body length of a LOOP bundle; none for another bundle. -/
def loopLength (is : List Instr) : Option Nat :=
  match is with
  | .loop _ _ _ _ len1 :: _ => some (len1.toNat + 1)
  | _ => none

/-- The words of a bundle at `a` put into a body. -/
def bufferBundle (a : Word) (ws : List Word) (m : SMap Word) : SMap Word :=
  ws.zipIdx.foldl (fun m w => smSet (a.toNat + 8 * w.2) w.1 m) m

/-- The fetch of the `n` bundles from `a` out of instruction memory: the words by address, or what stops it and at which bundle;
and the pages fetched from, in order (R82, R84). -/
def bodyFetch (t : Tile) : Nat → Word → Except (Fetched × Word) (SMap Word) × List Nat
  | 0, _ => (.ok [], [])
  | n + 1, a =>
    match fetchWords (fetchMem t) 4 a with
    | .error e => (.error (e, a), [])
    | .ok ws =>
      let rest := bodyFetch t n (a + BitVec.ofNat 64 (8 * ws.length))
      (rest.1.map (bufferBundle a ws), bundlePages a ws.length ++ rest.2)

/-- FLTADDR of a page's fault: the first byte on it of the bundle being fetched (R69). -/
def firstOnPage (pc : Word) (n : Nat) : Word := if pc.toNat / 4096 = n then pc else BitVec.ofNat 64 (4096 * n)

/-- The outermost active level. -/
def outermost (c : Ctl) : Option LoopLevel := c.loops.toList.find? (·.active)

/-- A resumed tile's buffer, to be refilled from the body of its outermost level (R82). -/
def refill (t : Tile) : Option (Except (Fetched × Word) (SMap Word) × List Nat) :=
  match outermost t.ctl with
  | some l => if t.ctl.loopBuf.isEmpty then some (bodyFetch t l.len (BitVec.ofNat 64 l.first)) else none
  | none => none

/-- Whether the fill of R84 comes before the bundle. -/
def needsFill (is : List Instr) (c : Ctl) : Bool := (loopLength is).isSome && (innermost c).isNone && !c.filled

/-! ## Holds and halts (R25, R77) -/

/-- Whether a request stops the tile here: not in a phase, and not once a barrier of its bundle has been released. -/
def mayHalt (s : State) : Bool := s.tile.ctl.haltReq && !inPhase s && !s.tile.ctl.barOpen

/-- A haltable held cycle, of an access or a page-in that the tile waits for, or the halt of a tile that was asked to (R77). The next
bundle is not reached, so that no interlock is tested: the cycle is not counted though a result may be late in it too. DEDUCED, log entry 80. -/
def heldOrHalt (s : State) : State := if mayHalt s then onTile haltTile s else heldHaltable s

/-- Whether the bundle is held by a source of R25 that is haltable. A cycle that a latency interlock holds as well is the interlock's: it is
counted, and not haltable. DEDUCED, log entry 80. -/
def haltableHold (ops : List SlotOp) (s : State) : Bool :=
  !interlocked s.tile.regs && s.tile.ctl.bankLeft.isNone && (firstOf SlotOp.fault5 (guarded ops s) s).isNone && isHeld ops s

/-- The halt of a tile whose bundle `ops` is held: what reaching issue left behind stands (R77, R323). -/
def haltHeld (ops : List SlotOp) (s : State) : State := onTile haltTile (noteHold ops s)

/-- Whether the watchdog has run out at a boundary whose next bundle is no honoured point (R80). -/
def watchdogOut (honoured : Bool) (s : State) : Bool := decide (s.tile.place.ppmax ≤ s.tile.ctl.wdog) && !honoured

/-- The WATCHDOG fault (R80, R418). -/
def watchdogFault (s : State) : TFault := faultAtPc 0x0D 0 (s.tile.place.ppmax % 4096 * 2 ^ 32) s

/-! ## A bundle's cycle (R415) -/

/-- A counted cycle in which nothing issues, unless a latency interlock holds it (R49, R74, R84). -/
def idleCycle (f : Ctl → Ctl) (s : State) : State :=
  if interlocked s.tile.regs then heldCounted s else emptyCycle (onCtl f s)

/-- One counted cycle of a fill; with its last the buffer holds the body (R84). -/
def fillCycle (body : SMap Word) (left : Nat) (s : State) : State :=
  idleCycle (fun c => if left = 0 then { c with loopBuf := body, filled := true, fillLeft := 0 } else { c with fillLeft := left }) s

/-- Frames after a fetch from pages `ns` of the bound image (R68). -/
def notePages (ns : List Nat) (s : State) : State :=
  onCtl (fun c => { c with frames := touchFrames s.tile.place.digest ns c.frames }) s

/-- The banks that the timed accesses of a bundle take in this cycle: none unless it issues or its bank conflicts alone hold it (R26, R196,
R197). In which cycles of a conflict a bank serves which block no rule says: a bank of fewer blocks than the cycles serves them in the last.
DESIGN CHOICE, log entry 94. -/
def banksTaken (ops : List SlotOp) (s : State) : List Nat :=
  let xs := (guarded ops s).flatMap (·.access s)
  if interlocked s.tile.regs then []
  else
    match s.tile.ctl.bankLeft with
    | some n => banksIn n xs
    | none => if (firstOf SlotOp.fault5 (guarded ops s) s).isSome || isHeld ops s then [] else banksIn (bankHold xs) xs

/-- The banks noted as taken, which the engine port goes without in this cycle (R197). -/
def takeBanks (bs : List Nat) (s : State) : State := onEng (fun e => { e with taken := bs }) s

/-- The body of a LOOP bundle in an active level's body, where its guard is false (R84). -/
def plainBody (is : List Instr) (s : State) : Option PlainBody :=
  match is, innermost s.tile.ctl with
  | .loop h level count rotate len1 :: _, some l =>
    if (loopOp h level count rotate len1).on s then none
    else some { level := l, first := (nextPc s.tile).toNat, next := (afterBody s.tile (len1.toNat + 1) (nextPc s.tile)).toNat }
  | _, _ => none

/-- The bodies that run as ordinary code, after a cycle in which a bundle may have issued: those that pc has not left, and that of the bundle's
own LOOP once pc has come to it (R84). A body that pc leaves and enters again is read from the buffer. DESIGN CHOICE, log entry 81. -/
def notePlain (is : List Instr) (s u : State) : State :=
  onCtl (fun c => { c with plain := ((plainBody is s).toList ++ c.plain).filter (·.has c.pc) }) u

/-- A decoded bundle that is to issue. -/
def bundleReady (ops : List SlotOp) (s : State) : State :=
  if mayHalt s && haltableHold ops s then haltHeld ops s else issueOps ops (takeBanks (banksTaken ops s) s)

/-- A fetch that stops: a page-in holds, where no fault stands (R68, R69). -/
def fetchStopped (e : Fetched) (s : State) : State :=
  match e with
  | .pageIn _ => heldOrHalt s
  | .fault c a => takeFault (fetchFault c a) s
  | .word _ => s

/-- A decoded bundle at its boundary: the halt of a point, the watchdog, the fill, then its syllables. -/
def bundleDecoded (ws : List Word) (is : List Instr) (s : State) : State :=
  let ops := bundleOps ws 0 is
  let honoured := isPoint ops && !boundaryInPhase s
  if mayHalt s && honoured then onTile haltTile s
  else if watchdogOut honoured s && s.tile.ctl.fillLeft = 0 then takeFault (watchdogFault s) s
  else if needsFill is s.tile.ctl then
    let n := (loopLength is).getD 0
    let r := bodyFetch s.tile n (s.tile.ctl.pc + BitVec.ofNat 64 (8 * ws.length))
    let s := notePages r.2 s
    match r.1 with
    | .error (e, _) => fetchStopped e s
    | .ok body => fillCycle body ((if s.tile.ctl.fillLeft = 0 then n else s.tile.ctl.fillLeft) - 1) s
  else notePlain is s (bundleReady ops s)

/-- The fetch, decoding and issue of the bundle at pc. A buffer that a resume could not refill is refilled first, once its pages are
there, in one held cycle, which no rule counts: it is haltable like the page-in before it. DESIGN CHOICE, log entry 59. -/
def bundleFetch (s : State) : State :=
  match refill s.tile with
  | some (.error (e, _), ns) => fetchStopped e (notePages ns s)
  | some (.ok body, ns) => heldOrHalt (onCtl (fun c => { c with loopBuf := body }) (notePages ns s))
  | none =>
    match fetchBundle s.tile s.tile.ctl.pc with
    | .error e => fetchStopped e s
    | .ok ws =>
      let s := notePages (fetchedPages s.tile s.tile.ctl.pc ws.length) s
      match decodeBundle ws with
      | .error _ => takeFault (decodeFault ws s) s
      | .ok is => bundleDecoded ws is s

/-- What each cycle brings to the tile in focus before its bundle: landings, XMIT data, barrier releases, wakes. -/
def cycleStart (s : State) : State :=
  s |> onRegs landDue |> onEng (arriveLinks s.mod.cycle) |> releaseDue |> pollWake |> waitmTimeout

/-- BUNDLE_ISSUE (R43): one compute cycle of the tile in focus. An engine's fault that is reported between the release of a barrier and the issue
of the barrier's bundle is taken after that bundle, which its tile can no longer stop before; no rule says which comes first. DESIGN CHOICE,
log entry 77. -/
def bundleIssue (s : State) : State :=
  if s.tile.ctl.run = .running then
    let s := cycleStart s
    let c := s.tile.ctl
    if c.run ≠ .running then s
    else if !c.deferred.isEmpty && !c.barOpen then takeFaults (deferredOrder c.deferred) s
    else if c.gacc.isSome then heldOrHalt s
    else if c.bubble then idleCycle (fun c => { c with bubble := false }) s
    else bundleFetch s
  else s
def execBundleIssue (s : State) : Host.Outcome State Fault Refusal := .next (bundleIssue s)

/-- RESULT_LANDING (R49). -/
def execResultLanding (s : State) : Host.Outcome State Fault Refusal := .next (onRegs landDue s)

/-- WATCHDOG (R80): the fault, where the tile in focus stands at the boundary before a bundle that is no honoured point. -/
def watchdog (s : State) : State :=
  let t := s.tile
  if t.ctl.run = .running ∧ t.ctl.gacc.isNone ∧ t.ctl.bubble = false ∧ t.ctl.deferred.isEmpty ∧ t.ctl.fillLeft = 0 then
    match fetchBundle t t.ctl.pc with
    | .error _ => s
    | .ok ws =>
      match decodeBundle ws with
      | .error _ => s
      | .ok is => if watchdogOut (isPoint (bundleOps ws 0 is) && !boundaryInPhase s) s then takeFault (watchdogFault s) s else s
  else s
def execWatchdog (s : State) : Host.Outcome State Fault Refusal := .next (watchdog s)

/-! ## Overlay page-in (R68 to R71) -/

/-- The image a bind uses (17 R455). -/
def imageOf (vd : BitVec 8) (handle : BitVec 32) (s : State) : Option Image := (getVd vd s).images.find? (·.handle == handle)

/-- The 4,096 bytes of a page as they stand in memory: the image's, or those the host mapped (R65, R70, R71). -/
def pageBytes (vd : BitVec 8) (image : BitVec 32) (e : PageEnt) (s : State) : Option (List Byte) × State :=
  match e.mapped with
  | some a => sysRead vd a 4096 s
  | none =>
    match imageOf vd image s with
    | some i => sysRead vd (i.addr + e.offset) 4096 s
    | none => (none, s)

/-- The 512 words of a page. -/
def pageWords (bs : List Byte) : SMap Word :=
  (upTo 512).foldr (fun j m => let v := BitVec.ofNat 64 (ofBytes ((bs.drop (8 * j)).take 8)); if v = 0 then m else (j, v) :: m) []

/-- A frame for a page: one with no tag, else the least recently fetched that holds no page of `keep` (R68). A loaded frame that has
not been fetched from yet counts as the most recently fetched, which no rule says. DESIGN CHOICE, log entry 57. -/
def placeFrame (digest : BitVec 256) (keep : List Nat) (f : Frame) (fs : List Frame) : List Frame :=
  if fs.length < 32 then f :: fs
  else
    match (fs.reverse.find? fun x => !(x.digest == digest && keep.contains x.page)) with
    | some x => f :: fs.filter fun y => !(y.digest == x.digest && y.page == x.page)
    | none => f :: fs.dropLast

/-- Where a fetch of bodies stopped for a page-in: the page, and the bundle being fetched. -/
def stoppedAt (r : Except (Fetched × Word) (SMap Word)) : Option (Nat × Word) :=
  match r with
  | .error (.pageIn n, a) => some (n, a)
  | _ => none

/-- The page that holds the tile in focus, and the bundle being fetched: of a refill, of the bundle at pc, or of a fill
(R68, R82, R84). -/
def missingPage (s : State) : Option (Nat × Word) :=
  let t := s.tile
  match refill t with
  | some r => stoppedAt r.1
  | none =>
    match fetchBundle t t.ctl.pc with
    | .error e => stoppedAt (.error (e, t.ctl.pc))
    | .ok ws =>
      match decodeBundle ws with
      | .error _ => none
      | .ok is =>
        if needsFill is t.ctl then
          stoppedAt (bodyFetch t ((loopLength is).getD 0) (t.ctl.pc + BitVec.ofNat 64 (8 * ws.length))).1
        else none

/-- The pages that hold a byte of the bundle at `a`, as far as `fs` has it (R68). -/
def heldPages (t : Tile) (fs : List Frame) (a : Word) : Nat → List Nat
  | 0 => []
  | k + 1 =>
    match fetchMem { t with ctl := { t.ctl with frames := fs } } a with
    | .word w => a.toNat / 4096 :: if w.msb then [] else heldPages t fs (a + 8) k
    | _ => []

/-- OVERLAY_PAGE_IN (R68): the page that holds the tile in focus is read, checked and put into a frame, or raises FETCH cause 2. A
page whose bytes cannot be read, which no rule names, raises it too. DESIGN CHOICE, log entry 58. -/
def overlayPageIn (s : State) : State :=
  if s.tile.ctl.run = .running then
    match missingPage s with
    | none => s
    | some (n, a) =>
      match pageEnt s.tile n with
      | none => s
      | some e =>
        let p := s.tile.place
        match pageBytes p.vd p.image e s with
        | (some bs, s) =>
          if Config.shake256 bs = e.hash then
            let f : Frame := { digest := p.digest, page := n, words := pageWords bs }
            onCtl (fun c => { c with frames := placeFrame p.digest (heldPages s.tile (f :: c.frames) a 4) f c.frames }) s
          else takeFault (fetchFault 2 (firstOnPage a n)) s
        | (none, s) => takeFault (fetchFault 2 (firstOnPage a n)) s
  else s
def execOverlayPageIn (s : State) : Host.Outcome State Fault Refusal := .next (overlayPageIn s)

/-- The loop buffer of a restored tile refilled before its first bundle, with the pages it needs (R82, R434). -/
def refillNow : Nat → State → State
  | 0, s => s
  | k + 1, s =>
    match refill s.tile with
    | some (.ok body, ns) => onCtl (fun c => { c with loopBuf := body }) (notePages ns s)
    | some (.error (.pageIn _, _), ns) => refillNow k (overlayPageIn (notePages ns s))
    | _ => s

end Sys2Proof.Machine
end

