-- ==== Sys2Proof/Machine/Context.lean ====
section
/-! DEFINITION. The saved context byte for byte: the tile record and the header, written and read back: 16_preemption.md R426 to
R430, R434. -/

namespace Sys2Proof.Machine

/-! ## Tables of bytes -/

/-- A byte table from a list, zeros unlisted. -/
def packBytes : Nat → List Byte → SMap Byte
  | _, [] => []
  | n, b :: bs => if b = 0 then packBytes (n + 1) bs else (n, b) :: packBytes (n + 1) bs

/-- `n` numbers of `w` bytes each, from a function of the index. -/
def packWords (w n : Nat) (f : Nat → Nat) : SMap Byte := (upTo n).foldl (fun m j => writeB (w * j) w (f j) m) []

/-- A sparse table as `w`-byte words. -/
def packTable {α : Type} (w : Nat) (f : α → Nat) (m : SMap α) : SMap Byte := m.foldl (fun b x => writeB (w * x.1) w (f x.2) b) []

/-! ## The control block (R429, R430) -/

/-- The tile state (R430). -/
def tileStateWord (t : Tile) : BitVec 512 :=
  let c := t.ctl
  let e := t.eng
  let p := t.place
  let r := t.regs
  c.fltaddr ++ (p.pend ++ (p.schedPos ++ (p.schedN ++ (c.fltcode ++ (e.mftag ++ (e.mfcause ++
    ((e.cftag[3] ++ (e.cftag[2] ++ (e.cftag[1] ++ e.cftag[0]))) ++ ((e.cfcause[3] ++ (e.cfcause[2] ++ (e.cfcause[1] ++ e.cfcause[0]))) ++
    ((0 : BitVec 8) ++ (c.pc.extractLsb' 0 20 ++ (BitVec.ofNat 4 c.rstack.length ++ (e.cfault ++ (BitVec.ofBool e.mfault ++
    (BitVec.ofBool p.schedProg ++ (BitVec.ofBool p.posted ++ (BitVec.ofBool p.thisRun ++ ((0 : BitVec 221) ++
    (BitVec.ofBool e.pfault ++ (BitVec.ofBool e.bfault ++ (BitVec.ofBool t.mem.aovf ++ (r.rbPb ++ (r.rbVb ++ (r.fpflags ++
    (BitVec.ofBool r.ftz ++ (BitVec.ofBool (c.run == .ended || c.run == .free) ++ (BitVec.ofBool c.faulted ++ ((0 : BitVec 7) ++
    (0x01 : BitVec 8))))))))))))))))))))))))))))

/-- A loop level (R429). -/
def levelWord (l : LoopLevel) : Nat :=
  if l.active then
    l.first % 2 ^ 20 + (l.len - 1) % 64 * 2 ^ 20 + flagBit l.rotate 26 + 2 ^ 27 + flagBit l.isFirst 28 + l.count * 2 ^ 32
  else 0

def episodeWord (x : Episode) : Nat := x.count.toNat + flagBit x.arrived.isSome 16

/-- A recorded board job (R296, R429). -/
def boardWord (j : BJob) : Nat :=
  j.cardAddr + flagBit j.repair 21 + flagBit (j.win == .nowait) 22 + flagBit (j.win == .wait) 23 + 2 ^ 31

/-- A recorded copy job (R381, R429). -/
def copyWord (q : Nat) (j : CJob) : Nat := j.cardAddr + q * 2 ^ 21 + flagBit j.cpys 23 + 2 ^ 31 + j.far.toNat * 2 ^ 64

def kindCode : SqKind → Nat
  | .stg => 0
  | .red _ => 1
  | .mbxw _ => 2
  | .jdone _ => 3

/-- A recorded store (R381, R429). -/
def storeWord (e : SqEntry) : Nat :=
  let data := match e.kind with
    | .jdone r => r.toNat
    | _ => e.data.toNat
  let op := match e.kind with
    | .red o => o.code.toNat
    | _ => 0
  e.va.toNat + data * 2 ^ 64 + e.width.code.toNat * 2 ^ 128 + kindCode e.kind * 2 ^ 132 + op * 2 ^ 136 + e.order.code.toNat * 2 ^ 140
    + e.scope.code.toNat * 2 ^ 144 + e.scope.entry.toNat * 2 ^ 147 + 2 ^ 159

/-- Insertion by issue serial. -/
def bySerial (j : Nat × CJob) : List (Nat × CJob) → List (Nat × CJob)
  | [] => [j]
  | k :: ks => if j.2.serial < k.2.serial then j :: k :: ks else k :: bySerial j ks

/-- The copy jobs to record, with their queues, in issue order (R381). -/
def recordedCopies (e : Eng) : List (Nat × CJob) :=
  (e.cq.toList.zipIdx.flatMap fun q => (q.1.filter (·.st == .recorded)).map fun j => (q.2, j)).foldr bySerial []

/-- The control block (R429). -/
def controlBlock (t : Tile) : SMap Byte :=
  let e := t.eng
  let list := fun (base w : Nat) (xs : List Nat) (m : SMap Byte) => xs.zipIdx.foldl (fun m x => writeB (base + w * x.2) w x.1 m) m
  writeB 0 64 (tileStateWord t).toNat []
    |> list 0x040 8 (t.ctl.loops.toList.map levelWord)
    |> list 0x080 8 (t.ctl.rstack.reverse.map fun a => a.toNat % 2 ^ 20)
    |> list 0x0C0 4 ((upTo 32).map fun n => episodeWord (smGet {} e.epi n))
    |> list 0x140 16 (t.mem.thdr.toList.map (·.toNat))
    |> list 0x180 8 ((e.bq.take 8).map boardWord)
    |> list 0x1C0 16 (((recordedCopies e).take 64).map fun j => copyWord j.1 j.2)
    |> list 0x5C0 32 (((sqPending e.sq).take 32).map storeWord)

/-! ## The tile record (R428) -/

/-- The predicates' values: p0 is true, p1 and p2 read the loop state (R86, R105). -/
def predWord (t : Tile) : Nat :=
  (t.regs.p &&& ~~~(7 : BitVec 32)).toNat + 1 + flagBit (loopFirst t.ctl) 1 + flagBit (loopLast t.ctl) 2

/-- General registers, mp registers, S latches, predicates and lane masks, at their offsets from 0x0_1000. -/
def regsBlock (t : Tile) : SMap Byte :=
  let r := t.regs
  packWords 8 64 (fun j => (r.g.toList.getD j 0).toNat)
    ++ shiftMap 0x200 (packWords 8 8 fun j => (r.mp.toList.getD j 0).toNat)
    ++ shiftMap 0x240 (packWords 8 2 fun j => (if j = 0 then r.sa else r.sb).toNat)
    ++ shiftMap 0x250 (packWords 8 1 fun _ => predWord t)
    ++ shiftMap 0x260 (packWords 32 8 fun j => (readK r (BitVec.ofNat 3 j)).toNat)

/-- V and M latches, at their offsets from 0x0_6000. -/
def latchBlock (r : Regs) : SMap Byte := packWords 256 5 fun j => ([r.va, r.vb, r.vc, r.ma, r.mb].getD j 0).toNat

/-- What R261's layout does not hold of a Coppice entry (R428). -/
def entryExtra (e : CopEntry) : Nat :=
  e.offset + e.size * 2 ^ 20 + flagBit e.bound 40 + e.reason.toNat * 2 ^ 41 + flagBit e.refused 45

/-- Pages of a tile record (R427, R428). -/
def recordPages (c : Nat) (cp : Bool) : Nat := (0x2B000 + (0x200000 - c) + (if cp then c else 0)) / 4096

/-- A tile record (R428); of an ended tile the control block only. -/
def tileRecord (cp : Bool) (t : Tile) : SMap Byte :=
  let m := t.mem
  if t.ctl.run = .ended ∨ t.ctl.run = .free then controlBlock t
  else
    controlBlock t
      ++ shiftMap 0x01000 (regsBlock t)
      ++ shiftMap 0x02000 (packWords 256 64 fun j => (t.regs.v.toList.getD j 0).toNat)
      ++ shiftMap 0x06000 (latchBlock t.regs)
      ++ shiftMap 0x07000 (sliceMap 0 0x4000 m.spill)
      ++ shiftMap 0x0B000 (packTable 8 (·.toNat) m.tstore)
      ++ shiftMap 0x0C000 (packTable 4 (·.toNat) m.rstore)
      ++ shiftMap 0x10000 (writeB 0 4096 (m.poison.foldl (fun v b => v + flagBit b.2 b.1) 0) [])
      ++ shiftMap 0x11000 (packTable 2 (·.toNat) m.rentry)
      ++ shiftMap 0x12000 (packTable 5 (·.toNat) m.acc)
      ++ shiftMap 0x26000 (packWords 256 64 fun j => (recordHeader (t.eng.ents.toList.getD j {})).toNat)
      ++ shiftMap 0x2A000 (packWords 16 64 fun j => entryExtra (t.eng.ents.toList.getD j {}))
      ++ shiftMap 0x2B000 (sliceMap 0 (progEnd t) m.spad)
      ++ (if cp then shiftMap (0x2B000 + progEnd t) (sliceMap 0 t.place.coppice m.cpart) else [])

/-- The bytes of a record that count for the tag and for writing (R427). -/
def recordLength (t : Tile) (pages : Nat) : Nat := if t.ctl.run = .ended ∨ t.ctl.run = .free then 4096 else 4096 * pages

def recordBytes (cp : Bool) (pages : Nat) (t : Tile) : List Byte :=
  let m := tileRecord cp t
  readList m 0 (recordLength t pages)

/-! ## The header (R427) -/

/-- The header's first 64 bytes, without the tag. -/
def headerWord (b : Bind) (pages : Nat) (time : Word) (resumable : Bool) : BitVec 256 :=
  BitVec.ofNat 64 b.lapAt ++ (time ++ (b.image ++ (b.gen ++ (b.stream ++ (b.vd ++ ((0 : BitVec 6) ++ (BitVec.ofNat 10 pages ++
    ((0 : BitVec 12) ++ (BitVec.ofNat 3 (b.w - 1) ++ (BitVec.ofNat 3 (b.h - 1) ++ ((0 : BitVec 5) ++ (BitVec.ofBool resumable ++
    (BitVec.ofBool b.cp ++ (BitVec.ofBool b.fault ++ ((0 : BitVec 6) ++ (0x01 : BitVec 8))))))))))))))))

/-- The 4 KiB header with its tag over the records (R427). -/
def headerBytes (h : BitVec 256) (body : List Byte) : List Byte :=
  let low := toBytes 32 h.toNat
  let zeros := fun n => List.replicate n (0 : Byte)
  let tag := Config.kmacSave (low ++ zeros 4064 ++ body)
  low ++ toBytes 32 tag.toNat ++ zeros 4032

/-- Whether a header and records carry their tag. -/
def tagOk (hdr body : List Byte) : Bool :=
  let zeros : List Byte := List.replicate 32 0
  BitVec.ofNat 256 (ofBytes ((hdr.drop 32).take 32)) == Config.kmacSave (hdr.take 32 ++ zeros ++ hdr.drop 64 ++ body)

/-! ## Reading a record back (R434) -/

/-- A vector of `n` words of `w` bytes at `a`. -/
def vecOf (m : SMap Byte) (a w n bits : Nat) : Vector (BitVec bits) n := Vector.ofFn fun j => BitVec.ofNat bits (readB m (a + w * j.val) w)

/-- A sparse table of `n` words of `w` bytes at `a`; zeros are not listed. -/
def wordTable (m : SMap Byte) (a w n bits : Nat) : SMap (BitVec bits) :=
  (upTo n).filterMap fun j =>
    let v := BitVec.ofNat bits (readB m (a + w * j) w)
    if v = 0 then none else some (j, v)

def levelFrom (v : Nat) : LoopLevel :=
  { active := field v 27 27 == 1, first := field v 19 0, len := field v 25 20 + 1, count := field v 63 32, rotate := field v 26 26 == 1
    isFirst := field v 28 28 == 1 }

/-- A barrier arrival stands: it counts as made before every later one (R323). -/
def episodeFrom (v : Nat) : Episode :=
  { count := BitVec.ofNat 16 v, arrived := if field v 16 16 = 1 then some (none, 0) else none }

def widthFrom (v : Nat) : Width := (Width.ofCode (BitVec.ofNat 3 v)).getD .w8

/-- A recorded store. -/
def storeFrom (mbox v : Nat) : Option SqEntry :=
  if field v 159 159 = 1 then
    let va := field v 63 0
    let kind : SqKind := match field v 133 132 with
      | 0 => .stg
      | 1 => .red ((AmoOp.ofCode (BitVec.ofNat 4 (field v 139 136))).getD .add)
      | 2 => .mbxw (BitVec.ofNat 4 ((va - (mbox + 512)) / 8))
      | _ => .jdone (BitVec.ofNat 32 (field v 95 64))
    some { kind := kind, va := BitVec.ofNat 64 va, data := if field v 133 132 = 3 then 0 else BitVec.ofNat 64 (field v 127 64)
           width := widthFrom (field v 130 128), order := Order.ofCode (BitVec.ofNat 2 (field v 141 140))
           scope := (Scope.ofCode (BitVec.ofNat 3 (field v 146 144)) (BitVec.ofNat 5 (field v 151 147))).getD .system }
  else none

/-- The list of `n` recorded words of `w` bytes at `a`. -/
def wordsAt (m : SMap Byte) (a w n : Nat) : List Nat := (upTo n).map fun j => readB m (a + w * j) w

/-- A Coppice entry from R261's layout and what R428 adds. -/
def entryBack (r x : Nat) : CopEntry :=
  { entryFrom r {} with
    bound := field x 40 40 == 1, layer := BitVec.ofNat 16 (field r 159 144), vd := BitVec.ofNat 8 (field r 15 8)
    offset := field x 19 0, size := field x 39 20, reason := BitVec.ofNat 4 (field x 44 41), refused := field x 45 45 == 1 }

/-- The control block taken into a tile (R429, R430). -/
def restoreControl (m : SMap Byte) (mbox : Nat) (t : Tile) : Tile :=
  let v := readB m 0 64
  let depth := field v 267 264
  let bv := fun (n hi lo : Nat) => BitVec.ofNat n (field v hi lo)
  { t with
    regs := { t.regs with rbPb := bv 4 31 28, rbVb := bv 5 27 23, fpflags := bv 5 22 18, ftz := field v 17 17 == 1 }
    ctl := { t.ctl with
      pc := BitVec.ofNat 64 (field v 287 268), fltcode := bv 8 383 376, fltaddr := bv 64 511 448
      faulted := field v 15 15 == 1, run := if field v 16 16 = 1 then .ended else .stopped
      rstack := ((wordsAt m 0x80 8 depth).map fun a => BitVec.ofNat 64 (a % 2 ^ 20)).reverse
      loops := Vector.ofFn fun j => levelFrom (readB m (0x40 + 8 * j.val) 8) }
    mem := { t.mem with aovf := field v 32 32 == 1, thdr := vecOf m 0x140 16 4 128 }
    eng := { t.eng with
      mftag := bv 8 375 368, mfcause := bv 8 367 360, mfault := field v 259 259 == 1, pfault := field v 34 34 == 1
      bfault := field v 33 33 == 1, cfault := bv 4 263 260
      cftag := Vector.ofFn fun q => bv 8 (335 + 8 * q.val) (328 + 8 * q.val)
      cfcause := Vector.ofFn fun q => bv 8 (303 + 8 * q.val) (296 + 8 * q.val)
      epi := (wordsAt m 0xC0 4 32).zipIdx.filterMap fun x => if x.1 = 0 then none else some (x.2, episodeFrom x.1)
      sq := (wordsAt m 0x5C0 32 32).filterMap (storeFrom mbox) }
    place := { t.place with
      pend := bv 32 447 416, schedPos := bv 16 415 400, schedN := bv 16 399 384, schedProg := field v 258 258 == 1
      posted := field v 257 257 == 1, thisRun := field v 256 256 == 1 } }

/-- Lane mask 0 is hard-wired, and is kept as at launch. -/
def clearK0 (k : Vector Mask 8) : Vector Mask 8 := k.set 0 0

/-- The Coppice partition of a context saved with the flag clear, which holds none: a CPSAV of an entry whose binding was kept can write
it out, and no rule says what it then holds (R260). FREE VALUE number `k`, log entry 85. -/
def openPartition (k n : Nat) : SMap Byte := packBytes 0 ((upTo n).map (Config.undefByte k))

/-- Registers, memories and Coppice entries taken into a tile (R428). -/
def restoreBody (m : SMap Byte) (cp : Bool) (k : Nat) (t : Tile) : Tile :=
  let p := progEnd t
  { t with
    regs := { t.regs with
      g := vecOf m 0x1000 8 64 64, mp := vecOf m 0x1200 8 8 64, sa := BitVec.ofNat 64 (readB m 0x1240 8)
      sb := BitVec.ofNat 64 (readB m 0x1248 8), p := BitVec.ofNat 32 (readB m 0x1250 8) &&& ~~~7, k := clearK0 (vecOf m 0x1260 32 8 256)
      v := vecOf m 0x2000 256 64 2048, va := BitVec.ofNat 2048 (readB m 0x6000 256), vb := BitVec.ofNat 2048 (readB m 0x6100 256)
      vc := BitVec.ofNat 2048 (readB m 0x6200 256), ma := BitVec.ofNat 2048 (readB m 0x6300 256)
      mb := BitVec.ofNat 2048 (readB m 0x6400 256) }
    mem := { t.mem with
      spill := sliceMap 0x7000 0x4000 m, tstore := wordTable m 0xB000 8 512 64, rstore := wordTable m 0xC000 4 4096 32
      poison := (upTo 32768).filterMap fun b => if (smGet 0 m (0x10000 + b / 8)).getLsbD (b % 8) then some (b, true) else none
      rentry := wordTable m 0x11000 2 256 13, acc := wordTable m 0x12000 5 16384 40, spad := sliceMap 0x2B000 p m
      cpart := if cp then sliceMap (0x2B000 + p) t.place.coppice m else openPartition k t.place.coppice }
    eng := { t.eng with ents := Vector.ofFn fun e => entryBack (readB m (0x26000 + 256 * e.val) 256) (readB m (0x2A000 + 16 * e.val) 16) } }

/-- The tile of a record (R434). -/
def restoreTile (m : SMap Byte) (cp : Bool) (mbox k : Nat) (t : Tile) : Tile :=
  let t := restoreControl m mbox t
  if t.ctl.run = .ended then t else restoreBody m cp k t

/-- A recorded copy job reissued whole (R381, R434). -/
def reissueCopy (v : Nat) (s : State) : State :=
  if field v 31 31 = 1 then
    let q := BitVec.ofNat 2 (field v 22 21)
    let a := field v 20 0
    let far := BitVec.ofNat 64 (field v 127 64)
    let c := cardAt s.tile (BitVec.ofNat 64 a)
    match cardCause s.tile c far false with
    | some n => copyFault q n (cardTag c) a s
    | none =>
      let j : CJob := { card := c, far := far, cardAddr := a, cpys := field v 23 23 == 1, serial := s.tile.eng.serial
                        fp := cardRanges c, behind := s.tile.eng.sq.length }
      onEng (fun e => { e with serial := e.serial + 1 }) (onQueue q (· ++ [j]) s)
  else s

/-- A recorded board job reissued (R296). -/
def reissueBoard (v : Nat) (s : State) : State :=
  if field v 31 31 = 1 then
    enterBoard s.tile (if field v 23 23 = 1 then .wait else if field v 22 22 = 1 then .nowait else .neither) (field v 21 21 == 1)
      (field v 20 0) s
  else s

/-- Recorded copy jobs, then board jobs, of the tile in focus (R434). -/
def reissue (m : SMap Byte) (s : State) : State :=
  let s := (wordsAt m 0x1C0 16 64).foldl (fun s v => reissueCopy v s) s
  (wordsAt m 0x180 8 8).foldl (fun s v => reissueBoard v s) s

end Sys2Proof.Machine
end

