-- ==== Sys2Proof/Machine/Sched.lean ====
section
/-! DEFINITION. Placing, starting, halting, saving, discarding and resuming gangs: 15_tiles_time.md R384 to R394, R411;
16_preemption.md R419 to R438; 17_host.md R456. -/

namespace Sys2Proof.Machine

/-! ## Clusters and placement (R384 to R386) -/

/-- The clusters of a rectangle. -/
def clusterIds (col0 row0 w h : Nat) : List Nat := (upTo (w * h)).map fun j => 8 * (row0 + j / w) + col0 + j % w

def bindClusters (b : Bind) : List Nat := clusterIds b.col0 b.row0 b.w b.h

/-- Whether a record's state holds its clusters (R384). -/
def holdsClusters (b : Bind) : Bool := b.state == .running || b.state == .halting || b.state == .leaving

/-- Whether a drained cluster of a halting gang has freed (R424). -/
def goneCluster (b : Bind) (c : Nat) : Bool :=
  b.gone.any fun x => x.1 == 2 * (c / 8 - b.row0) * 4 * b.w + 4 * (c % 8 - b.col0)

/-- Whether a record holds a cluster (R384, R385, R424). -/
def holdsCluster (b : Bind) (c : Nat) : Bool := holdsClusters b && (bindClusters b).contains c && !goneCluster b c

/-- Whether a cluster is free: held by no record and not withheld (R384, R385). -/
def clusterFree (s : State) (c : Nat) : Bool := !(getCluster c s).withheld && s.binds.all fun x => !holdsCluster x.2 c

/-- Whether a rectangle lies in the grid (R386). -/
def inGrid (col0 row0 w h : Nat) : Bool := decide (col0 + w ≤ 8 ∧ row0 + h ≤ 8)

/-- The clusters of the first rectangle of a shape that has `ok` clusters only, in rising order of its origin. -/
def firstPlace (w h : Nat) (ok : Nat → Bool) : Option (List Nat) :=
  ((upTo 64).find? fun j => inGrid (j % 8) (j / 8) w h && (clusterIds (j % 8) (j / 8) w h).all ok).map fun j =>
    clusterIds (j % 8) (j / 8) w h

/-- Whether some rectangle of a shape has `ok` clusters only (R386). -/
def canPlace (w h : Nat) (ok : Nat → Bool) : Bool := (firstPlace w h ok).isSome

/-! ## Ready jobs and the Yarder's choice (R387, R390) -/

/-- A job that may be bound, or a saved gang that may resume, with its effective priority, its stream's last choice, and the TIME by
which it is to start (R387, R424). -/
structure Ready where
  vd     : BitVec 8
  stream : BitVec 16
  gen    : BitVec 16
  prio   : Nat
  served : Nat
  w      : Nat
  h      : Nat
  slot   : Option Nat
  due    : Option Nat
  deriving DecidableEq, Repr

/-- The arrival of a job at the head of its stream plus its start allowance; none without one (R387). -/
def jobDue (j : Job) : Option Nat := if j.deadline = 0 then none else j.arrived.map fun a => a.toNat + j.deadline

/-- The fields of a quota record (17 R450). -/
def qField (v : VDev) (hi lo : Nat) : Nat := field v.quota.raw.toNat hi lo
def qSlice (v : VDev) : Nat := max 1 (qField v 255 224)
def qStreams (v : VDev) : Nat := qField v 223 208
def qImages (v : VDev) : Nat := qField v 207 199
def qSessions (v : VDev) : Nat := qField v 198 186
def qPinned (v : VDev) : Nat := qField v 185 170
def qCpages (v : VDev) : Nat := qField v 154 147
def qEntries (v : VDev) : Nat := qField v 146 140
def qClusters (v : VDev) : Nat := qField v 139 133
def qSlots (v : VDev) : Nat := qField v 132 126
def qWmax (v : VDev) : Nat := qField v 125 123 + 1
def qHmax (v : VDev) : Nat := qField v 122 120 + 1
def qPmax (v : VDev) : Nat := qField v 119 117

/-- The bind records of a device, with their slots. -/
def bindsOf (vd : BitVec 8) (s : State) : List (Nat × Bind) := s.binds.filter fun x => x.2.state != .empty && x.2.vd == vd

/-- Clusters that a device's records hold or are to hold. -/
def clustersOf (vd : BitVec 8) (s : State) : Nat :=
  ((bindsOf vd s).filter fun x => x.2.state != .saved).foldl (fun n x => n + x.2.w * x.2.h) 0

/-- Whether a device's quotas admit a further record of a shape; `fresh` where it takes a slot (17 R450). -/
def quotaRoom (vd : BitVec 8) (w h : Nat) (fresh : Bool) (s : State) : Bool :=
  let v := getVd vd s
  decide (clustersOf vd s + w * h ≤ qClusters v ∧ w ≤ qWmax v ∧ h ≤ qHmax v)
    && (!fresh || decide ((bindsOf vd s).length < qSlots v))

/-- Whether a device's quotas admit a shape at all (17 R450). -/
def shapeAdmitted (v : VDev) (w h : Nat) : Bool := decide (w ≤ qWmax v ∧ h ≤ qHmax v ∧ w * h ≤ qClusters v)

/-- The head job of a stream: its first whose gang has not left (R17). -/
def headJob (st : StreamSt) : Option Job := st.jobs.find? fun j => !j.left

/-- What is ready of a stream (R390): its head job where that holds no slot, or its saved gang. -/
def readyOf (vd : BitVec 8) (st : StreamSt) (s : State) : Option Ready :=
  match headJob st with
  | none => none
  | some j =>
    match j.slot with
    | none =>
      match imageOf vd j.image s with
      | some i =>
        some { vd := vd, stream := st.num, gen := j.gen, prio := j.prio, served := st.served, w := i.w, h := i.h, slot := none
               due := jobDue j }
      | none => none
    | some k =>
      let b := getBind k s
      if b.state = .saved ∧ b.await = false then
        some { vd := vd, stream := st.num, gen := j.gen, prio := b.prio, served := st.served, w := b.w, h := b.h, slot := some k
               due := none }
      else none

/-- The ready jobs of every device. -/
def readyJobs (s : State) : List Ready :=
  s.vds.flatMap fun v => if mayRun v.2 then v.2.streams.filterMap fun st => readyOf (BitVec.ofNat 8 v.1) st s else []

/-- Whether the quotas let a ready job be bound; a saved gang of a shape no longer admitted is bound to be refused (R438). -/
def admitted (s : State) (r : Ready) : Bool :=
  quotaRoom r.vd r.w r.h r.slot.isNone s || (r.slot.isSome && !shapeAdmitted (getVd r.vd s) r.w r.h)

/-- Whether a ready job could be placed now. -/
def placeable (s : State) (r : Ready) : Bool := canPlace r.w r.h (clusterFree s) && admitted s r

/-- Whether the Yarder may choose `r`: no placeable job has a higher priority, or an equal one and an earlier turn (R390). -/
def mayChoose (s : State) (r : Ready) : Bool :=
  (readyJobs s).all fun q => !(placeable s q && (decide (r.prio < q.prio) || (q.prio == r.prio && decide (q.served < r.served))))

/-- The stream marked as chosen. -/
def markServed (vd : BitVec 8) (stream : BitVec 16) (s : State) : State :=
  let n := s.mod.chosen + 1
  onMod (fun m => { m with chosen := n })
    (modVd vd (fun v => { v with streams := v.streams.map fun st => if st.num = stream then { st with served := n } else st }) s)

/-- The bind record of a job (R387). -/
def newBind (vd : BitVec 8) (st : StreamSt) (j : Job) (i : Image) (col0 row0 : Nat) (s : State) : Bind :=
  { save := j.save, scope := i.scopeAt, mbox := j.mbox, jcb := j.jcb, deadline := j.deadline
    slice := qSlice (getVd vd s), image := j.image, gen := j.gen, stream := st.num, vd := vd, col0 := col0, row0 := row0
    w := i.w, h := i.h, prio := j.prio, base := st.prio, waited := j.waited, state := .bound, nd := j.nd, cp := j.cp, la := j.la
    digest := i.digest, pages := i.pages }

/-- The module enters Active as a bind record becomes bound (18 R480). -/
def activate (s : State) : State := if s.mod.power = .calm then onMod (fun m => { m with power := .active, entering := false, idleSince := m.time }) s else s

/-- Whether the Yarder may bind: not in Doldrums, nor before the start or after a fatal error (18 R478, R487). -/
def powered (m : Mod) : Bool := m.power == .active || m.power == .calm

/-- The Yarder withdraws a choice that has not started: the slot is empty and the job is ready again (R388). -/
def withdraw (slot : Nat) (s : State) : State :=
  let b := getBind slot s
  modBind slot (fun _ => {}) (modJob b.vd b.stream b.gen (fun j => { j with slot := none, agedAt := s.mod.time }) s)

/-- A ready job `q` takes an empty slot, or a saved gang its own again. -/
def takeSlot (slot : Nat) (st : StreamSt) (q : Ready) (c r : Nat) (s : State) : State :=
  if !(inGrid c r q.w q.h && powered s.mod && admitted s q && mayChoose s q) then s
  else
    match q.slot with
    | some k =>
      if k = slot then
        markServed q.vd q.stream (modBind slot (fun b => { b with state := .bound, col0 := c, row0 := r }) (activate s))
      else s
    | none =>
      match headJob st, (headJob st).bind fun j => imageOf q.vd j.image s with
      | some j, some i =>
        if slot < 64 ∧ (getBind slot s).state = .empty then
          let s := modBind slot (fun _ => newBind q.vd st j i c r s) (activate s)
          markServed q.vd q.stream (modJob q.vd q.stream j.gen (fun j => { j with slot := some slot }) s)
        else s
      | _, _ => s

/-- YARDER_BIND (R386, R388, R390): the Yarder writes slot `slot` for a stream: another origin for the record bound there, or the choice
of the stream's ready job; an earlier choice for the slot that has not started is withdrawn. -/
def yarderBind (slot : Nat) (vd : BitVec 8) (stream : BitVec 16) (col0 row0 : BitVec 3) (s : State) : State :=
  let b := getBind slot s
  let c := col0.toNat
  let r := row0.toNat
  if b.state = .bound ∧ b.vd = vd ∧ b.stream = stream then
    if inGrid c r b.w b.h then modBind slot (fun b => { b with col0 := c, row0 := r }) s else s
  else if !mayRun (getVd vd s) then s
  else
    let s := if b.state = .bound ∧ b.started = false then withdraw slot s else s
    match (getVd vd s).streams.find? (·.num == stream) with
    | none => s
    | some st =>
      match readyOf vd st s with
      | none => s
      | some q => takeSlot slot st q c r s
def execYarderBind (slot : Nat) (vd : BitVec 8) (stream : BitVec 16) (col0 row0 : BitVec 3) (s : State) :
    Host.Outcome State Fault Refusal := .next (yarderBind slot vd stream col0 row0 s)

/-! ## Ageing and slices (R390, R392 to R394) -/

/-- One span of `slice` ticks waited (R390): the new count and priority. -/
def aged (waited prio : Nat) : Nat × Nat := if waited + 1 = 16 then (0, min 7 (prio + 1)) else (waited + 1, prio)

/-- PRIORITY_AGEING: a span of slice ticks has passed with the stream's job ready but unbound. -/
def priorityAgeing (vd : BitVec 8) (stream : BitVec 16) (s : State) : State :=
  let v := getVd vd s
  let n := qSlice v
  match v.streams.find? (·.num == stream) with
  | none => s
  | some st =>
    match readyOf vd st s, headJob st with
    | some q, some j =>
      match q.slot with
      | none =>
        if j.agedAt.toNat + n ≤ s.mod.time.toNat then
          let a := aged j.waited j.prio
          modJob vd stream j.gen (fun j => { j with waited := a.1, prio := a.2, agedAt := j.agedAt + BitVec.ofNat 64 n }) s
        else s
      | some k =>
        let b := getBind k s
        if b.agedAt.toNat + b.slice ≤ s.mod.time.toNat then
          let a := aged b.waited b.prio
          modBind k (fun b => { b with waited := a.1, prio := a.2, agedAt := b.agedAt + BitVec.ofNat 64 b.slice }) s
        else s
    | _, _ => s
def execPriorityAgeing (vd : BitVec 8) (stream : BitVec 16) (s : State) : Host.Outcome State Fault Refusal :=
  .next (priorityAgeing vd stream s)

/-- Whether a slice has ended: its budget of 15 cycles a tick, twice its ticks of wall time, or a YIELD (R392, R394). -/
def sliceOver (b : Bind) (time : Word) : Bool :=
  decide (15 * b.slice ≤ b.runc.toNat) || decide (2 * b.slice ≤ (time - b.start).toNat) || b.yielded

/-- Whether some rectangle of a shape has `ok` clusters only, one of `own` among them. -/
def canUse (w h : Nat) (ok : Nat → Bool) (own : List Nat) : Bool :=
  (upTo 64).any fun j =>
    let cs := clusterIds (j % 8) (j / 8) w h
    inGrid (j % 8) (j / 8) w h && cs.all ok && cs.any own.contains

/-- The first of the ready jobs of highest priority. -/
def bestReady (qs : List Ready) : Option Ready :=
  qs.foldl (fun b q => match b with | none => some q | some x => if x.prio < q.prio then some q else b) none

/-- The ready job, of at least priority `prio`, for which the Yarder takes clusters of record `slot` at its slice end: one that can use
them (R392). -/
def wanted (s : State) (slot : Nat) (b : Bind) (prio : Nat) : Option Ready :=
  let own := bindClusters b
  bestReady ((readyJobs s).filter fun q =>
    decide (prio ≤ q.prio) && q.slot != some slot && (admitted s q || q.vd == b.vd)
      && canUse q.w q.h (fun c => clusterFree s c || own.contains c) own)

/-- SLICE_END: prio returns to base; the gang is pre-empted, at a lap boundary under la, or its slice renewed (R390, R392, R393). With the Flume
idle no boundary comes, and the halt is requested at once under la too, as R391 has it for its own. DEDUCED, log entry 115. -/
def sliceEnd (slot : Nat) (s : State) : State :=
  let b := getBind slot s
  if b.state = .running ∧ sliceOver b s.mod.time then
    let s := modBind slot (fun b => { b with prio := b.base }) s
    match wanted s slot b b.base with
    | some q =>
      let s := modBind slot (fun b => { b with due := q.due }) s
      if b.la && topLen s.flume != 0 then modBind slot (fun b => { b with planned := true }) s else haltGang slot s
    | none => modBind slot (fun b => { b with start := s.mod.time, runc := 0, yielded := false }) s
  else s
def execSliceEnd (slot : Nat) (s : State) : Host.Outcome State Fault Refusal := .next (sliceEnd slot s)

/-! ## Halting (R77, R419, R423) -/

/-- The syllables of the bundle at pc, where it can be fetched and decoded. -/
def opsAtPc (s : State) : Option (List SlotOp) :=
  match fetchBundle s.tile s.tile.ctl.pc with
  | .error _ => none
  | .ok ws =>
    match decodeBundle ws with
    | .error _ => none
    | .ok is => some (bundleOps ws 0 is)

/-- TILE_HALT: a tile that was asked to halts where R77 lets it: held on a global access or a page-in, before a point bundle, or in
another haltable hold, which leaves behind what reaching issue leaves; faults that wait for the boundary are taken (R415). -/
def tileHalt (s : State) : State :=
  let c := s.tile.ctl
  if c.run ≠ .running ∨ mayHalt s = false then s
  else if !c.deferred.isEmpty then takePending s
  else if c.gacc.isSome then onTile haltTile s
  else if c.bubble || c.fillLeft != 0 then s
  else if (missingPage s).isSome then onTile haltTile s
  else
    match opsAtPc s with
    | some ops => if isPoint ops then onTile haltTile s else if haltableHold ops s then haltHeld ops s else s
    | none => s
def execTileHalt (s : State) : Host.Outcome State Fault Refusal := .next (tileHalt s)

/-! ## The estimator (R424, R425) -/

/-- The region indices of a bind's tiles, cluster by cluster. -/
def clusterIdx (b : Bind) : List (List Nat) :=
  (upTo (b.w * b.h)).map fun c => (upTo 8).map fun j => (2 * (c / b.w) + j / 4) * 4 * b.w + 4 * (c % b.w) + j % 4

/-- The tile of a region index. -/
def tileOf (b : Bind) (j : Nat) : Nat := tileAt b (j % (4 * b.w)) (j / (4 * b.w))

def hasEnded (t : Tile) : Bool := t.ctl.run == .ended || t.ctl.run == .free

/-- Ticks for `n` cycles, bytes at 32 GB/s, and an untranslated page (R425). -/
def cycleTicks (n : Nat) : Nat := (n + 14) / 15
def byteTicks (n : Nat) : Nat := (n + 319) / 320
def pageTicks : Nat := 200

/-- Panel steps left to a running routine by its RPT counters. -/
def stepsLeft (r : Option MRun) : Nat :=
  match r with
  | none => 1
  | some r => max 1 ((r.l0.map (·.left)).getD 1) * max 1 ((r.l1.map (·.left)).getD 1)

/-- The drain of a matrix job. -/
def estMatrix (t : Tile) (r : Option MRun) (j : MJob) : Nat :=
  let call := fun (c : MCallSnap) => cycleTicks (stepsLeft r * (32 * c.pa + 2 * (c.pa + c.pb) + 5))
  match j with
  | .call c | .calld c => call c
  | .cpsav a _ | .cprst a _ => byteTicks (256 + (t.eng.ents.toList.getD (a.toNat % 64) {}).size)
  | .mldr _ _ | .cpbind _ _ | .cpinv _ => 0

/-- The page that holds an address of a device, as its leaf gives it; the 4 KiB granule where it has none. -/
def pageOf (vd : BitVec 8) (va : Nat) (s : State) : Nat :=
  match (walk vd va s).1 with
  | .leaf e _ _ => e.base
  | .fail _ => va / 4096 * 4096

/-- The far granules of the runs of a job from run `r` on. -/
def farGranules (j : CJob) (r : Nat) : List Nat :=
  let c := j.card
  (upTo (cardCnt1 c * cardCnt2 c - r)).flatMap fun k =>
    let i := r + k
    let f := (farBase c j.far + (i / cardCnt1 c : Nat) * cardF2 c + (i % cardCnt1 c : Nat) * cardF1 c).toNat
    (upTo ((f + cardLen0 c - 1) / 4096 - f / 4096 + 1)).map fun n => 4096 * (f / 4096 + n)

/-- The pages that a copy job's bytes still touch and that no entry of its cluster's cache translates. -/
def missingPages (s : State) (p : Nat) (t : Tile) (j : CJob) : SMap Bool :=
  let tlb := (getCluster (clusterOf p) s).tlb
  (farGranules j (j.moved / cardLen0 j.card)).foldl (fun m va =>
    if tlb.any fun e => e.vd == t.place.vd && decide (e.base ≤ va ∧ va < e.base + e.size) then m
    else smSet (pageOf t.place.vd va s) true m) []

/-- The drain of a copy job: its bytes, and each page of theirs that is not translated. -/
def estCopy (s : State) (p : Nat) (t : Tile) (j : CJob) : Nat :=
  byteTicks (cardTotal j.card - j.moved) + if cardDir j.card < 2 then pageTicks * (missingPages s p t j).length else 0

/-- The sum over a tile's queues. -/
def estTile (s : State) (p : Nat) : Nat :=
  let t := getTile p s
  t.eng.mq.zipIdx.foldl (fun n j => n + estMatrix t (if j.2 = 0 then t.eng.mrun else none) j.1.job) 0
    + t.eng.cq.toList.foldl (fun n q => q.foldl (fun n j => n + estCopy s p t j) n) 0

/-- est_drain of a cluster, by its tiles. -/
def estDrain (s : State) (ps : List Nat) : Nat := ps.foldl (fun n p => max n (estTile s p)) 0

/-- Bytes of a tile's context. -/
def contextBytes (cp : Bool) (t : Tile) : Nat := recordLength t (recordPages t.place.coppice cp)

/-- est_save of a cluster. -/
def estSave (cp : Bool) (s : State) (ps : List Nat) : Nat :=
  estDrain s ps + byteTicks (ps.foldl (fun n p => n + contextBytes cp (getTile p s)) 0)

/-! ## Pre-emption by priority (R391) -/

/-- The ticks a halt may take, 5 µs (R423), and an arriving gang's start, 40 µs (R424). -/
def haltTicks : Nat := 500
def startTicks : Nat := 4000

/-- Whether a cluster that none of `taken` is, is free, or is held by a gang of which `f` is true. -/
def freeOrOf (s : State) (taken : List Nat) (f : Bind → Bool) (c : Nat) : Bool :=
  !taken.contains c && (clusterFree s c || (!(getCluster c s).withheld && s.binds.any fun x => f x.2 && holdsCluster x.2 c))

/-- Whether a gang halts. -/
def comesDown (b : Bind) : Bool := b.state == .halting

/-- Whether a gang is to halt at a time that serves `q`: by its own plan where `q` has no deadline, since both come with the lap boundary;
otherwise one whose halt `q` may bring forward (R391). -/
def plannedFor (q : Ready) (b : Bind) : Bool := comesDown b || (b.state == .running && b.planned && (q.due.isNone || decide (b.prio < q.prio)))

/-- Whether a gang makes room once the running gangs of priority `p` at most are pre-empted. -/
def yieldsAt (q : Ready) (p : Nat) (b : Bind) : Bool := plannedFor q b || (b.state == .running && decide (b.prio ≤ p))

/-- The rectangle that the Yarder makes for `q` beside the clusters `taken`: that of gangs which halt already, or halt anyway, or the running
gangs of lowest priority make room for it (R391). Which of several rectangles, no rule says: the first. DESIGN CHOICE, log entry 92. -/
def roomFor (s : State) (taken : List Nat) (q : Ready) : Option (List Nat) :=
  (firstPlace q.w q.h (freeOrOf s taken comesDown)).orElse fun _ =>
    (firstPlace q.w q.h (freeOrOf s taken (plannedFor q))).orElse fun _ =>
      (upTo q.prio).findSome? fun p => firstPlace q.w q.h (freeOrOf s taken (yieldsAt q p))

/-- Whether `q` may be bound where the rectangle `cs` is free: its device's quota has room, or gangs of the device hold some of it. -/
def mayTake (s : State) (q : Ready) (cs : List Nat) : Bool :=
  admitted s q || s.binds.any fun b => b.2.vd == q.vd && cs.any (holdsCluster b.2)

/-- The clusters that one ready job after another takes for its rectangle, after `taken` (R391). -/
def takeRooms (s : State) (taken : List Nat) (qs : List Ready) : List Nat :=
  qs.foldl (fun taken q => match roomFor s taken q with
    | some cs => if mayTake s q cs then taken ++ cs else taken
    | none => taken) taken

/-- The ready jobs by falling priority (R390). -/
def rankedJobs (s : State) : List Ready := (upTo 8).reverse.flatMap fun p => (readyJobs s).filter (·.prio == p)

/-- The clusters that the ready jobs before `q` take: no two jobs are made room for in one place. That the room of one counts for no other no
rule says. DESIGN CHOICE, log entry 92. -/
def takenBefore (s : State) (q : Ready) : List Nat := takeRooms s [] ((rankedJobs s).takeWhile (· != q))

/-- Whether the Yarder pre-empts the gang of record `b` for `q`: of higher priority, with no room of its own to come from gangs that halt
already, and the rectangle it makes takes clusters of this gang (R391). -/
def preempts (s : State) (b : Bind) (q : Ready) : Bool :=
  let taken := takenBefore s q
  decide (b.prio < q.prio) && (admitted s q || q.vd == b.vd) && !canPlace q.w q.h (freeOrOf s taken comesDown)
    && (roomFor s taken q).any fun cs => cs.any (bindClusters b).contains

/-- The latest TIME of a halt that lets an arriving job start by `due` (R391): less the halt bound, the save's estimate and the
start. -/
def latestHalt (s : State) (b : Bind) (due : Nat) : Nat :=
  due - (haltTicks + startTicks + (clusterIdx b).foldl (fun n js => max n (estSave b.cp s (js.map (tileOf b)))) 0)

/-- The earlier of two times that may be unbounded. -/
def sooner (a b : Option Nat) : Option Nat :=
  match a, b with
  | some x, some y => some (min x y)
  | some x, none | none, some x => some x
  | none, none => none

/-- A gang's halt planned for `q`: at the next lap boundary, or by the latest moment that lets `q` start in time; one that is planned already
comes no later (R391). -/
def planHalt (s : State) (q : Ready) (b : Bind) : Bind :=
  let by_ := q.due.map (latestHalt s b)
  if b.planned then { b with due := sooner b.due q.due, haltBy := sooner b.haltBy by_ }
  else { b with planned := true, due := q.due, haltBy := by_ }

/-- The ready jobs for which the Yarder pre-empts the gang of record `slot`, whatever is planned for it already. -/
def preemptors (slot : Nat) (s : State) : List Ready := (readyJobs s).filter (preempts s (getBind slot s))

/-- A gang's halt planned for each of several jobs: it serves the earliest of them. -/
def planHalts (s : State) (qs : List Ready) (b : Bind) : Bind := qs.foldl (fun b q => planHalt s q b) b

/-- HALT_REQUEST (R391): the Yarder pre-empts a running gang for ready jobs of higher priority: at once where the Flume is idle, else at
the next lap boundary or by a job's deadline, whichever is earlier. -/
def haltRequest (slot : Nat) (s : State) : State :=
  if (getBind slot s).state ≠ .running then s
  else
    let qs := preemptors slot s
    let u := if qs.isEmpty then s else modBind slot (planHalts s qs) s
    if (!qs.isEmpty && topLen s.flume == 0) || (getBind slot u).haltBy.any (decide <| · ≤ s.mod.time.toNat) then haltGang slot u else u
def execHaltRequest (slot : Nat) (s : State) : Host.Outcome State Fault Refusal := .next (haltRequest slot s)

/-! ## The clusters' choice (R424) -/

/-- What a cluster chooses (R424). -/
inductive Choice where
  | drain | save | discard
  deriving DecidableEq, Repr

/-- The remaining allowance R: `due` is the arriving job's arrival plus its deadline; none where it is unbounded. -/
def allowanceLeft (due : Option Nat) (time : Word) : Option Int := due.map fun d => (d : Int) - time.toNat - startTicks

/-- The remaining allowance of a gang that has stopped: unbounded after a fault or a trap. -/
def allowance (b : Bind) (time : Word) : Option Int := if b.fault then none else allowanceLeft b.due time

def choose (b : Bind) (r : Option Int) (s : State) (ps : List Nat) : Choice :=
  if ps.all fun p => hasEnded (getTile p s) then .drain
  else
    match r with
    | none => .save
    | some r => if b.nd || decide ((estSave b.cp s ps : Int) ≤ r) then .save else .discard

/-- Board jobs are cancelled at the halt, to be recorded (R296). -/
def recordBoards (t : Tile) : Tile :=
  { t with eng := { t.eng with bq := t.eng.bq.map fun j => { j with st := .recorded } } }

/-- The clusters that chose drain free as far as their tiles are freed already. -/
def freeDrainedNow (js : List Nat) (b : Bind) (s : State) : State := eachTile (js.map (tileOf b)) freeDrained s

/-- The choice of a gang's clusters under the remaining allowance `r`, and what follows from it (R385, R424). -/
def clustersChoose (slot : Nat) (r : Option Int) (s : State) : State :=
  let b := getBind slot s
  let cs := (clusterIdx b).map fun js => (js, choose b r s (js.map (tileOf b)))
  let s := modBind slot (fun b => { b with lapAt := lapOf s.flume (tileAt b 0 0) }) s
  if cs.all (·.2 == .drain) then
    let s := modBind slot (fun b => { b with state := .leaving, halt := false }) s
    if (gangTiles b).all fun p => (getTile p s).ctl.run == .free then gangLeave slot s else s
  else if cs.any (·.2 == .discard) then modBind slot (fun b => { b with decided := true, discard := true }) s
  else
    let live := (cs.filter (·.2 == .save)).flatMap (·.1)
    let drained := (cs.filter (·.2 == .drain)).flatMap (·.1)
    modBind slot (fun b => { b with decided := true, ended := drained }) s
      |> overTiles (live.map (tileOf b)) recordBoards
      |> freeDrainedNow drained b

/-- Whether a tile has stopped issuing, and its trap is posted: a tile that waits to post one, behind an earlier store, posts it first, as R100
has it, in a halt that something else brought too. DEDUCED, log entry 69. -/
def hasStopped (t : Tile) : Bool := t.ctl.run != .running && t.ctl.trapped.isNone

/-- GANG_STOPPED (R424): the gang of record `slot` has stopped issuing and its clusters choose, `r` being the remaining allowance. No such step
is due with an allowance that is not the gang's. -/
def gangStopped (slot : Nat) (r : Option Int) (s : State) : State :=
  let b := getBind slot s
  if b.state = .halting ∧ b.decided = false ∧ ((gangTiles b).all fun p => hasStopped (getTile p s)) ∧ r = allowance b s.mod.time then
    clustersChoose slot r s
  else s
def execGangStopped (slot : Nat) (r : Option Int) (s : State) : Host.Outcome State Fault Refusal := .next (gangStopped slot r s)

/-! ## Records of a save area (R432, R433) -/

/-- A fault record of a bind that concerns no tile: engine 0, x and y zero; no rule states its pc. -/
def bindRecord (b : Bind) (code : BitVec 8) (addr : Word) (cause : Nat) (resumable : Bool) (detail : BitVec 256) (slot : Nat)
    (s : State) : State :=
  let hdr := faultHeader s.mod.time addr ((Config.openAddr s.fresh).toNat % 2 ^ 20) resumable 0 b.stream b.gen 0 0 code 0 cause
    (min b.seq 255)
  queueRec b.vd 1 { slots := [hdr, detail] } { s with fresh := s.fresh + 1 }
    |> modBind slot fun b => { b with seq := b.seq + 1 }

/-- The XLATE or POISON record of a save area or mailbox: source 10 for a save, 11 for a restore. -/
def areaRecord (b : Bind) (x : XFault) (va : Nat) (source slot : Nat) (s : State) : State :=
  let va := BitVec.ofNat 64 va
  bindRecord b x.code va (if x.code = 0x05 then x.cause else 0) false (xDetail x va 0 source) slot s

/-! ## Saving (R426, R431, R432) -/

/-- A tile's schedule cursor and posted mark as a restart keeps them (R406, R411). -/
def keptOf (t : Tile) : BitVec 16 × Bool :=
  let p := t.place
  (if p.schedProg then p.schedPos - 1 else p.schedPos,
   p.posted && !(t.eng.sq.any fun e => match e.kind with | .jdone _ => true | _ => false))

/-- The tile of region index `j`, as it was when its cluster freed where that has been (R424). -/
def memberTile (b : Bind) (s : State) (j : Nat) : Tile :=
  match b.gone.find? (·.1 == j) with
  | some x => x.2
  | none => getTile (tileOf b j) s

def keptAll (b : Bind) (s : State) : List (Nat × BitVec 16 × Bool) :=
  (upTo (8 * b.w * b.h)).map fun j => (j, keptOf (memberTile b s j))

/-- Whether a port holds a store that the tile issued before a copy job. -/
def storeStands (t : Tile) (j : CJob) : Bool := (t.eng.sq.take j.behind).any fun e => standing e.wb

/-- A copy job with a held write, or with global writes that wait behind a held store, which no rule names, is cancelled, to be recorded (R307,
R381). DESIGN CHOICE, log entry 91. -/
def recordHeld (t : Tile) (j : CJob) : CJob :=
  if (standing j.wb || (relHeld t j && storeStands t j)) && j.st == .running && j.packets == 0 && !allMoved j then { j with st := .recorded } else j

def recordCopies (t : Tile) : Tile := { t with eng := { t.eng with cq := t.eng.cq.map fun q => q.map (recordHeld t) } }

/-- Whether a job has only its completion left, which waits behind a store that a port holds: it has drained, and the bind record keeps it
(R309, R315). DESIGN CHOICE, log entry 31. -/
def updateStands (t : Tile) (j : CJob) : Bool := j.st == .running && allMoved j && updateHeld t j && storeStands t j

/-- Whether a copy job does not delay a save: to be recorded, or kept. -/
def copySettled (t : Tile) (j : CJob) : Bool := j.st == .recorded || updateStands t j

/-- Whether a live tile has drained what a save drains, and the access it is held on has completed (R77, R381, R431). -/
def drainedTile (s : State) (p : Nat) : Bool :=
  let t := getTile p s
  t.ctl.gacc.isNone && t.eng.mq.isEmpty && t.eng.cq.toList.all (fun q => q.all (copySettled t))
    && t.eng.bq.all (·.st == .recorded) && t.eng.sq.all (!·.done) && (upTo t.eng.sq.length).all (!sqReady (focusOn p s) ·)
    && s.packets.all (·.src != p) && t.ctl.trapped.isNone && t.eng.stage.isEmpty

/-- A kept copy job of an ended tile begins again, as on any resume (R381); of another, only its completion is left. -/
def keptJob (j : CJob) : CJob := if j.st = .recorded then { j with st := .waiting, moved := 0, wb := none } else { j with wb := none }

/-- What a tile leaves with its bind record at a save: the copy jobs that are not recorded, and of an ended tile, whose record has no
memories, all of them with the memories. -/
def carryOf (t : Tile) : Carry :=
  let done := hasEnded t
  let jobs := t.eng.cq.map fun q => (q.filter fun j => done || j.st != .recorded).map keptJob
  { jobs := jobs
    mem := if done && jobs.toList.any (! ·.isEmpty) then t.mem else {} }

/-- The same of every tile of a bind that leaves something. -/
def carryAll (b : Bind) (s : State) : SMap Carry :=
  ((upTo (8 * b.w * b.h)).map fun j => (j, carryOf (memberTile b s j))).filter fun x => x.2 != {}

/-- A tile as its record holds it: entries are cleared where the Coppice flag is clear (R260). -/
def settle (cp : Bool) (t : Tile) : Tile :=
  if cp then t else { t with eng := clearEnts none t.eng }

/-- The hints of a bind's own accesses to its save area and mailbox. -/
def saveHints (slot : Nat) (b : Bind) : Hints := { slot := some slot, vd := b.vd }

/-- Bytes written to a save area from `va` on, at a cluster's port, in pieces of 256. -/
def writePieces (c : Nat) (h : Hints) : Nat → Nat → List Byte → State → GOut
  | 0, _, _, s => .done [] s
  | n + 1, va, bs, s =>
    match gWrite c h.vd va (bs.take 256) h s with
    | .done _ s => writePieces c h n (va + 256) (bs.drop 256) s
    | o => o

/-- Bytes read from a save area or mailbox. -/
def readPieces (c : Nat) (h : Hints) : Nat → Nat → List Byte → State → GOut
  | 0, _, acc, s => .done acc s
  | n + 1, va, acc, s =>
    match gRead c h.vd va 256 h s with
    | .done bs s => readPieces c h n (va + 256) (acc ++ bs) s
    | o => o

/-- The tile record of region index `j`. -/
def recordVa (b : Bind) (pages j : Nat) : Nat := b.save + 4096 + j * pages * 4096

def saveRecords (h : Hints) (b : Bind) (pages : Nat) : List Nat → State → GOut
  | [], s => .done [] s
  | j :: js, s =>
    let t := memberTile b s j
    match writePieces (clusterOf (tileOf b j)) h (recordLength t pages / 256) (recordVa b pages j) (recordBytes b.cp pages t) s with
    | .done _ s => saveRecords h b pages js s
    | o => o

/-- Pages of each tile record of a bind (R427). -/
def savePages (b : Bind) (s : State) : Nat := recordPages (memberTile b s 0).place.coppice b.cp

/-- The records, then the header with its tag (R431). -/
def saveAll (h : Hints) (b : Bind) (s : State) : GOut :=
  let js := upTo (8 * b.w * b.h)
  let pages := savePages b s
  let body := js.flatMap fun j => recordBytes b.cp pages (memberTile b s j)
  match saveRecords h b pages js s with
  | .done _ s =>
    writePieces (clusterOf (tileAt b 0 0)) h 16 b.save (headerBytes (headerWord b pages s.mod.time b.resumable) body) s
  | o => o

/-- The page address at which an access of a save area failed: the first that does not translate. -/
def failVa (b : Bind) (lo n : Nat) (reads : Bool) (s : State) : Nat :=
  match ((upTo ((n + 255) / 256)).map fun j => lo + 256 * j).find? fun a => !(sysOk b.vd a 256 reads (!reads) s).1 with
  | some a => a
  | none => lo

/-- A bind whose context is saved, its clusters free (R385, R419, R431). -/
def enterSaved (slot : Nat) (b : Bind) (resumable : Bool) (s : State) : State :=
  let kept := keptAll b s
  let carry := carryAll b s
  s |> freeClusters slot
    |> modBind slot fun b => { b with state := .saved, carry := carry, halt := false, decided := false, discard := false, ended := [], resume := true
                                      resumable := resumable, await := b.fault, kept := kept, agedAt := s.mod.time
                                      yielded := false, saveHeld := none, saveBad := false, gone := [], due := none }

/-- A save whose next write is held: from `s` it is tried again; where it waits for a pool page and is another than the last that did, it is
counted, in `u` (R467). -/
def saveBlocked (slot : Nat) (h : Hold) (s u : State) : State :=
  let b := getBind slot s
  if b.saveHeld = some h.base ∨ h.snap = false then s else noteSnapHold b.vd (modBind slot (fun b => { b with saveHeld := some h.base }) u)

/-- The header alone of a save that has failed after a fault, and the saved state (R432); its write may have to wait (R378, R467). -/
def saveHeader (slot : Nat) (s : State) : State :=
  let b := getBind slot s
  match writePieces (clusterOf (tileAt b 0 0)) (saveHints slot b) 16 b.save
      (headerBytes (headerWord b (savePages b s) s.mod.time false) []) s with
  | .done _ s | .fail _ s => enterSaved slot b false s
  | .wait s => s
  | .block h u => saveBlocked slot h s u

/-- A save that cannot write its area (R432): a discard, or after a fault a saved state that holds only the header. -/
def saveFailed (slot : Nat) (b : Bind) (x : XFault) (va : Nat) (s : State) : State :=
  let s := areaRecord b x va 10 slot s
  if b.fault then saveHeader slot (modBind slot (fun b => { b with saveBad := true, saveHeld := none, resumable := false }) s)
  else modBind slot (fun b => { b with discard := true, resumable := false }) s

/-- CONTEXT_SAVE (R431): the gang of record `slot` has chosen to save; once its engines have drained, its entries are treated, its pins
are released and its context is written. -/
def contextSave (slot : Nat) (s : State) : State :=
  let b := getBind slot s
  if b.saveBad then saveHeader slot s
  else if b.state = .halting ∧ b.decided ∧ b.discard = false then
    let live := (upTo (8 * b.w * b.h)).filter (! b.ended.contains ·)
    let ps := live.map (tileOf b)
    let s := overTiles ps recordCopies s
    if ps.all (drainedTile s) && b.ended.all fun j => (memberTile b s j).ctl.run == .free then
      let s1 := releasePins slot (overTiles ps (settle b.cp) s)
      match saveAll (saveHints slot b) b s1 with
      | .done _ s2 => enterSaved slot b b.resumable s2
      | .fail x s2 => saveFailed slot b x (failVa b b.save (4096 + 8 * b.w * b.h * savePages b s1 * 4096) false s1) s2
      | .wait s2 => s2
      | .block h s2 => saveBlocked slot h s1 s2
    else s
  else s
def execContextSave (slot : Nat) (s : State) : Host.Outcome State Fault Refusal := .next (contextSave slot s)

/-! ## Discarding (R436) -/

/-- A tile whose work is discarded: board jobs, waiting matrix jobs, stores, held atomics and raises are dropped, a dropped JDONE's mark
is cleared, copy jobs are killed; a routine runs on to its next YLD (R230). -/
def discardTile (t : Tile) : Tile :=
  { t with
    ctl := { t.ctl with gacc := none, portHeld := none, trapped := none, deferred := [] }
    eng := { t.eng with bq := [], stage := [], mq := if t.eng.mrun.isSome then t.eng.mq.take 1 else [], sq := [], cq := t.eng.cq.map killJobs }
    place := { t.place with pend := 0, posted := (keptOf t).2 } }

/-- Coppice entries and partition at their launch state (R243, R260). -/
def launchEntries (t : Tile) : Tile := { t with mem := { t.mem with cpart := [] }, eng := { t.eng with ents := Vector.replicate 64 {} } }

/-- Whether a tile's engines have stopped after a discard: its routine at a YLD, its killed copy jobs released and no packet of its on the
fabric. -/
def enginesStopped (s : State) (p : Nat) : Bool :=
  let e := (getTile p s).eng
  e.mq.isEmpty && e.cq.toList.all List.isEmpty && s.packets.all (·.src != p)

/-- The record of a discarded gang: bound for a restart (R388, R436). -/
def forRestart (kept : List (Nat × BitVec 16 × Bool)) (b : Bind) : Bind :=
  { b with state := .bound, resume := false, halt := false, fault := false, decided := false, discard := false, await := false
           resumable := true, seq := 0, traps := [], ended := [], reply := none, yielded := false, planned := false
           saveHeld := none, saveBad := false, kept := kept, carry := [], gone := [], due := none, haltBy := none }

/-- GANG_DISCARD: the gang of record `slot` is discarded; with every engine stopped its clusters free. -/
def gangDiscard (slot : Nat) (s : State) : State :=
  let b := getBind slot s
  if b.state = .halting ∧ b.decided ∧ b.discard then
    let ps := heldTiles slot s
    let s := ps.foldl (fun s p => unlinkRecs b.vd p s) (overTiles ps discardTile s)
    if ps.all (enginesStopped s) then
      let kept := keptAll b s
      s |> overTiles ps launchEntries |> releasePins slot |> freeClusters slot |> modBind slot (forRestart kept)
    else s
  else s
def execGangDiscard (slot : Nat) (s : State) : Host.Outcome State Fault Refusal := .next (gangDiscard slot s)

/-! ## Starting (R37, R67, R389, R411, R456) -/

/-- Whether every section but the overlay map and page contents still has the digest kept (R456). -/
def sectionsMatch (vd : BitVec 8) (i : Image) (s : State) : Bool × State :=
  i.secs.foldl (fun r x =>
    if x.1 < 4 then r
    else
      match sysRead vd (i.addr + x.2.1) x.2.2.1 r.2 with
      | (some bs, s) => (r.1 && Config.shake256 bs == x.2.2.2, s)
      | (none, s) => (false, s)) (true, s)

/-- The raft id of a claim in the device's view of the lap map now governing (10 R280). Of several rafts of one model and layer open to the device,
on several lanes for example, the first entry of the map is taken: no rule says which. DESIGN CHOICE, log entry 86. -/
def claimRaft (f : Flume) (vd : BitVec 8) (model layer : BitVec 16) : Option (BitVec 16) :=
  ((governing f (topLap f).lap).rafts.find? fun r => r.model == model && r.layer == layer && r.access.getLsbD vd.toNat).map (·.raft)

/-- The raft ids of an image's claims, with model and layer (R280). -/
def resolved (f : Flume) (vd : BitVec 8) (i : Image) : List (BitVec 16 × BitVec 16 × BitVec 16) :=
  i.rafts.filterMap fun c => (claimRaft f vd c.1 c.2.1).map fun r => (r, c.1, c.2.1)

/-- The preload pages put into a tile's frames (R67); a page whose bytes fail their hash is left to its page-in. -/
def preload (b : Bind) (p : Nat) (s : State) : State :=
  let pre := b.pages.filter (·.state == 1)
  pre.foldl (fun s e =>
    if (getTile p s).ctl.frames.any fun f => f.digest == b.digest && f.page == e.page then s
    else
      match pageBytes b.vd b.image e s with
      | (some bs, s) =>
        if Config.shake256 bs = e.hash then
          modTile p (fun t => { t with ctl := { t.ctl with
            frames := placeFrame b.digest (pre.map (·.page)) { digest := b.digest, page := e.page, words := pageWords bs } t.ctl.frames } }) s
        else s
      | (none, s) => s) s

/-- The image's data, the raft ids of its board cards and the tile's schedule table in the program area (R37, R280, R407). -/
def imageSpad (f : Flume) (vd : BitVec 8) (i : Image) (items : Option (List (BitVec 32))) : SMap Byte :=
  let m := i.data.foldl (fun m d => writeList d.1 d.2 m) []
  let m := i.rafts.foldl (fun m c =>
    match claimRaft f vd c.1 c.2.1 with
    | some r => c.2.2.foldl (fun m a => writeB (a + 30) 2 r.toNat m) m
    | none => m) m
  match items with
  | none => m
  | some xs => xs.zipIdx.foldl (fun m x => writeB (i.st + 16 + 4 * x.2) 4 x.1.toNat m) (writeB i.st 16 (xs.length % 65536 * 2 ^ 32) m)

/-- The schedule table of a coordinate (R408). -/
def schedTable (i : Image) (x y : Nat) : Option (List (BitVec 32)) :=
  match i.sched.find? (·.1 == some (x, y)) with
  | some t => some t.2
  | none => (i.sched.find? (·.1 == none)).map (·.2)

/-- The scope groups that a bind's tiles take from the table at `a`, entries 2 to 31 of 64 bytes each (R318, R389). -/
def scopesAt (m : MemSys) (a : Nat) : SMap (BitVec 512) :=
  (upTo 32).filterMap fun e =>
    let v := BitVec.ofNat 512 (readB m.dmem (a + 64 * e) 64)
    if e < 2 ∨ v = 0 then none else some (e, v)

/-- The place of a tile in a gang, with its scope groups. -/
def placeOf (slot : Nat) (b : Bind) (i : Image) (scopes : SMap (BitVec 512)) (x y : Nat) (mbx : Vector Word 64) : Place :=
  { slot := some slot, x := x, y := y, w := b.w, h := b.h, vd := b.vd, ppmax := i.ppmax, lat := i.lat, coppice := 4096 * i.cpages
    ecount := i.entries, st := i.st, digest := b.digest, image := b.image, pages := b.pages, scopes := scopes, mbx := mbx }

/-- A tile at its launch: the state of R37, the image's data and routines, its frames kept. -/
def launchTile (slot : Nat) (b : Bind) (i : Image) (f : Flume) (scopes : SMap (BitVec 512)) (mbx : Vector Word 64) (j : Nat) (t : Tile) :
    Tile :=
  let x := j % (4 * b.w)
  let y := j / (4 * b.w)
  let items := schedTable i x y
  let k := (b.kept.find? (·.1 == j)).map (·.2)
  { ctl := { frames := t.ctl.frames, run := .running }
    mem := { spad := imageSpad f b.vd i items, rstore := i.slots, rentry := i.rentry }
    place := { placeOf slot b i scopes x y mbx with
      schedN := BitVec.ofNat 16 ((items.map (·.length)).getD 0), schedPos := (k.map (·.1)).getD 0, posted := (k.map (·.2)).getD false } }

/-- The JCB write that a bind's start needs is held for lack of a snapshot pool page: counted once (R467). -/
def bindHeld (slot : Nat) (s : State) : State := saveBlocked slot (granuleOf (getBind slot s).jcb) s s

/-- The job of a refused bind has ended: its record, and its handle retired for a section that does not match (R456). -/
def refusedBind (slot : Nat) (b : Bind) (cause : Nat) (s : State) : State :=
  let s := unitRecord b.vd b.stream b.gen 0x08 7 cause s
  let s := if cause = 35 then
    modVd b.vd (fun v => { v with images := v.images.map fun i => if i.handle = b.image then { i with retired := true } else i }) s else s
  s |> modJob b.vd b.stream b.gen (fun j => { j with left := true, posted := true, slot := none })
    |> modBind slot fun _ => {}

/-- A bind refused at its start (R456). -/
def refuseBind (slot : Nat) (b : Bind) (cause : Nat) (s : State) : State :=
  if cause = 38 then refusedBind slot b cause s
  else
    match jcbEnd (jcbOf b) false s with
    | .done s | .over s => refusedBind slot b cause s
    | .held s => bindHeld slot s

/-- Words of the mailbox. -/
def mailWords (bs : List Byte) : Vector Word 64 := Vector.ofFn fun j => BitVec.ofNat 64 (ofBytes ((bs.drop (8 * j.val)).take 8))

/-- The JCB's total at the first start (R402). -/
def firstTotal (b : Bind) (s : State) : State :=
  if b.started then s
  else
    (sysPart b.vd b.jcb 32 true true true (fun old =>
      let j := parseJcb (ofBytes old)
      if j.total = 0 then some (toBytes 32 (jcbWord { j with total := 8 * b.w * b.h }).toNat) else none) s).2

/-- Whether a record's region may be started: inside the grid and every cluster free (R389). -/
def regionFree (b : Bind) (s : State) : Bool := inGrid b.col0 b.row0 b.w b.h && (bindClusters b).all (clusterFree s)

/-- The record of a gang that has just started (R389). -/
def nowRunning (time : Word) (b : Bind) : Bind :=
  { b with state := .running, start := time, runc := 0, started := true, yielded := false, halt := false, fault := false
           decided := false, discard := false, seq := 0, traps := [], reply := none, resumable := true, planned := false
           saveHeld := none, saveBad := false, carry := [], due := none, haltBy := none }

/-- The checks before a start, in the order of R456's table: the cause of a refusal. -/
def startCause (b : Bind) (i : Image) (s : State) : Option Nat × State :=
  match sectionsMatch b.vd i s with
  | (false, s) => (some 35, s)
  | (true, s) =>
    if i.rafts.any fun c => (claimRaft s.flume b.vd c.1 c.2.1).isNone then (some 36, s)
    else
      match sysOk b.vd b.mbox 512 true false s with
      | (false, s) => (some 37, s)
      | (true, s) =>
        match sysOk b.vd (b.mbox + 512) 128 false true s with
        | (false, s) => (some 37, s)
        | (true, s) =>
          match sysOk b.vd b.jcb 32 true true s with
          | (false, s) => (some 38, s)
          | (true, s) => (none, s)

/-- The gang's tiles take their launch state, with the mailbox `bs`, and it runs (R389). -/
def launchGang (slot : Nat) (b : Bind) (i : Image) (bs : List Byte) (s : State) : State :=
  let js := upTo (8 * b.w * b.h)
  let scopes := scopesAt s.mem b.scope
  let s := js.foldl (fun s j => preload b (tileOf b j) s) (devTouch 0 b.scope scopeLen s)
  let s := js.foldl (fun s j => modTile (tileOf b j) (launchTile slot b i s.flume scopes (mailWords bs) j) s) s
  modBind slot (fun b => { nowRunning s.mod.time b with rafts := resolved s.flume b.vd i }) s

/-- Whether every half that governs the current lap or a later one keeps the names that an image's claims resolve (R274). -/
def namesStand (f : Flume) (vd : BitVec 8) (i : Image) : Bool := (liveHalves f).all fun m => m.rafts.all (nameKept (resolved f vd i))

/-- GANG_START (R389): a bound record that does not resume, once its region is free. A start that would resolve an id which a half already
published gives another model or layer waits until that half governs: R274 lets no bind see an id change its name, and no rule says which
of the two gives way. DESIGN CHOICE, log entry 88. -/
def gangStart (slot : Nat) (s : State) : State :=
  let b := getBind slot s
  if b.state = .bound ∧ b.resume = false ∧ s.mod.power = .active ∧ mayRun (getVd b.vd s) ∧ regionFree b s then
    match imageOf b.vd b.image s with
    | none => s
    | some i =>
      if !namesStand s.flume b.vd i then s else
      match startCause b i s with
      | (some c, s) => refuseBind slot b c s
      | (none, s) =>
        match sysRead b.vd b.mbox 512 s with
        | (none, s) => refuseBind slot b 37 s
        | (some bs, s) =>
          unlessHeld b.vd (fun s => ((), firstTotal b s)) (bindHeld slot) (fun _ s => launchGang slot b i bs s) s
  else s
def execGangStart (slot : Nat) (s : State) : Host.Outcome State Fault Refusal := .next (gangStart slot s)

/-! ## Resuming (R420, R433 to R435, R438) -/

/-- The header's fields (R427), from its first 64 bytes. -/
def hdrW (h : Nat) : Nat := field h 27 25 + 1
def hdrH (h : Nat) : Nat := field h 24 22 + 1

/-- A refused resume: its record; the gang stays saved (R433). -/
def refuseResume (slot : Nat) (b : Bind) (cause : Nat) (s : State) : State :=
  bindRecord b 0x0F (BitVec.ofNat 64 b.save) cause false (detailOf 0 (cause * 2 ^ 8) 0x0F) slot s
    |> modBind slot fun b => { b with state := .saved, await := true, resumable := false, agedAt := s.mod.time }

/-- The SHAPE record of R438: the gang stays saved, and may resume later. -/
def refuseShape (slot : Nat) (b : Bind) (w h : Nat) (s : State) : State :=
  let low := (w - 1) * 2 ^ 19 + (h - 1) * 2 ^ 16 + (b.w - 1) * 2 ^ 11 + (b.h - 1) * 2 ^ 8
  bindRecord b 0x0E (BitVec.ofNat 64 b.save) 0 true (detailOf 0 low 0x0E) slot s
    |> modBind slot fun b => { b with state := .saved, await := true, agedAt := s.mod.time }

/-- A read of the area or the mailbox that failed: its own record, then the refusal (R433). -/
def refuseRead (slot : Nat) (b : Bind) (x : XFault) (va : Nat) (s : State) : State :=
  refuseResume slot b (if x.code = 0x05 then 6 else 5) (areaRecord b x va 11 slot s)

/-- The tile records read in index order: a record's control block, and its rest unless it is of an ended tile. -/
def readRecords (h : Hints) (b : Bind) (pages : Nat) : List Nat → List (List Byte) → State → Except (XFault × Nat × State) (Option (List (List Byte)) × State)
  | [], acc, s => .ok (some acc.reverse, s)
  | j :: js, acc, s =>
    let c := clusterOf (tileOf b j)
    let va := recordVa b pages j
    match readPieces c h 16 va [] s with
    | .done ctl s =>
      if (ctl.getD 2 0).getLsbD 0 then readRecords h b pages js (ctl :: acc) s
      else
        match readPieces c h (16 * (pages - 1)) (va + 4096) ctl s with
        | .done bs s => readRecords h b pages js (bs :: acc) s
        | .fail x s => .error (x, failVa b (va + 4096) (4096 * (pages - 1)) true s, s)
        | .wait s | .block _ s => .ok (none, s)
    | .fail x s => .error (x, failVa b va 4096 true s, s)
    | .wait s | .block _ s => .ok (none, s)

/-- g4, g5, FLTCODE and FLTADDR of a trapping tile, and engine fault bits cleared, at the host's resume (R100, R414, R420). -/
def replyTile (b : Bind) (j : Nat) (t : Tile) : Tile :=
  match b.reply with
  | none => t
  | some (v4, v5) =>
    let t := { t with eng := { t.eng with mfault := false, pfault := false, bfault := false, cfault := 0 } }
    match b.traps.find? (·.1 == j) with
    | some (_, addr) => { t with regs := setG 5 v5 (setG 4 v4 t.regs), ctl := { t.ctl with fltcode := 0x0A, fltaddr := addr } }
    | none => t

/-- A tile made to run again, its watchdog zero (R435); one recorded as ended stays ended. -/
def wakeTile (t : Tile) : Tile :=
  { t with ctl := { t.ctl with run := if t.ctl.run = .ended then .ended else .running, wdog := 0, faulted := false } }

/-- The tile of region index `j` restored from its record into the launch place (R434, R435); `k` numbers the free value of a partition that
the record does not hold. -/
def resumeTile (slot : Nat) (b : Bind) (i : Image) (scopes : SMap (BitVec 512)) (mbx : Vector Word 64) (k j : Nat) (m : SMap Byte) (t : Tile) :
    Tile :=
  let fresh : Tile :=
    { ctl := { frames := t.ctl.frames }, place := placeOf slot b i scopes (j % (4 * b.w)) (j / (4 * b.w)) mbx }
  wakeTile (replyTile b j (restoreTile m b.cp b.mbox k fresh))

/-- Page-ins that one refill of a loop buffer may need: a body of 64 bundles lies on at most two pages (R82, R84). -/
def refillFuel : Nat := 4

/-- What the bind record kept of a tile, put back: its copy jobs, as the oldest of their queues (R381). -/
def takeBack (k : Carry) (t : Tile) : Tile :=
  let n := k.jobs.toList.flatten.foldl (fun n j => max n (j.serial + 1)) t.eng.serial
  { t with
    mem := if t.ctl.run = .ended then k.mem else t.mem
    eng := { t.eng with cq := k.jobs, serial := n } }

/-- What a restored tile does before the common first bundle: what the bind record kept comes back, recorded jobs are reissued, the loop
buffer is refilled, and one recorded as ended frees, once its queues are empty (R16, R434); its recorded board jobs are not reissued, since it has no
memories to capture to. DESIGN CHOICE, log entry 31. -/
def readyTile (k : Carry) (m : SMap Byte) (s : State) : State :=
  let s := onTile (takeBack k) s
  if s.tile.ctl.run = .ended then tileFree s else refillNow refillFuel (reissue m s)

/-- A gang restored from its records (R434). -/
def restoreGang (slot : Nat) (b : Bind) (i : Image) (mbx : Vector Word 64) (recs : List (List Byte)) (s : State) : State :=
  let rs := recs.map (packBytes 0)
  let js := upTo (8 * b.w * b.h)
  let scopes := scopesAt s.mem b.scope
  let s := js.foldl (fun s j => preload b (tileOf b j) s) (devTouch 0 b.scope scopeLen s)
  let s := rs.zipIdx.foldl (fun s r => modTile (tileOf b r.2) (resumeTile slot b i scopes mbx (s.fresh + r.2) r.2 r.1) s) s
  let s := modBind slot (nowRunning s.mod.time) { s with fresh := s.fresh + rs.length }
  rs.zipIdx.foldl (fun s r => eachTile [tileOf b r.2] (readyTile (smGet {} b.carry r.2) r.1) s) s

/-- GANG_RESUME (R433, R434): a bound record that resumes, once its region is free. -/
def gangResume (slot : Nat) (s : State) : State :=
  let b := getBind slot s
  if b.state = .bound ∧ b.resume ∧ s.mod.power = .active ∧ mayRun (getVd b.vd s) ∧ regionFree b s then
    match imageOf b.vd b.image s with
    | none => s
    | some i =>
      let c := clusterOf (tileAt b 0 0)
      let h := saveHints slot b
      match readPieces c h 16 b.save [] s with
      | .wait s | .block _ s => s
      | .fail x s => refuseRead slot b x (failVa b b.save 4096 true s) s
      | .done hdr s =>
        let x := ofBytes (hdr.take 32)
        let v := getVd b.vd s
        if hdrW x ≠ b.w ∨ hdrH x ≠ b.h ∨ shapeAdmitted v b.w b.h = false then
          refuseShape slot b (hdrW x) (hdrH x) s
        else if field x 7 0 ≠ 1 then refuseResume slot b 1 s
        else if field x 63 56 ≠ b.vd.toNat then refuseResume slot b 2 s
        else if field x 127 96 ≠ b.image.toNat then refuseResume slot b 3 s
        else
          match readRecords h b (field x 49 40) (upTo (8 * b.w * b.h)) [] s with
          | .error (x, va, s) => refuseRead slot b x va s
          | .ok (none, s) => s
          | .ok (some recs, s) =>
            if !tagOk hdr recs.flatten then refuseResume slot b 4 s
            else
              match readPieces c h 2 b.mbox [] s with
              | .wait s | .block _ s => s
              | .fail x s => refuseRead slot b x (failVa b b.mbox 512 true s) s
              | .done bs s => restoreGang slot b i (mailWords bs) recs s
  else s
def execGangResume (slot : Nat) (s : State) : Host.Outcome State Fault Refusal := .next (gangResume slot s)

end Sys2Proof.Machine
end

