-- ==== Sys2Proof/Machine/Storage.lean ====
section
/-! DEFINITION. Invalidation descriptors, page moves by the Skidder, snapshots and the posting of event records: 14_translation.md
R373 to R380; 15_tiles_time.md R395 to R397; 17_host.md R466 to R472. -/

namespace Sys2Proof.Machine

/-! ## Dropping translations (R374 to R376, R379) -/

/-- Entries of a device dropped from a cluster's cache where `hit`, their counts written back (R376). -/
def dropEnts (vd : BitVec 8) (hit : TlbEnt → Bool) (c : Nat) (s : State) : State :=
  let gone := (getCluster c s).tlb.filter fun e => e.vd == vd && hit e
  let s := gone.foldl (fun s e => flushEnt e s) s
  modCluster c (fun k => { k with tlb := k.tlb.filter fun e => !(e.vd == vd && hit e) }) s

def overlapsRange (lo hi : Nat) (e : TlbEnt) : Bool := decide (lo < e.base + e.size) && decide (e.base < hi)

/-- Whether an invalidation of `[lo, hi)` ends a hold: one by write-block, of a page that it meets (R379). -/
def invalEnds (lo hi : Nat) (h : Hold) : Bool := !h.snap && bytesMeet h.base h.size lo (hi - lo)

/-- The holds of a device's tile that `ends` names no longer stand: their writes translate again. -/
def releaseTileHolds (vd : BitVec 8) (ends : Hold → Bool) (t : Tile) : Tile :=
  if t.place.vd = vd ∧ t.place.slot.isSome then
    let free := Option.map fun h => { h with again := h.again || ends h }
    { t with
      ctl := { t.ctl with portHeld := free t.ctl.portHeld }
      eng := { t.eng with
        sq := t.eng.sq.map (fun e => { e with wb := free e.wb })
        cq := t.eng.cq.map fun q => q.map fun j => { j with wb := free j.wb }
        mq := t.eng.mq.map fun j => { j with wb := free j.wb } } }
  else t

def releaseHolds (vd : BitVec 8) (ends : Hold → Bool) (s : State) : State := everyTile (fun _ => releaseTileHolds vd ends) s

/-- Every translation of a device that overlaps `[lo, hi)` dropped in all clusters, and writes held by write-block there released. -/
def dropRange (vd : BitVec 8) (lo hi : Nat) (s : State) : State :=
  releaseHolds vd (invalEnds lo hi) (s.clusters.foldl (fun s c => dropEnts vd (overlapsRange lo hi) c.1 s) s)

/-- Every translation of a device dropped (R375). -/
def dropAll (vd : BitVec 8) (s : State) : State := dropRange vd 0 (2 ^ 48) s

/-- Counts of a range written back, the entries kept (R374, R376). -/
def flushRange (vd : BitVec 8) (lo hi : Nat) (s : State) : State :=
  s.clusters.foldl (fun s c =>
    let hit := fun (e : TlbEnt) => e.vd == vd && overlapsRange lo hi e
    let s := ((getCluster c.1 s).tlb.filter hit).foldl (fun s e => flushEnt e s) s
    modCluster c.1 (fun k => { k with tlb := k.tlb.map fun e => if hit e then { e with delta := 0 } else e }) s) s

/-! ## Wake events (18 R480) -/

/-- A wake event: from Doldrums, or out of an entry to it, the module returns to Calm. -/
def wake (s : State) : State :=
  if s.mod.power = .doldrums ∨ s.mod.entering then
    onMod (fun m => { m with power := .calm, entering := false, calmSince := m.time }) s
  else s

/-! ## Descriptors (R373, R374) -/

def invKind (d : InvDesc) : Nat := field d.w0.toNat 1 0
def invTarget (d : InvDesc) : BitVec 8 := d.w0.extractLsb' 8 8
def invDone (d : InvDesc) : Nat := field d.w2.toNat 47 0
def invLo (d : InvDesc) : Nat := field d.w1.toNat 47 0
def invHi (d : InvDesc) : Nat := invLo d + 4096 * (field d.w0.toNat 63 32 + 1)

/-- The refusals of R373, but for the translation of done. -/
def invBad (vd : BitVec 8) (d : InvDesc) : Bool :=
  field d.w0.toNat 7 2 != 0 || field d.w0.toNat 31 16 != 0 || field d.w1.toNat 63 48 != 0 || field d.w2.toNat 63 48 != 0
    || invKind d == 3 || invLo d % 4096 != 0 || invDone d % 8 != 0 || (vd != 0 && invTarget d != vd)

/-- Whether BAR0 answers (18 R487, R488, 16 R442): from the start on, asleep or not. -/
def barOpen (m : Mod) : Bool := powered m || m.power == .doldrums

/-- A descriptor posted, or refused with an error status to the host; a function that is not enabled has no interface (R443). -/
def postInval (vd : BitVec 8) (d : InvDesc) (s : State) : State :=
  if !barOpen s.mod || !(getVd vd s).enabled then s else
  let s := wake s
  let refuse := fun (s : State) => { s with doe := { s.doe with replies := s.doe.replies ++ [.invalRefused vd] } }
  if (getVd vd s).tstate = .error then s
  else if invBad vd d then refuse s
  else
    match sysOk (invTarget d) (invDone d) 8 false true s with
    | (false, s) => refuse s
    | (true, s) => modVd vd (fun v => { v with invq := v.invq ++ [{ desc := d, issuer := vd }] }) s

/-- INVALIDATE_ALL, INVALIDATE_RANGE and COUNTER_FLUSH: a descriptor of kind 0, 1 or 2 posted. -/
def execInvalidateAll (vd : BitVec 8) (i : InvDesc) (s : State) : Host.Outcome State Fault Refusal :=
  .next (if invKind i = 0 then postInval vd i s else s)
def execInvalidateRange (vd : BitVec 8) (i : InvDesc) (s : State) : Host.Outcome State Fault Refusal :=
  .next (if invKind i = 1 then postInval vd i s else s)
def execCounterFlush (vd : BitVec 8) (i : InvDesc) (s : State) : Host.Outcome State Fault Refusal :=
  .next (if invKind i = 2 then postInval vd i s else s)

/-- What a descriptor does to the caches. -/
def invApply (d : InvDesc) (s : State) : State :=
  match invKind d with
  | 0 => dropAll (invTarget d) s
  | 1 => dropRange (invTarget d) (invLo d) (invHi d) s
  | _ => flushRange (invTarget d) (invLo d) (invHi d) s

/-- Whether a tile has an access under way through a translation of which `f` is true. -/
def accessVia (f : TlbEnt → Bool) (s : State) : Bool := (s.tile :: s.others.map (·.2)).any fun t => (t.ctl.gacc.bind (·.ent)).any f

/-- Whether an access translated through an entry of `[lo, hi)` has not been performed (R374). -/
def accessThrough (vd : BitVec 8) (lo hi : Nat) (s : State) : Bool := accessVia (fun e => e.vd == vd && overlapsRange lo hi e) s

/-- The range whose translations a descriptor drops; empty for a counter flush. -/
def invRange (d : InvDesc) : Nat × Nat :=
  match invKind d with
  | 0 => (0, 2 ^ 48)
  | 1 => (invLo d, invHi d)
  | _ => (0, 0)

/-- INVALIDATION_COMPLETE (R374): the oldest descriptor of a device completes, once the accesses translated through what it drops are
performed, and its token is written. -/
def invalidationComplete (vd : BitVec 8) (s : State) : State :=
  match (getVd vd s).invq with
  | [] => s
  | x :: xs =>
    let tg := invTarget x.desc
    if accessThrough tg (invRange x.desc).1 (invRange x.desc).2 s then s
    else
      unlessHeld tg
        (fun s => sysWrite tg (invDone x.desc) (toBytes 8 x.desc.w3.toNat) true
          (invApply x.desc (modVd vd (fun v => { v with invq := xs }) s)))
        (fun s => if x.held then s else noteSnapHold tg (modVd vd (fun v => { v with invq := { x with held := true } :: xs }) s))
        (fun _ s => s) s
def execInvalidationComplete (vd : BitVec 8) (s : State) : Host.Outcome State Fault Refusal := .next (invalidationComplete vd s)

/-! ## Skidder transfers (R378, R470 to R472) -/

/-- A leaf with its write-block bit as given. -/
def leafWb (e : Word) (wb : Bool) : Word := if wb then e ||| 8#64 else e &&& ~~~(8#64)

/-- The first handle not yet given that a leaf of `size` bytes can hold in its addr (R369, R378). -/
def handleFor (size : Nat) (s : State) : Nat := let k := size / 4096; (s.mem.nextHandle + k - 1) / k * k

/-- Bytes of flash that the Skidder manages: what the blob's and the firmware's regions leave of 8 TiB (R476, R477). -/
def flashBytes : Nat := 2 ^ 43 - 2 ^ 20 - 2 ^ 26

/-- The end of a page-out: the page is on flash, the leaf names it, the page is the pool's (R470). A leaf the host has changed in
the meantime stands. -/
def finishPageOut (vd : BitVec 8) (k : Skid) (s : State) : State :=
  let v := getVd vd s
  let s := devTouch vd k.leafPa 8 (modVd vd (fun v => { v with skid := v.skid.filter (· != k) }) s)
  if leafStands s k.leafPa (leafWb k.leaf true) then
    let page := packBytes 0 (readList s.mem.dmem k.pa k.size)
    let s := onMemSys (fun m => { m with flash := m.flash ++ [(k.handle, vd, v.storageKey, page)] }) (devTouch vd k.pa k.size s)
    let s := devWrite vd k.leafPa (toBytes 8 (leafWith k.leaf 2 (4096 * k.handle)).toNat) s
    let s := dropRange vd k.va (k.va + k.size) s
    let s := modVd vd (poolReturn k.pa k.size) s
    queueRec vd 3 { slots := [storageRec s.mod.time k.va ((k.ctx.map (·.toNat)).getD 0) 0 0x30] } s
  else s

/-- The end of a transfer; a page-out's writes through the old translation come first (R374, R472). -/
def finishSkid (vd : BitVec 8) (k : Skid) (s : State) : State :=
  if k.into then endPageIn vd k s
  else if accessThrough vd k.va (k.va + k.size) s then s
  else if skidCurrent (getVd vd s) k then finishPageOut vd k s
  else endStale vd k s

/-- FLASH_PAGE_IN (R378): the page-in of the page that holds `va` ends, its generation current. -/
def flashPageIn (vd : BitVec 8) (va : Word) (s : State) : State :=
  let v := getVd vd s
  match v.skid.find? fun k => k.into && skidCurrent v k && decide (k.va ≤ va.toNat ∧ va.toNat < k.va + k.size) with
  | some k => finishPageIn vd k s
  | none => s
def execFlashPageIn (vd : BitVec 8) (va : Word) (s : State) : Host.Outcome State Fault Refusal := .next (flashPageIn vd va s)

/-- SKIDDER_TRANSFER_END (R472): transfer `n` of a device ends. -/
def execSkidderTransferEnd (vd : BitVec 8) (n : Nat) (s : State) : Host.Outcome State Fault Refusal :=
  .next (match (getVd vd s).skid[n]? with
    | some k => finishSkid vd k s
    | none => s)

/-- The last TIME at which a cluster filled a translation of a page of `n` bytes from `a` (R470); none where none has. -/
def lastFill (v : VDev) (a n : Nat) : Option Word :=
  (v.fills.filter fun x => bytesMeet x.1 x.2.1 a n).foldl (fun t x => match t with
    | none => some x.2.2
    | some t => some (if t.toNat < x.2.2.toNat then x.2.2 else t)) none

/-- Whether a page of a context is cold (R470). Of one that no cluster has filled a translation of no rule says: its age counts from the
context's definition. DESIGN CHOICE, log entry 107. -/
def pageCold (v : VDev) (c : Session) (a n : Nat) (time : Word) : Bool :=
  decide (c.age ≤ (time - (lastFill v a n).getD c.since).toNat)

/-- COLD_PAGE_OUT (R470): the cold page of context `ctx` that holds `va` begins to move to flash, under write-block, with its place on flash
reserved (R476); flash is idle in Doldrums (18 R478). A page that a scope group table lies in is no page of a device (12 R318), nor is one of the
parts of LPDDR6 that belong to none (18 R477). -/
def coldPageOut (vd : BitVec 8) (ctx : Nat) (va : Word) (s : State) : State :=
  let v := getVd vd s
  match v.sess.find? fun c => c.id.toNat == ctx && decide (c.base ≤ va.toNat ∧ va.toNat < c.base + c.bytes) with
  | none => s
  | some c =>
    if v.tstate != .error && s.mod.power != .doldrums && !ringFull vd 3 1 s then
      match walk vd va.toNat s with
      | (.leaf e leafPa entry, s) =>
        let n := handleFor e.size s
        if e.res = 0 ∧ e.size ≤ 65536 ∧ ¬ v.skid.any (·.leafPa == leafPa) ∧ 4096 * n + e.size ≤ flashBytes
            ∧ meetsScopes s e.addr e.size = false ∧ ownable e.addr e.size ∧ pageCold v c e.base e.size s.mod.time then
          let s := devWrite vd leafPa (toBytes 8 (leafWb entry true).toNat) s
          let s := dropRange vd e.base (e.base + e.size) s
          let s := onMemSys (fun m => { m with nextHandle := n + e.size / 4096 }) s
          modVd vd (fun v => { v with skid := v.skid ++
            [{ va := e.base, pa := e.addr, size := e.size, into := false, leafPa := leafPa, leaf := entry, gen := c.gen
               bybind := false, ctx := some c.id, handle := n }] }) s
        else s
      | (.fail _, s) => s
    else s
def execColdPageOut (vd : BitVec 8) (ctx : Nat) (va : Word) (s : State) : Host.Outcome State Fault Refusal :=
  .next (coldPageOut vd ctx va s)

/-! ## Snapshots (R466, R467) -/

/-- Whether TIME has reached a multiple of the period since the last snapshot (R466). -/
def snapDue (v : VDev) (time : Word) : Bool :=
  let p := (v.snap.extractLsb' 0 32).toNat
  p != 0 && decide (v.snapAt.toNat / p < time.toNat / p)

/-- Addresses appended to the dirty-list ring. -/
def appendDirty (vd : BitVec 8) (gs : List Nat) (s : State) : State :=
  gs.foldl (fun s g =>
    let v := getVd vd s
    let n := (v.snaplen.extractLsb' 0 20).toNat
    if n = 0 then s
    else
      let at_ := field v.snaplist.toNat 47 3 * 8 + 8 * (v.snapProd % n)
      modVd vd (fun v => { v with snapProd := v.snapProd + 1 }) (sysWrite vd at_ (toBytes 8 (4096 * g)) false s).2) s

/-- Whether an atomic on a device-resident page of a device has passed its port and is not performed. -/
def atomicOut (vd : BitVec 8) (s : State) : Bool := accessVia (fun e => e.vd == vd && e.res == 0) s

/-- SNAPSHOT (R466, R467): the snapshot of a device that is due is taken, or skipped with two unreleased, once the atomics that have passed their
ports are performed: they belong to it. DESIGN CHOICE, log entry 65. -/
def snapshot (vd : BitVec 8) (s : State) : State :=
  let v := getVd vd s
  if snapDue v s.mod.time && v.tstate != .error && !atomicOut vd s then
    let s := modVd vd (fun v => { v with snapAt := s.mod.time }) (wake s)
    if 2 ≤ v.snaps.length then modVd vd (fun v => { v with snapskip := v.snapskip + 1 }) s
    else
      let n := v.snapNo + 1
      let s := appendDirty vd v.dirty s
      let s := modVd vd (fun v => { v with snapNo := n, snaps := v.snaps ++ [{ num := n, copies := [] }], dirty := [] }) s
      queueRec vd 3 { slots := [storageRec s.mod.time 0 n v.dirty.length 0x31] } s
  else s
def execSnapshot (vd : BitVec 8) (s : State) : Host.Outcome State Fault Refusal := .next (snapshot vd s)

/-! ## Event queues (15 R395 to R397) -/

/-- The slots of a record written at prod, then prod advanced (R396). -/
def ringPut (h k : Nat) (slots : List (BitVec 256)) (s : State) : State :=
  let prod := readB s.mem.hmem h 4
  let s := slots.zipIdx.foldl (fun s x => hostWrite (h + 64 + 32 * ((prod + x.2) % 2 ^ k)) 32 x.1.toNat s) s
  hostWrite h 4 ((prod + slots.length) % 2 ^ 32) s

/-- The end of a record's wait: it leaves, and an MBXW's store-queue entry with it (R397). -/
def recordGone (vd : BitVec 8) (q : BitVec 2) (r : Rec) (s : State) : State :=
  let s := modVd vd (fun v => { v with recs := v.recs.set q.toNat (v.recs[q.toNat]'q.isLt).tail q.isLt }) s
  match r.tile with
  | none => s
  | some p => eachTile [p] (fun s =>
    match s.tile.eng.sq.findIdx? (·.done) with
    | some n => postTrap (sqRemove n s)
    | none => s) s

/-- EVENT_RECORD_POST (R396, R397): the oldest record of a queue is posted, waits for room, or is dropped. -/
def eventRecordPost (vd : BitVec 8) (q : BitVec 2) (s : State) : State :=
  let v := getVd vd s
  match v.recs[q.toNat]'q.isLt with
  | [] => s
  | r :: _ =>
    let e := v.eq[q.toNat]'q.isLt
    if v.tstate = .error then s
    else if !ringSet e then modVd vd (fun v => { v with eqdrop := v.eqdrop + 1 }) (recordGone vd q r s)
    else
      let h := ringHeader e
      if ringUsed h s + r.slots.length ≤ 2 ^ ringK e then recordGone vd q r (ringPut h (ringK e) r.slots s)
      else if r.drops then countOverrun h (recordGone vd q r s)
      else s
def execEventRecordPost (vd : BitVec 8) (q : BitVec 2) (s : State) : Host.Outcome State Fault Refusal := .next (eventRecordPost vd q s)

end Sys2Proof.Machine
end

