-- ==== Sys2Proof/Machine/Image.lean ====
section
/-! DEFINITION. The Limmuxel image: layout, the Landing's checks and what it keeps: 17_host.md R451 to R455; 02_encoding.md R48,
R502; 03_issue.md R65, R66, R78; 12_fabric.md R318, R325; 15_tiles_time.md R407. -/

namespace Sys2Proof.Machine

/-! ## Header and section table (R452, R453) -/

/-- A section: kind, offset and length. -/
structure Sect where
  kind : Nat
  off  : Nat
  len  : Nat
  deriving DecidableEq, Repr

/-- Bytes of the signature (R451). -/
def sigBytes : Nat := 29792

/-- The header as a number. -/
def imageHeader (m : SMap Byte) : Nat := readB m 0 64

def sectWord (m : SMap Byte) (k : Nat) : Nat := readB m (64 + 16 * k) 16

/-- The sections in kind order. -/
def imageSects (m : SMap Byte) : List Sect :=
  let all := (upTo 16).map fun k => let v := sectWord m k; ({ kind := field v 71 64, off := field v 31 0, len := field v 63 32 } : Sect)
  (upTo 12).flatMap fun k => if k = 0 then [] else all.filter (·.kind == k)

def sectOf (m : SMap Byte) (kind : Nat) : Option Sect := (imageSects m).find? (·.kind == kind)

/-- Whether an entry of the section table follows R453. -/
def sectEntryOk (n : Nat) (v : Nat) : Bool :=
  if field v 71 64 = 0 then v == 0
  else decide (field v 71 64 ≤ 11) && field v 127 72 == 0 && field v 31 0 % 8 == 0
    && decide (320 ≤ field v 31 0 ∧ field v 31 0 + field v 63 32 + sigBytes ≤ n)

def sectsApart (a b : Sect) : Bool := decide (a.off + a.len ≤ b.off ∨ b.off + b.len ≤ a.off)

/-- Step 1 of R455 on an image of `n` bytes: length, magic, reserved fields, claims in range, section table. -/
def headerOk (m : SMap Byte) (n : Nat) : Bool :=
  let h := imageHeader m
  let ws := (upTo 16).map (sectWord m)
  let ss := imageSects m
  n % 8 == 0 && decide (320 + sigBytes ≤ n ∧ n ≤ 2 ^ 28) && field h 95 64 == n && field h 31 0 == 0x01584D4C
    && field h 511 352 == 0 && field h 159 159 == 0 && field h 143 140 == 0 && field h 127 102 == 0 && field h 63 48 == 0
    && decide (1 ≤ field h 139 128 ∧ field h 139 128 ≤ 3000) && decide (field h 151 144 ≤ 128) && decide (field h 158 152 ≤ 64)
    && field h 191 160 % 4096 == 0
    && ws.all (sectEntryOk n) && ((ws.filter (field · 71 64 != 0)).length == (imageSects m).length)
    && ss.zipIdx.all (fun a => ss.zipIdx.all fun b => a.2 == b.2 || (a.1.kind != b.1.kind && sectsApart a.1 b.1))
    && (ss.find? (·.kind == 1)).map (·.len) == some 64

/-- The latency table (R48). -/
def imageLat (h : Nat) : Vector (BitVec 8) 16 := Vector.ofFn fun c => BitVec.ofNat 8 (field h (231 + 8 * c.val) (224 + 8 * c.val))

def latOk (h : Nat) : Bool := (imageLat h).toList.zipIdx.all fun c => if c.2 < 14 then c.1 != 0 else c.1 == 0

/-! ## Sections (R453) -/

/-- Records of `w` bytes of a section. -/
def sectWords (m : SMap Byte) (s : Option Sect) (w : Nat) : List Nat :=
  match s with
  | some s => wordsAt m s.off w (s.len / w)
  | none => []

/-- Whether a section's length is a multiple of its record's. -/
def wholeRecords (s : Option Sect) (w : Nat) : Bool :=
  match s with
  | some s => s.len % w == 0
  | none => true

/-- The overlay map (R65). -/
def overlayMap (m : SMap Byte) : List PageEnt :=
  (sectWords m (sectOf m 2) 48).map fun v =>
    { page := field v 7 0, state := BitVec.ofNat 2 (field v 9 8), offset := field v 127 64, hash := BitVec.ofNat 256 (field v 383 128) }

def rising (xs : List Nat) : Bool := (xs.zip (xs.drop 1)).all fun p => decide (p.1 < p.2)

/-- The overlay map's checks (R66). A map whose length is no multiple of 48, or a page offset that is no multiple of 4,096, is refused
too; no rule says what follows from them. DESIGN CHOICE, log entry 56. -/
def overlayOk (m : SMap Byte) (n : Nat) : Bool :=
  let ps := overlayMap m
  wholeRecords (sectOf m 2) 48 && rising (ps.map (·.page)) && ps.all (fun e => e.state != 3)
    && ps.all (fun e => e.state == 0 || (e.offset % 4096 == 0 && decide (e.offset + 4096 ≤ n)))
    && decide ((ps.filter (·.state == 1)).length ≤ 32)
    && ((ps.find? (·.page == 0)).map (·.state) == some 1)
    && ps.all (fun e => e.state == 0 || Config.shake256 (readList m e.offset 4096) == e.hash)

def imagePoints (m : SMap Byte) : List Nat := (sectWords m (sectOf m 4) 4).map (field · 19 0)
def imageSpans (m : SMap Byte) : List (Nat × Nat) := (sectWords m (sectOf m 5) 8).map fun v => (field v 19 0, field v 51 32)

/-- The point table: no point inside a span (R78). A table that is not ascending (R453), whose length is no multiple of 4 or whose addresses are no
multiples of 8, is refused too, and so is a span section whose length is no multiple of 8; no rule says what follows from them. DESIGN
CHOICE, log entry 102. -/
def pointsOk (m : SMap Byte) : Bool :=
  let ps := imagePoints m
  wholeRecords (sectOf m 4) 4 && rising ps && ps.all (· % 8 == 0)
    && ps.all fun a => (imageSpans m).all fun s => !decide (s.1 < a ∧ a ≤ s.2)

/-- The preload page of an address. -/
def preloadAt (m : SMap Byte) (a : Nat) : Option PageEnt := (overlayMap m).find? fun e => e.page == a / 4096 && e.state == 1

/-- The address of the last syllable of the bundle at `a`, of at most `n + 1`; none where one lies on no preload page. -/
def lastSyllable (m : SMap Byte) : Nat → Nat → Option Nat
  | n, a =>
    match preloadAt m a with
    | none => none
    | some e =>
      if (readB m (e.offset + a % 4096) 8).testBit 63 then some a
      else
        match n with
        | 0 => some a
        | n + 1 => lastSyllable m n (a + 8)

/-- The transfer spans: BAR.E above BAR.T, every page of a span's bundles, its BAR.E bundle whole, a preload page (R78, R325). -/
def spansOk (m : SMap Byte) : Bool :=
  wholeRecords (sectOf m 5) 8 && (imageSpans m).all fun s =>
    decide (s.1 < s.2) && (lastSyllable m 3 s.2).isSome && (upTo (s.2 / 4096 + 1)).all fun p =>
      decide (p < s.1 / 4096) || (preloadAt m (4096 * p)).isSome

/-- Scope lines: entry, x, y, w, h. -/
def scopeLines (m : SMap Byte) : List (Nat × Nat × Nat × Nat × Nat) :=
  (sectWords m (sectOf m 8) 8).map fun v => (field v 4 0, field v 15 8, field v 23 16, field v 31 24, field v 39 32)

def scopesOk (m : SMap Byte) (w h : Nat) : Bool :=
  wholeRecords (sectOf m 8) 8 && (scopeLines m).all fun l =>
    decide (2 ≤ l.1) && decide (l.2.1 + l.2.2.2.1 ≤ 4 * w ∧ l.2.2.1 + l.2.2.2.2 ≤ 2 * h)

/-- The tiles of a scope line, bit 32·y + x. -/
def scopeRect (x y w h : Nat) : BitVec 512 :=
  (upTo (w * h)).foldl (fun v j => v ||| BitVec.twoPow 512 (32 * (y + j / w) + x + j % w)) 0

/-- The scope group table (R318). -/
def scopeTable (m : SMap Byte) : SMap (BitVec 512) :=
  (scopeLines m).foldl (fun t l => smPut 0 l.1 (smGet 0 t l.1 ||| scopeRect l.2.1 l.2.2.1 l.2.2.2.1 l.2.2.2.2) t) []

/-- Padding to a multiple of 8. -/
def pad8 (n : Nat) : Nat := (n + 7) / 8 * 8

/-- Records of a variable length: an 8-byte head, then `body head` bytes, padded to 8; none where one passes the end. -/
def varRecords (m : SMap Byte) (body : Nat → Nat) : Nat → Nat → Nat → Option (List (Nat × Nat))
  | 0, a, hi => if a = hi then some [] else none
  | n + 1, a, hi =>
    if a = hi then some []
    else
      let v := readB m a 8
      let next := a + 8 + pad8 (body v)
      if hi < next then none
      else (varRecords m body n next hi).map fun rs => (v, a + 8) :: rs

def sectRecords (m : SMap Byte) (kind : Nat) (body : Nat → Nat) : Option (List (Nat × Nat)) :=
  match sectOf m kind with
  | none => some []
  | some s => varRecords m body (s.len / 8) s.off (s.off + s.len)

/-- Schedule tables, data records and raft claims, each as its head and the address of its body. -/
def schedRecs (m : SMap Byte) : Option (List (Nat × Nat)) := sectRecords m 9 fun v => 4 * field v 47 32
def dataRecs (m : SMap Byte) : Option (List (Nat × Nat)) := sectRecords m 10 fun v => field v 63 32
def raftRecs (m : SMap Byte) : Option (List (Nat × Nat)) := sectRecords m 11 fun v => 4 * field v 47 32

def itemMost (rs : List (Nat × Nat)) : Nat := rs.foldl (fun n r => max n (field r.1 47 32)) 0

/-- The schedule tables: st a multiple of 64 in the program area, no table past its end (R407). -/
def schedOk (m : SMap Byte) (st p : Nat) : Bool :=
  match schedRecs m with
  | none => false
  | some rs => st % 64 == 0 && decide (st < p) && (rs.isEmpty || decide (st + 16 + 4 * itemMost rs ≤ p))

/-- Whether two ranges, base and length, do not overlap. One of length 0 strictly inside another overlaps it, of which R502 says nothing. DESIGN
CHOICE, log entry 79. -/
def apart (a b : Nat × Nat) : Bool := decide (a.1 + a.2 ≤ b.1 ∨ b.1 + b.2 ≤ a.1)

/-- The data records: inside the program area, clear of one another and of the schedule table (R502). -/
def dataOk (m : SMap Byte) (st p : Nat) : Bool :=
  match dataRecs m, schedRecs m with
  | some rs, some ts =>
    let ds := rs.map fun r => (field r.1 20 0, field r.1 63 32)
    ds.all (fun d => decide (d.1 + d.2 ≤ p))
      && ds.zipIdx.all (fun a => ds.zipIdx.all fun b => a.2 == b.2 || apart a.1 b.1)
      && (ts.isEmpty || ds.all (apart (st, 16 + 4 * itemMost ts)))
  | _, _ => false

/-- The card addresses of a raft claim. -/
def claimCards (m : SMap Byte) (r : Nat × Nat) : List Nat := wordsAt m r.2 4 (field r.1 47 32)

def raftsOk (m : SMap Byte) (p : Nat) : Bool :=
  match raftRecs m with
  | none => false
  | some rs => rs.all fun r => (claimCards m r).all fun a => a % 32 == 0 && decide (a + 32 ≤ p)

/-- Step 4 of R455: the kind of the first section that fails, 0 for the header's latency table. -/
def sectionFails (m : SMap Byte) (n : Nat) : Option Nat :=
  let h := imageHeader m
  let p := 2 ^ 21 - 4096 * field h 151 144
  let st := field h 223 192
  if !latOk h then some 0
  else if !overlayOk m n then some 2
  else if !pointsOk m then some 4
  else if !spansOk m then some 5
  else if !(wholeRecords (sectOf m 6) 4 && decide (((sectOf m 6).map (·.len)).getD 0 ≤ 16384)) then some 6
  else if ((sectOf m 7).map (·.len)).getD 512 ≠ 512 then some 7
  else if !scopesOk m (field h 98 96 + 1) (field h 101 99 + 1) then some 8
  else if !schedOk m st p then some 9
  else if !dataOk m st p then some 10
  else if !raftsOk m p then some 11
  else none

/-! ## What the Landing keeps (R455) -/

/-- Words of a section as a table; zeros are not listed. -/
def sectTable (m : SMap Byte) (kind w bits : Nat) : SMap (BitVec bits) :=
  match sectOf m kind with
  | some s => wordTable m s.off w (s.len / w) bits
  | none => []

def schedOf (m : SMap Byte) : List (Option (Nat × Nat) × List (BitVec 32)) :=
  ((schedRecs m).getD []).map fun r =>
    (if field r.1 16 16 = 1 then none else some (field r.1 7 0, field r.1 15 8),
     (wordsAt m r.2 4 (field r.1 47 32)).map (BitVec.ofNat 32))

/-- The image as parsed from `n` bytes at virtual address `a`, its scope group table to be at `scopeAt`. -/
def imageFrom (handle : BitVec 32) (scopeAt a n : Nat) (m : SMap Byte) : Image :=
  let h := imageHeader m
  { handle := handle, addr := a, len := n, digest := Config.shake256 (readList m 0 n), scopeAt := scopeAt
    head := BitVec.ofNat 2560 (readB m 0 320)
    secs := ((imageSects m).filter (·.kind != 3)).map fun s => (s.kind, s.off, s.len, Config.shake256 (readList m s.off s.len))
    w := field h 98 96 + 1, h := field h 101 99 + 1, ppmax := field h 139 128, lat := imageLat h, cpages := field h 151 144
    entries := field h 158 152, pinned := field h 191 160, st := field h 223 192, pages := overlayMap m, points := imagePoints m
    spans := imageSpans m, slots := sectTable m 6 4 32, rentry := sectTable m 7 2 13, sched := schedOf m
    data := ((dataRecs m).getD []).map fun r => (field r.1 20 0, readList m r.2 (field r.1 63 32))
    rafts := ((raftRecs m).getD []).map fun r => (BitVec.ofNat 16 (field r.1 15 0), BitVec.ofNat 16 (field r.1 31 16), claimCards m r) }

/-- Whether the public key's hash is enrolled (step 2 of R455). -/
def keyEnrolled (v : VDev) (key : List Byte) : Bool := v.keys.toList.any fun k => k != 0 && k == Config.shake256 key

/-- The place of a new scope group table: the first free one of the Yarder's, in the lowest 1 GiB (R318, R477). -/
def scopePlace (s : State) : Nat :=
  let used := scopesInUse s
  let place := fun j => scopeLen * (Config.scopeBase % 2 ^ 18 + j)
  match (upTo (used.length + 1)).find? fun j => !used.contains (place j) with
  | some j => place j
  | none => place 0

/-- The 2,048 bytes of a scope group table (R318). -/
def scopeBytes (m : SMap Byte) : List Byte := (upTo 32).flatMap fun e => toBytes 64 (smGet 0 (scopeTable m) e).toNat

/-- The Landing builds an image's scope group table in the memory of no virtual device (R318). -/
def buildScopes (i : Image) (bs : List Byte) (s : State) : State := devWrite 0 i.scopeAt (scopeBytes (packBytes 0 bs)) s

/-- Steps 1 to 4 of R455 on the bytes of an image: a status and value, or the image. -/
def landing (v : VDev) (handle : BitVec 32) (scopeAt a : Nat) (bs : List Byte) : Except (Nat × Nat) Image :=
  let n := bs.length
  let m := packBytes 0 bs
  if !headerOk m n then .error (5, 0)
  else
    let key := readList m (((sectOf m 1).map (·.off)).getD 0) 64
    if !keyEnrolled v key then .error (4, 0)
    else if !Config.slhVerify key (bs.take (n - sigBytes)) (bs.drop (n - sigBytes)) then .error (4, 0)
    else
      match sectionFails m n with
      | some k => .error (5, k)
      | none => .ok (imageFrom handle scopeAt a n m)

/-- Step 5 of R455. -/
def quotaAdmits (v : VDev) (i : Image) : Bool :=
  decide (i.w ≤ qWmax v ∧ i.h ≤ qHmax v ∧ i.cpages ≤ qCpages v ∧ i.entries ≤ qEntries v ∧ i.pinned ≤ 4096 * qPinned v
    ∧ (v.images.filter (! ·.retired)).length < qImages v)

end Sys2Proof.Machine
end

