-- ==== Sys2Proof/Machine/Host.lean ====
section
/-! DEFINITION. The commands of an interface: 17_host.md R447 to R450, R466 to R473; 03_issue.md R70, R72; 15_tiles_time.md R398,
R404; 16_preemption.md R420, R437. -/

namespace Sys2Proof.Machine

/-! ## Carrying out a command (R447 to R449, R459) -/

def cmdOp (c : Cmd) : Nat := field c.q0.toNat 7 0
def cmdDone (c : Cmd) : Nat := field c.q0.toNat 63 16
def cmdStream (c : Cmd) : BitVec 16 := c.q2.extractLsb' 0 16
def cmdGen (c : Cmd) : BitVec 16 := c.q2.extractLsb' 16 16

/-- How a command ends: with a status and value, or not yet. -/
inductive CmdOut where
  | done (status value : Nat) (s : State)
  /-- it waits on other work, which `s` may have set going -/
  | wait (s : State)

/-- A command leaves the head of its queue. -/
def cmdPop (vd : BitVec 8) (c : Cmd) (s : State) : State :=
  modVd vd (fun v => if v.cmdq.head? = some c then { v with cmdq := v.cmdq.tail, cmdHeld := false, cmdRes := none } else v) s

/-- A write that the oldest command needs is held for lack of a snapshot pool page, and counted once: one of its own, or its completion
word's, with the result `res` (R467). -/
def holdCmd (vd : BitVec 8) (c : Cmd) (res : Option (Nat × Nat)) (s : State) : State :=
  let v := getVd vd s
  if v.cmdq.head? = some c then
    let s := if v.cmdHeld && v.cmdRes == res then s else noteSnapHold vd s
    modVd vd (fun v => { v with cmdHeld := true, cmdRes := res }) s
  else s

def countCmderr (vd : BitVec 8) (s : State) : State := modVd vd (fun v => { v with cmderr := v.cmderr + 1 }) s

/-- The completion word: result at done + 8, then token at done (R447). -/
def cmdWrite (vd : BitVec 8) (c : Cmd) (status value : Nat) (s : State) : State :=
  match sysWrite vd (cmdDone c + 8) (toBytes 8 (status + value % 2 ^ 32 * 2 ^ 32)) true s with
  | (false, s) => countCmderr vd s
  | (true, s) => (sysWrite vd (cmdDone c) (toBytes 8 c.q1.toNat) true s).2

/-- A command posted while 16 waited is answered with status 7; while its completion word is held, `counted` or not, it is kept (R447, R467). -/
def answerBusy (vd : BitVec 8) (counted : Bool) (c : Cmd) (s : State) : State :=
  unlessHeld vd (fun s => ((), cmdWrite vd c 7 0 s))
    (fun s =>
      let s := modVd vd (fun v => { v with cmdBusy := v.cmdBusy ++ [c] }) s
      if counted then s else noteSnapHold vd s)
    (fun _ s => s) s

/-- Such commands whose completion words are held are answered, if they can be. -/
def retryBusy (vd : BitVec 8) (s : State) : State :=
  (getVd vd s).cmdBusy.foldl (fun s c => answerBusy vd true c s) (modVd vd (fun v => { v with cmdBusy := [] }) s)

/-- A command completes; where its completion word is held, it stays at the head with its result (R447, R467). -/
def cmdFinish (vd : BitVec 8) (c : Cmd) (status value : Nat) (s : State) : State :=
  unlessHeld vd (fun s => ((), cmdWrite vd c status value s)) (holdCmd vd c (some (status, value))) (fun _ s => cmdPop vd c s) s

/-- The result of a command that waits only for its completion word. -/
def cmdResult (vd : BitVec 8) (c : Cmd) (s : State) : Option (Nat × Nat) :=
  let v := getVd vd s
  if v.cmdq.head? = some c then v.cmdRes else none

/-- A command taken up: discarded in ERROR or without a completion word, its held completion tried again, or carried out by `act`
(R447, R459, R467). -/
def cmdTake (vd : BitVec 8) (c : Cmd) (act : State → State) (s : State) : State :=
  if (getVd vd s).tstate = .error then countCmderr vd (cmdPop vd c s)
  else
    match sysOk vd (cmdDone c) 16 false true s with
    | (false, s) => countCmderr vd (cmdPop vd c s)
    | (true, s) =>
      match cmdResult vd c s with
      | some r => cmdFinish vd c r.1 r.2 s
      | none => act s

/-- Whether operand bits that R449 does not name are zero; a list of masks for Q2 to Q7. -/
def cmdClean (c : Cmd) (masks : List (BitVec 64)) : Bool :=
  c.q0.extractLsb' 8 8 == 0 && cmdDone c % 16 == 0 &&
    ([c.q2, c.q3, c.q4, c.q5, c.q6, c.q7].zipIdx.all fun q => q.1 &&& ~~~(masks.getD q.2 0) == 0)

def allOnes64 : BitVec 64 := BitVec.allOnes 64

/-- A command carried out: malformed, refused by state or issuer, or as `body` says (R447 to R449, R459). -/
def runCmd (vd : BitVec 8) (c : Cmd) (masks : List (BitVec 64)) (zeroOnly : Bool) (body : State → CmdOut) (s : State) : State :=
  cmdTake vd c (fun s =>
    if !cmdClean c masks then cmdFinish vd c 1 0 s
    else if zeroOnly && vd != 0 then cmdFinish vd c 2 0 s
    else if !zeroOnly && (getVd vd s).tstate == .locked then cmdFinish vd c 2 0 s
    else
      match body s with
      | .done status value s => cmdFinish vd c status value s
      | .wait s => s) s

/-- A write to the issuer's space that a command's effect needs; the command waits while it is held (R467). -/
def cmdStore (vd : BitVec 8) (c : Cmd) (va : Nat) (bs : List Byte) (k : Bool → State → CmdOut) (s : State) : CmdOut :=
  unlessHeld vd (sysWrite vd va bs true) (fun s => .wait (holdCmd vd c none s)) k s

/-- UNKNOWN_OP (R448). -/
def execUnknownOp (vd : BitVec 8) (c : Cmd) (s : State) : Host.Outcome State Fault Refusal :=
  .next (cmdTake vd c (cmdFinish vd c 1 0) s)

/-! ## Images and streams -/

/-- The bytes of an image that a command names, or the status that comes before the Landing's steps: a length of 0, or bytes that do not
translate, then a length beyond what step 1 admits (R451, R455). -/
def imageBytes (vd : BitVec 8) (a n : Nat) (s : State) : Except Nat (List Byte) × State :=
  if n = 0 then (.error 1, s)
  else
    match sysOk vd a n true false s with
    | (false, s) => (.error 1, s)
    | (true, s) =>
      if 2 ^ 28 < n then (.error 5, s)
      else
        match sysRead vd a n s with
        | (none, s) => (.error 1, s)
        | (some bs, s) => (.ok bs, s)

/-- PUBLISH (R450, R455). -/
def publishCmd (vd : BitVec 8) (c : Cmd) (s : State) : CmdOut :=
  let v := getVd vd s
  if v.quota.raw = 0 then .done 3 0 s
  else
    match imageBytes vd c.q2.toNat c.q3.toNat s with
    | (.error e, s) => .done e 0 s
    | (.ok bs, s) =>
      match landing v v.nextImage (scopePlace s) c.q2.toNat bs with
      | .error e => .done e.1 e.2 s
      | .ok i =>
        if quotaAdmits v i then
          .done 0 i.handle.toNat (modVd vd (fun v => { v with images := v.images ++ [i], nextImage := v.nextImage + 1 })
            (buildScopes i bs s))
        else .done 3 0 s
def execPublish (vd : BitVec 8) (c : Cmd) (s : State) : Host.Outcome State Fault Refusal :=
  .next (runCmd vd c [allOnes64, allOnes64] false (publishCmd vd c) s)

/-- RETIRE. -/
def retireCmd (vd : BitVec 8) (c : Cmd) (s : State) : CmdOut :=
  let h := c.q2.extractLsb' 0 32
  if (getVd vd s).images.any fun i => i.handle == h && !i.retired then
    .done 0 0 (modVd vd (fun v => { v with images := v.images.map fun i => if i.handle = h then { i with retired := true } else i }) s)
  else .done 6 0 s
def execRetire (vd : BitVec 8) (c : Cmd) (s : State) : Host.Outcome State Fault Refusal :=
  .next (runCmd vd c [0xFFFFFFFF] false (retireCmd vd c) s)

/-- The open stream of a number. -/
def openStreamOf (v : VDev) (n : BitVec 16) : Option StreamSt := v.streams.find? fun st => st.num == n && !st.closed

/-- OPEN (R449, R450). -/
def openCmd (vd : BitVec 8) (c : Cmd) (s : State) : CmdOut :=
  let v := getVd vd s
  let n := cmdStream c
  let prio := field c.q2.toNat 18 16
  if v.quota.raw = 0 then .done 3 0 s
  else if (openStreamOf v n).isSome then .done 2 0 s
  else if qPmax v < prio ∨ qStreams v ≤ (v.streams.filter (! ·.closed)).length then .done 3 0 s
  else if v.streams.any (·.num == n) then
    .done 0 0 (modVd vd (fun v => { v with streams := v.streams.map fun st =>
      if st.num = n then { st with prio := prio, closed := false } else st }) s)
  else .done 0 0 (modVd vd (fun v => { v with streams := v.streams ++ [{ num := n, prio := prio }] }) s)
def execOpenStream (vd : BitVec 8) (c : Cmd) (s : State) : Host.Outcome State Fault Refusal :=
  .next (runCmd vd c [0x7FFFF] false (openCmd vd c) s)

/-- The JCB of a known job. -/
def jobJcb (vd : BitVec 8) (stream : BitVec 16) (j : Job) : JcbRef := { vd := vd, addr := j.jcb, stream := stream, gen := j.gen }

/-- A job ended by the host: JCB status bit 2, its record, and the stream goes on (R404, R449); none while the JCB's write is held. -/
def endJob (vd : BitVec 8) (stream : BitVec 16) (j : Job) (s : State) : Option State :=
  match jcbEnd (jobJcb vd stream j) true s with
  | .done s | .over s => some (modJob vd stream j.gen (fun j => { j with left := true, posted := true, slot := none }) s)
  | .held _ => none

/-- The command's held write is made: the next one that is held is counted again (R467). -/
def cmdMoves (vd : BitVec 8) (s : State) : State := modVd vd (fun v => { v with cmdHeld := false }) s

/-- Jobs ended in turn, and whether all could be. -/
def endJobs (vd : BitVec 8) (stream : BitVec 16) : List Job → State → Bool × State
  | [], s => (true, s)
  | j :: js, s =>
    match endJob vd stream j s with
    | some s => endJobs vd stream js (cmdMoves vd s)
    | none => (false, s)

/-- CLOSE: jobs not yet bound are ended; a stream without jobs is gone. -/
def closeCmd (vd : BitVec 8) (c : Cmd) (s : State) : CmdOut :=
  let n := cmdStream c
  match openStreamOf (getVd vd s) n with
  | none => .done 6 0 s
  | some st =>
    match endJobs vd n (st.jobs.filter fun j => j.slot.isNone && !j.left) s with
    | (false, s) => .wait (holdCmd vd c none s)
    | (true, s) => .done 0 0 (modVd vd (fun v => { v with streams :=
      (v.streams.map fun st => if st.num = n then { st with closed := true } else st).filter fun st => !(st.closed && st.jobs.isEmpty) }) s)
def execCloseStream (vd : BitVec 8) (c : Cmd) (s : State) : Host.Outcome State Fault Refusal :=
  .next (runCmd vd c [0xFFFF] false (closeCmd vd c) s)

/-! ## Jobs -/

/-- The job of a SUBMIT. -/
def newJob (gen : BitVec 16) (c : Cmd) (prio : Nat) : Job :=
  { gen := gen, image := c.q2.extractLsb' 32 32, jcb := c.q3.toNat, mbox := c.q4.toNat, save := c.q5.toNat, deadline := c.q6.toNat
    nd := c.q2.getLsbD 18, cp := c.q2.getLsbD 16, la := c.q2.getLsbD 17, prio := prio }

/-- SUBMIT (R387, R449). -/
def submitCmd (vd : BitVec 8) (c : Cmd) (s : State) : CmdOut :=
  let v := getVd vd s
  let n := cmdStream c
  if c.q3.toNat % 32 ≠ 0 ∨ c.q4.toNat % 64 ≠ 0 ∨ c.q5.toNat % 4096 ≠ 0 ∨ 2 ^ 48 ≤ c.q3.toNat ∨ 2 ^ 48 ≤ c.q4.toNat
      ∨ 2 ^ 48 ≤ c.q5.toNat then .done 1 0 s
  else
    match openStreamOf v n with
    | none => .done 6 0 s
    | some st =>
      if v.images.any fun i => i.handle == c.q2.extractLsb' 32 32 && !i.retired then
        let j := newJob v.genCtr c st.prio
        .done 0 v.genCtr.toNat (modVd vd (fun v => { v with
          genCtr := v.genCtr + 1
          streams := v.streams.map fun st => if st.num = n then pruneJobs s.mod.time { st with jobs := st.jobs ++ [j] } else st }) s)
      else .done 6 0 s
def execSubmit (vd : BitVec 8) (c : Cmd) (s : State) : Host.Outcome State Fault Refusal :=
  .next (runCmd vd c [0xFFFFFFFF0007FFFF, allOnes64, allOnes64, allOnes64, 0xFFFFFFFF] false (submitCmd vd c) s)

/-- The known job that a command names (R449). -/
def knownJob (v : VDev) (c : Cmd) : Option Job :=
  (v.streams.find? (·.num == cmdStream c)).bind fun st => st.jobs.find? (·.gen == cmdGen c)

/-- A command on the bind record of a known job; status 6 for no known job, 2 where it holds no record. -/
def onRecord (vd : BitVec 8) (c : Cmd) (body : Nat → Job → State → CmdOut) (s : State) : CmdOut :=
  match knownJob (getVd vd s) c with
  | none => .done 6 0 s
  | some j =>
    match j.slot with
    | none => .done 2 0 s
    | some k => body k j s

/-- A mailbox word as the tile's copy takes it (R398, R399). -/
def mboxTile (n : BitVec 6) (v : Word) (t : Tile) : Tile :=
  { t with place := { t.place with mbx := t.place.mbx.set n.toNat v n.isLt, mbxFresh := t.place.mbxFresh ||| BitVec.twoPow 64 n.toNat } }

/-- MBOXW (R398): the word in memory, then the tiles' copies; both wait while the word's write is held (R467). Where the word no longer
translates for writing the copies change alone, with status 0. DESIGN CHOICE, log entry 33. -/
def mboxwCmd (vd : BitVec 8) (c : Cmd) (s : State) : CmdOut :=
  onRecord vd c (fun k _ s =>
    let n := c.q2.extractLsb' 32 6
    let b := getBind k s
    cmdStore vd c (b.mbox + 8 * n.toNat) (toBytes 8 c.q3.toNat) (fun _ s =>
      .done 0 0 (overTiles (heldTiles k s) (mboxTile n c.q3) s)) s) s
def execMboxw (vd : BitVec 8) (c : Cmd) (s : State) : Host.Outcome State Fault Refusal :=
  .next (runCmd vd c [0x3FFFFFFFFF, allOnes64] false (mboxwCmd vd c) s)

/-- JPOST (R404): one completion; held while its JCB's write waits for a snapshot pool page. -/
def jpostCmd (vd : BitVec 8) (c : Cmd) (s : State) : CmdOut :=
  match knownJob (getVd vd s) c with
  | none => .done 6 0 s
  | some j =>
    match jcbUpdate (jobJcb vd (cmdStream c) j) 0 1 s with
    | .done s => .done 0 0 s
    | .over s => .done 0 0 s
    | .held s => .wait (holdCmd vd c none s)
def execJpost (vd : BitVec 8) (c : Cmd) (s : State) : Host.Outcome State Fault Refusal :=
  .next (runCmd vd c [0xFFFFFFFF] false (jpostCmd vd c) s)

/-! ## REPLY (R420) -/

/-- A reply to a gang: it waits on the halt and the save, and needs the saved state (R388, R420). -/
def onReply (vd : BitVec 8) (c : Cmd) (body : Nat → Job → Bind → State → CmdOut) (s : State) : CmdOut :=
  onRecord vd c (fun k j s =>
    let b := getBind k s
    if b.state = .halting then .wait s
    else if b.state = .saved then body k j b s
    else .done 2 0 s) s

def replyMasks : List (BitVec 64) := [0x3FFFFFFFF, allOnes64, allOnes64]

/-- REPLY resume: refused for a record that is not resumable or awaits no reply. -/
def replyResumeCmd (vd : BitVec 8) (c : Cmd) (s : State) : CmdOut :=
  onReply vd c (fun k _ b s =>
    if b.resumable && b.await then .done 0 0 (modBind k (fun b => { b with await := false, reply := some (c.q3, c.q4), agedAt := s.mod.time }) s)
    else .done 2 0 s) s
def execReplyResume (vd : BitVec 8) (c : Cmd) (s : State) : Host.Outcome State Fault Refusal :=
  .next (runCmd vd c replyMasks false (replyResumeCmd vd c) s)

/-- REPLY restart: the context is dropped and the record is bound for a restart (R388, R436). -/
def replyRestartCmd (vd : BitVec 8) (c : Cmd) (s : State) : CmdOut :=
  onReply vd c (fun k _ b s => .done 0 0 (activate (modBind k (forRestart b.kept) s))) s
def execReplyRestart (vd : BitVec 8) (c : Cmd) (s : State) : Host.Outcome State Fault Refusal :=
  .next (runCmd vd c replyMasks false (replyRestartCmd vd c) s)

/-- REPLY end: the context is dropped, JCB status bit 2 is set and the slot is empty. -/
def replyEndCmd (vd : BitVec 8) (c : Cmd) (s : State) : CmdOut :=
  onReply vd c (fun k j _ s =>
    match endJob vd (cmdStream c) j s with
    | some s => .done 0 0 (modBind k (fun _ => {}) s)
    | none => .wait (holdCmd vd c none s)) s
def execReplyEnd (vd : BitVec 8) (c : Cmd) (s : State) : Host.Outcome State Fault Refusal :=
  .next (runCmd vd c replyMasks false (replyEndCmd vd c) s)

/-! ## Overlay pages (R70, R72) -/

/-- An absent page as the host maps it: a demand page with its content at `a`. -/
def mapEnt (page a : Nat) (e : PageEnt) : PageEnt := if e.page = page then { e with state := 2, mapped := some a } else e

/-- Pages of a bind and of its tiles changed. -/
def onPages (slot : Nat) (f : PageEnt → PageEnt) (s : State) : State :=
  overTiles (heldTiles slot s) (fun t => { t with place := { t.place with pages := t.place.pages.map f } })
    (modBind slot (fun b => { b with pages := b.pages.map f }) s)

/-- MAPPAGE (R70). -/
def mappageCmd (vd : BitVec 8) (c : Cmd) (s : State) : CmdOut :=
  onRecord vd c (fun k _ s =>
    let page := field c.q2.toNat 39 32
    match (getBind k s).pages.find? (·.page == page) with
    | none => .done 2 0 s
    | some e =>
      if e.state ≠ 0 then .done 2 0 s
      else
        match sysRead vd c.q3.toNat 4096 s with
        | (none, s) => .done 1 0 s
        | (some bs, s) =>
          if Config.shake256 bs = e.hash then .done 0 0 (onPages k (mapEnt page c.q3.toNat) s) else .done 5 3 s) s
def execMappage (vd : BitVec 8) (c : Cmd) (s : State) : Host.Outcome State Fault Refusal :=
  .next (runCmd vd c [0xFFFFFFFFFF, allOnes64] false (mappageCmd vd c) s)

/-- Whether a page entry of a replacement is the bound image's, `page`'s hash apart; `bound` is the entry as the bind holds it, with the
hash that an earlier reload left. -/
def sameEntry (page : Nat) (old bound new : PageEnt) : Bool :=
  old.page == new.page && old.state == new.state && old.offset == new.offset && (old.page == page || bound.hash == new.hash)

/-- Where a replacement image differs from the bound one in more than a page's content and hash and the signature (R72): the kind, 0
for the header or the section table. -/
def reloadDiffers (old new : Image) (bound : List PageEnt) (page : Nat) : Option Nat :=
  if old.head ≠ new.head then some 0
  else
    match (old.secs.zip new.secs).find? fun p => p.1.1 != 2 && p.1 != p.2 with
    | some p => some p.1.1
    | none =>
      if old.pages.length ≠ new.pages.length
          ∨ ((old.pages.zip bound).zip new.pages).any fun p => !sameEntry page p.1.1 p.1.2 p.2 then some 2
      else none

/-- The content that a replacement image gives a page; none for a page that it holds absent (R65, R70). -/
def reloadContent (bs : List Byte) (e : PageEnt) : Option (List Byte) := if e.state = 0 then none else some ((bs.drop e.offset).take 4096)

/-- A frame of the page that a reload replaces: as it is under `keep`, with its new words, or no frame any longer. -/
def reloadFrame (keep : Bool) (words : Option (SMap Word)) (f : Frame) : Option Frame :=
  if keep then some f else words.map fun w => { f with words := w }

/-- A tile under an overlay reload: its frame of the page replaced, every frame of the bound image retagged (R72). Of a page that the
replacement holds absent and that the host has mapped, no rule says what becomes: with its hash unchanged it stays as mapped, and with
another it is absent again and its frames are gone. DESIGN CHOICE, log entry 87. -/
def reloadTile (old new : BitVec 256) (page : Nat) (keep : Bool) (words : Option (SMap Word)) (t : Tile) : Tile :=
  let frame := fun (f : Frame) =>
    if f.digest = old then (if f.page = page then reloadFrame keep words f else some f).map fun f => { f with digest := new } else some f
  { t with ctl := { t.ctl with frames := t.ctl.frames.filterMap frame }, place := { t.place with digest := new } }

/-- RELOAD (R72). -/
def reloadCmd (vd : BitVec 8) (c : Cmd) (s : State) : CmdOut :=
  onRecord vd c (fun k _ s =>
    let page := field c.q2.toNat 39 32
    let b := getBind k s
    match imageOf vd b.image s with
    | none => .done 6 0 s
    | some i =>
      match imageBytes vd c.q3.toNat c.q4.toNat s with
      | (.error e, s) => .done e 0 s
      | (.ok bs, s) =>
          match landing (getVd vd s) i.handle i.scopeAt c.q3.toNat bs with
          | .error e => .done e.1 e.2 s
          | .ok n =>
            match reloadDiffers i n b.pages page, n.pages.find? (·.page == page) with
            | some kind, _ => .done 5 kind s
            | none, none => .done 1 0 s
            | none, some e =>
              let content := reloadContent bs e
              let keep := e.state == 0 && b.pages.any fun x => x.page == page && x.hash == e.hash
              let set := fun (x : PageEnt) =>
                if x.page ≠ page then x
                else if keep then { x with hash := e.hash }
                else { x with state := e.state, hash := e.hash, mapped := content.map fun _ => c.q3.toNat + e.offset }
              let s := overTiles (heldTiles k s) (reloadTile b.digest n.digest page keep (content.map pageWords)) (onPages k set s)
              .done 0 0 (modBind k (fun b => { b with digest := n.digest }) s)) s
def execReload (vd : BitVec 8) (c : Cmd) (s : State) : Host.Outcome State Fault Refusal :=
  .next (runCmd vd c [0xFFFFFFFFFF, allOnes64, allOnes64] false (reloadCmd vd c) s)

/-! ## Sessions and snapshots (R467 to R469) -/

/-- Whether every granule of a range is device-resident. -/
def deviceResident (vd : BitVec 8) (base bytes : Nat) (s : State) : Bool × State :=
  (upTo (bytes / 4096)).foldl (fun r j =>
    match walk vd (base + 4096 * j) r.2 with
    | (.leaf e _ _, s) => (r.1 && e.res == 0, s)
    | (.fail _, s) => (false, s)) (true, s)

/-- SESSION, define (R469). -/
def sessionDefineCmd (vd : BitVec 8) (c : Cmd) (s : State) : CmdOut :=
  let v := getVd vd s
  let id := c.q2.extractLsb' 0 32
  let base := c.q3.toNat
  let n := c.q4.toNat
  if base % 65536 ≠ 0 ∨ n % 65536 ≠ 0 ∨ n = 0 ∨ 0xFFFFC0000000 < base + n ∨ v.sess.any (·.id == id)
      ∨ (v.sess.any fun x => decide (base < x.base + x.bytes ∧ x.base < base + n)) then .done 1 0 s
  else
    match deviceResident vd base n s with
    | (false, s) => .done 1 0 s
    | (true, s) =>
    if qSessions v ≤ v.sess.length then .done 3 0 s
    else
    .done 0 0 (modVd vd (fun v => { v with
      sessGen := v.sessGen + 1
      sess := v.sess ++ [{ id := id, base := base, bytes := n, age := field c.q5.toNat 31 0, gen := v.sessGen, since := s.mod.time }] }) s)
def sessionMasks : List (BitVec 64) := [0x1FFFFFFFF, allOnes64, allOnes64, 0xFFFFFFFF]
def execSessionDefine (vd : BitVec 8) (c : Cmd) (s : State) : Host.Outcome State Fault Refusal :=
  .next (runCmd vd c sessionMasks false (sessionDefineCmd vd c) s)

/-- SESSION, remove. -/
def sessionRemoveCmd (vd : BitVec 8) (c : Cmd) (s : State) : CmdOut :=
  let id := c.q2.extractLsb' 0 32
  if (getVd vd s).sess.any (·.id == id) then .done 0 0 (modVd vd (fun v => { v with sess := v.sess.filter (·.id != id) }) s)
  else .done 6 0 s
def execSessionRemove (vd : BitVec 8) (c : Cmd) (s : State) : Host.Outcome State Fault Refusal :=
  .next (runCmd vd c sessionMasks false (sessionRemoveCmd vd c) s)

/-- A granule as it stood at snapshot `n`: the first copy made since, otherwise the page (R468). -/
def granuleAt (vd : BitVec 8) (n va : Nat) (s : State) : Option (List Byte) × State :=
  let copies := ((getVd vd s).snaps.filter fun x => decide (n ≤ x.num)).filterMap fun x => x.copies.find? (·.1 == va / 4096)
  match copies with
  | (_, a) :: _ => (some (readList s.mem.dmem a 4096), devTouch vd a 4096 s)
  | [] => sysRead vd va 4096 s

/-- SNAPREAD (R468). -/
def snapreadCmd (vd : BitVec 8) (c : Cmd) (s : State) : CmdOut :=
  let n := field c.q2.toNat 31 0
  if c.q3.toNat % 4096 ≠ 0 ∨ 2 ^ 48 ≤ c.q3.toNat then .done 1 0 s
  else if (getVd vd s).snaps.any (·.num == n) then
    match granuleAt vd n c.q3.toNat s with
    | (none, s) => .done 1 0 s
    | (some bs, s) => cmdStore vd c c.q4.toNat bs (fun ok s => .done (if ok then 0 else 1) 0 s) s
  else .done 6 0 s
def execSnapread (vd : BitVec 8) (c : Cmd) (s : State) : Host.Outcome State Fault Refusal :=
  .next (runCmd vd c [0xFFFFFFFF, allOnes64, allOnes64] false (snapreadCmd vd c) s)

/-- Pool pages of a snapshot's copies given back. -/
def giveCopies (x : Snap) (v : VDev) : VDev := x.copies.foldl (fun v p => poolReturn p.2 4096 v) v

/-- SNAPREL (R467): a snapshot and every earlier one; held writes are tried again. -/
def snaprelCmd (vd : BitVec 8) (c : Cmd) (s : State) : CmdOut :=
  let n := field c.q2.toNat 31 0
  let v := getVd vd s
  if v.snaps.any (·.num == n) then
    let s := modVd vd (fun v =>
      (v.snaps.filter fun x => decide (x.num ≤ n)).foldl (fun v x => giveCopies x v)
        { v with snaps := v.snaps.filter fun x => decide (n < x.num) }) s
    .done 0 0 (retryBusy vd (releaseHolds vd (·.snap) s))
  else .done 6 0 s
def execSnaprel (vd : BitVec 8) (c : Cmd) (s : State) : Host.Outcome State Fault Refusal :=
  .next (runCmd vd c [0xFFFFFFFF] false (snaprelCmd vd c) s)

/-! ## The management function's commands (R437, R449, R450, R473) -/

def cmdTarget (c : Cmd) : BitVec 8 := c.q2.extractLsb' 0 8

/-- Whether a target is CONFIG_LOCKED or RUN. -/
def frozen (v : VDev) : Bool := v.tstate == .locked || v.tstate == .run

/-- The record in Q3 to Q6. -/
def cmdRecord (c : Cmd) : BitVec 256 := c.q6 ++ (c.q5 ++ (c.q4 ++ c.q3))

/-- Ranges of the quota record (R450). -/
def quotaOk (r : BitVec 256) : Bool :=
  let f := field r.toNat
  f 116 0 == 0 && decide (8 ≤ f 169 161 ∧ f 169 161 ≤ 256) && decide (1 ≤ f 160 155 ∧ f 160 155 ≤ 32)
    && decide (f 207 199 ≤ 256) && decide (f 198 186 ≤ 4096) && decide (f 185 170 ≤ 32768) && decide (f 154 147 ≤ 128)
    && decide (f 146 140 ≤ 64) && decide (f 139 133 ≤ 64) && decide (f 132 126 ≤ 64)

/-- The gangs of a device that a new quota no longer admits (R437). -/
def overQuota (vd : BitVec 8) (v : VDev) (s : State) : List Nat :=
  let held := (bindsOf vd s).filter fun x => holdsClusters x.2
  let total := held.foldl (fun n x => n + x.2.w * x.2.h) 0
  let above := fun (b : Bind) =>
    decide (qClusters v < total) || !shapeAdmitted v b.w b.h ||
      match imageOf vd b.image s with
      | some i => !decide (i.cpages ≤ qCpages v ∧ i.entries ≤ qEntries v ∧ i.pinned ≤ 4096 * qPinned v)
      | none => false
  (held.filter fun x => above x.2).map (·.1)

/-- Whether a command of VD 0 may name a target: a function that is not enabled has no interface, holds no record and owns no memory
(R443); it is an operand out of range. DESIGN CHOICE, log entry 71. -/
def targetOk (t : BitVec 8) (s : State) : Bool := (getVd t s).enabled

/-- A gang evicted with unbounded R (R437). -/
def evictGang (k : Nat) (s : State) : State := haltGang k (modBind k (fun b => { b with due := none }) s)

/-- QUOTA (R375, R437, R450): affected gangs are evicted first. -/
def quotaCmd (c : Cmd) (s : State) : CmdOut :=
  let t := cmdTarget c
  let v := getVd t s
  let r := cmdRecord c
  if !(quotaOk r && targetOk t s) then .done 1 0 s
  else if frozen v then .done 2 0 s
  else
    match overQuota t { v with quota := { raw := r } } s with
    | [] => .done 0 0 (dropAll t (modVd t (fun v => { v with quota := { raw := r } }) s))
    | ks => .wait (ks.foldl (fun s k => evictGang k s) s)
def recordMasks (q2 : BitVec 64) : List (BitVec 64) := [q2, allOnes64, allOnes64, allOnes64, allOnes64]
def execQuota (vd : BitVec 8) (c : Cmd) (s : State) : Host.Outcome State Fault Refusal :=
  .next (runCmd vd c (recordMasks 0xFF) true (quotaCmd c) s)

/-- ENROLL. -/
def enrollCmd (c : Cmd) (s : State) : CmdOut :=
  let t := cmdTarget c
  let n := c.q2.extractLsb' 8 2
  if !targetOk t s then .done 1 0 s
  else if frozen (getVd t s) then .done 2 0 s
  else .done 0 0 (modVd t (fun v => { v with keys := v.keys.set n.toNat (cmdRecord c) n.isLt }) s)
def execEnroll (vd : BitVec 8) (c : Cmd) (s : State) : Host.Outcome State Fault Refusal :=
  .next (runCmd vd c (recordMasks 0x3FF) true (enrollCmd c) s)

/-- Whether a pool's range is one VD 0 may assign (R449, R477). -/
def poolOk (t : BitVec 8) (base n : Nat) (s : State) : Bool :=
  base % 65536 == 0 && n % 65536 == 0 && ownable base n
    && s.vds.all fun x => x.1 == t.toNat || (((poolRanges x.2).all fun r => r.2 == 0 || apart (base, n) r)
      && x.2.skid.all fun k => !k.orphan || apart (base, n) (k.pa, k.size))

/-- POOL. -/
def poolCmd (c : Cmd) (s : State) : CmdOut :=
  let t := cmdTarget c
  if !(poolOk t c.q3.toNat c.q4.toNat s && targetOk t s) then .done 1 0 s
  else if frozen (getVd t s) then .done 2 0 s
  else .done 0 0 (modVd t (fun v => { v with poolBase := c.q3.toNat, poolBytes := c.q4.toNat }) s)
def execPool (vd : BitVec 8) (c : Cmd) (s : State) : Host.Outcome State Fault Refusal :=
  .next (runCmd vd c [0xFF, allOnes64, allOnes64] true (poolCmd c) s)

def stateCode : BindState → Nat
  | .empty => 0
  | .bound => 1
  | .running => 2
  | .halting => 3
  | .saved => 4
  | .leaving => 5

/-- A bind record as the slot table holds it (R387). -/
def bindWord (b : Bind) : BitVec 512 :=
  BitVec.ofNat 48 b.save ++ (BitVec.ofNat 48 b.scope ++ (BitVec.ofNat 48 b.mbox ++ (BitVec.ofNat 48 b.jcb ++ (BitVec.ofNat 32 b.deadline ++
    (BitVec.ofNat 32 b.slice ++ (b.image ++ (b.gen ++ (b.stream ++ (b.vd ++ ((0 : BitVec 8) ++ (BitVec.ofNat 3 b.col0 ++ (BitVec.ofNat 3 b.row0 ++
    (BitVec.ofNat 3 (b.w - 1) ++ (BitVec.ofNat 3 (b.h - 1) ++ ((0 : BitVec 4) ++ (BitVec.ofNat 3 b.prio ++ (BitVec.ofNat 3 b.base ++
    (BitVec.ofNat 6 b.waited ++ (BitVec.ofNat 4 (stateCode b.state) ++ ((0 : BitVec 5) ++ (BitVec.ofBool b.nd ++ (BitVec.ofBool b.cp ++
    (BitVec.ofBool b.la ++ ((0 : BitVec 8) ++ (b.start ++ b.runc)))))))))))))))))))))))))

/-- The 4,096 bytes of the slot table. -/
def slotTable (s : State) : List Byte := (upTo 64).flatMap fun k => toBytes 64 (bindWord (getBind k s)).toNat

/-- SLOTS. -/
def slotsCmd (vd : BitVec 8) (c : Cmd) (s : State) : CmdOut :=
  cmdStore vd c c.q2.toNat (slotTable s) (fun ok s => .done (if ok then 0 else 1) 0 s) s
def execSlots (vd : BitVec 8) (c : Cmd) (s : State) : Host.Outcome State Fault Refusal :=
  .next (runCmd vd c [allOnes64] true (slotsCmd vd c) s)

/-- DUMP (R442). -/
def dumpCmd (vd : BitVec 8) (c : Cmd) (s : State) : CmdOut :=
  if 2 ^ 31 < c.q3.toNat + c.q4.toNat then .done 1 0 s
  else
    cmdStore vd c c.q2.toNat (readList s.mem.dmem (dumpBase + c.q3.toNat) c.q4.toNat) (fun ok s => .done (if ok then 0 else 1) 0 s)
      (devTouch vd (dumpBase + c.q3.toNat) c.q4.toNat s)
def execDump (vd : BitVec 8) (c : Cmd) (s : State) : Host.Outcome State Fault Refusal :=
  .next (runCmd vd c [allOnes64, allOnes64, allOnes64] true (dumpCmd vd c) s)

/-- PAIR (R473). -/
def pairCmd (c : Cmd) (s : State) : CmdOut :=
  let l := c.q2.extractLsb' 0 2
  let t := c.q2.extractLsb' 8 8
  let r := c.q2.extractLsb' 16 8
  if !targetOk t s then .done 1 0 s
  else if frozen (getVd t s) then .done 2 0 s
  else .done 0 0 (modVd t (fun v => { v with pairs := v.pairs.set l.toNat (if c.q2.getLsbD 24 then some r else none) l.isLt }) s)
def execPair (vd : BitVec 8) (c : Cmd) (s : State) : Host.Outcome State Fault Refusal :=
  .next (runCmd vd c [0x1FFFF03] true (pairCmd c) s)

/-- ACCESS: the models open to a device, from the first lap whose map can still be published (R279, R449). -/
def accessCmd (allow : Bool) (c : Cmd) (s : State) : CmdOut :=
  let t := cmdTarget c
  let m := c.q3.extractLsb' 0 16
  if !targetOk t s then .done 1 0 s
  else if frozen (getVd t s) then .done 2 0 s
  else .done 0 0 (republish (modVd t (fun v => { v with models :=
    if allow then (if v.models.contains m then v.models else v.models ++ [m]) else v.models.filter (· != m) }) s))
def execAccessOpen (vd : BitVec 8) (c : Cmd) (s : State) : Host.Outcome State Fault Refusal :=
  .next (runCmd vd c [0xFF, 0x1FFFF] true (accessCmd true c) s)
def execAccessClose (vd : BitVec 8) (c : Cmd) (s : State) : Host.Outcome State Fault Refusal :=
  .next (runCmd vd c [0xFF, 0x1FFFF] true (accessCmd false c) s)

/-! ## The instruction of a command (R449) -/

/-- The command word as the instruction it is. -/
def commandInstr (vd : BitVec 8) (c : Cmd) : Instr :=
  match cmdOp c with
  | 0x01 => .publish vd c
  | 0x02 => .retire vd c
  | 0x03 => .openStream vd c
  | 0x04 => .closeStream vd c
  | 0x05 => .submit vd c
  | 0x06 => .mboxw vd c
  | 0x07 => .jpost vd c
  | 0x08 =>
    match field c.q2.toNat 33 32 with
    | 0 => .replyResume vd c
    | 1 => .replyRestart vd c
    | 2 => .replyEnd vd c
    | _ => .unknownOp vd c
  | 0x09 => .mappage vd c
  | 0x0A => .reload vd c
  | 0x0B => if c.q2.getLsbD 32 then .sessionDefine vd c else .sessionRemove vd c
  | 0x0C => .snapread vd c
  | 0x0D => .snaprel vd c
  | 0x40 => .quota vd c
  | 0x41 => .enroll vd c
  | 0x42 => .pool vd c
  | 0x43 => .slots vd c
  | 0x44 => .dump vd c
  | 0x45 => .pair vd c
  | 0x46 => if c.q3.getLsbD 16 then .accessOpen vd c else .accessClose vd c
  | _ => .unknownOp vd c

end Sys2Proof.Machine
end

