-- ==== Sys2Proof/Machine/Interface.lean ====
section
/-! DEFINITION. Interface registers, functions, the memory window, TDISP and attestation: 17_host.md R443 to R447, R457 to R465. -/

namespace Sys2Proof.Machine

/-! ## ERROR, STOP and resets (R461, R462) -/

/-- A tile taken from a gang that is discarded without a restart: its engines hold nothing (R461). -/
def cutTile (t : Tile) : Tile :=
  let t := launchEntries (discardTile t)
  dropTile { t with eng := { t.eng with mq := [], mrun := none, cq := Vector.replicate 4 [] } }

/-- A gang discarded without a restart, its slot empty, no JCB updated (R461). -/
def cutGang (slot : Nat) (s : State) : State :=
  let ps := heldTiles slot s
  let s := { overTiles ps cutTile s with packets := s.packets.filter fun p => !ps.contains p.src }
  modBind slot (fun _ => {}) (releasePins slot s)

/-- A stream without the jobs that held a slot. -/
def cutStream (time : Word) (st : StreamSt) : StreamSt := pruneJobs time { st with jobs := st.jobs.filter (·.slot.isNone) }

/-- Every gang of a device cut, and the jobs that held a slot ended. -/
def cutDevice (vd : BitVec 8) (s : State) : State :=
  let s := (bindsOf vd s).foldl (fun s b => cutGang b.1 s) s
  modVd vd (fun v => { v with streams := v.streams.map (cutStream s.mod.time) }) s

/-- Steps 1 to 4 of R461. -/
def cutInterface (vd : BitVec 8) (s : State) : State :=
  let left := (getVd vd s).tstate == .run
  let s := dropAll vd (cutDevice vd (wake s))
  modVd vd (fun v => { v with
    cmderr := v.cmderr + BitVec.ofNat 64 (v.cmdq.length + v.cmdBusy.length), cmdq := [], cmdBusy := [], cmdHeld := false, cmdRes := none, invq := [], recs := Vector.replicate 4 []
    skid := v.skid.map fun k => { k with stale := k.stale || left } }) s

/-- Entry to ERROR from CONFIG_LOCKED or RUN (R461). -/
def enterError (vd : BitVec 8) (cause : BitVec 8) (s : State) : State :=
  if frozen (getVd vd s) then modVd vd (fun v => { v with tstate := .error, tcause := cause }) (cutInterface vd s) else s

/-- Whether a byte of a device's pool is to be zeroed: not one of a page that a transfer reads or writes (R462, R472). -/
def scrubbed (v : VDev) (a : Nat) : Bool := inPool v a 1 && !v.skid.any fun k => decide (k.pa ≤ a ∧ a < k.pa + k.size)

/-- A wake on a tile whose monitor is armed on a sector that is zeroed (13 R363). -/
def wakeScrubbed (v : VDev) (t : Tile) : Tile :=
  { t with eng := { t.eng with mon := t.eng.mon.map fun m => { m with wake := m.wake || m.sector.any fun x => scrubbed v (128 * x) } } }

/-- Every byte of a device's pool zeroed (R462, R472), with the wakes of its sectors (13 R363, R365). The lines that hold another byte than zero
are written through the slices (13 R335); whether those that hold only zeros are, no rule says: they are not. DESIGN CHOICE, log entry
106. -/
def scrubPool (vd : BitVec 8) (s : State) : State :=
  let v := getVd vd s
  let s := (linesOf (s.mem.dmem.filter (scrubbed v ·.1))).foldl (fun s l => touchLine l true true true { vd := vd } s) s
  everyTile (fun _ => wakeScrubbed v) (onMemSys (fun m => { m with
    dmem := m.dmem.filter fun x => !scrubbed v x.1
    dpoison := m.dpoison.filter fun x => !scrubbed v (128 * x.1) }) s)

/-- STOP_INTERFACE_REQUEST's work (R462). -/
def stopInterface (vd : BitVec 8) (s : State) : State :=
  let s := if (getVd vd s).tstate = .error then wake s else cutInterface vd s
  scrubPool vd s
    |> modVd vd fun v => { v with storageKey := v.storageKey + 1, eq := Vector.replicate 4 {}, images := [], tstate := .unlocked }

/-- The module reset: what flash, LPDDR6 and the world outside hold stays, but every function is reset, its storage key destroyed (R442,
R462, R487, R488), and the counts of its translations are written back (14 R375, R376). -/
def moduleReset (s : State) : State :=
  let s := s.vds.foldl (fun s v => dropAll (BitVec.ofNat 8 v.1) s) s
  { State.reset with
    mem := { s.mem with lines := [] }
    vds := s.vds.map fun v => (v.1, { getVd (BitVec.ofNat 8 v.1) State.reset with storageKey := v.2.storageKey + 1 })
    mod := { ({} : Mod) with blob := s.mod.blob, fw := s.mod.fw }
    fresh := s.fresh
    ticks := s.ticks }

/-- FUNCTION_LEVEL_RESET (R462): as STOP in any state; of function 0 after a fatal error, the module's reset (R442). -/
def functionLevelReset (vd : BitVec 8) (s : State) : State :=
  if vd = 0 ∧ s.mod.power = .fatal then moduleReset s else stopInterface vd s
def execFunctionLevelReset (vd : BitVec 8) (s : State) : Host.Outcome State Fault Refusal := .next (functionLevelReset vd s)

/-- LOCKED_BAR_CONFIG_WRITE and IDE_INTEGRITY_FAILURE: causes 1 and 3 (R461). -/
def execLockedBarConfigWrite (vd : BitVec 8) (s : State) : Host.Outcome State Fault Refusal := .next (enterError vd 1 s)
def execIdeIntegrityFailure (vd : BitVec 8) (s : State) : Host.Outcome State Fault Refusal := .next (enterError vd 3 s)

/-- A function that is no longer enabled: it holds nothing but the transfers in flight, which run to their end and whose pages no pool gives out
until then (R443, R472). DESIGN CHOICE, log entry 93. -/
def offDevice (v : VDev) : VDev :=
  { storageKey := v.storageKey + 1, stale := v.stale, poolUsed := v.skid.map fun k => (k.pa, k.size)
    skid := v.skid.map fun k => { k with stale := true, orphan := true } }

/-- VF_ENABLE (R443), through the configuration space of function 0, once it has enumerated and not in recovery mode (18 R487, R488): functions 1
to `n` are enabled; a function no longer enabled holds nothing, and is reset (R462). -/
def vfEnable (n : Nat) (s : State) : State :=
  if !barOpen s.mod ∨ 255 < n then s
  else
    let s := onMod (fun m => { m with numVFs := n }) s
    (upTo 255).foldl (fun s j =>
      let vd := BitVec.ofNat 8 (j + 1)
      if j < n then (if (getVd vd s).enabled then s else modVd vd (fun v => { v with enabled := true }) s)
      else if (getVd vd s).enabled then modVd vd offDevice (scrubPool vd (cutInterface vd s)) else s) s
def execVfEnable (n : Nat) (s : State) : Host.Outcome State Fault Refusal := .next (vfEnable n s)

/-! ## Interface registers (R446, R447) -/

def tstateCode : TState → BitVec 2
  | .unlocked => 0
  | .locked => 1
  | .run => 2
  | .error => 3

/-- An interface register as read; other offsets and the write-only windows read zero. -/
def interfaceRegister (vd : BitVec 8) (v : VDev) (off : Nat) : Word :=
  match off with
  | 0x00 => vd.setWidth 64
  | 0x08 => (0 : BitVec 48) ++ (v.tcause ++ ((0 : BitVec 6) ++ tstateCode v.tstate))
  | 0x10 => v.ptroot
  | 0x18 => v.wbase
  | 0x20 => v.eq[0].raw
  | 0x28 => v.eq[1].raw
  | 0x30 => v.eq[2].raw
  | 0x38 => v.eq[3].raw
  | 0x40 => v.thresh
  | 0x48 => v.snap
  | 0x50 => v.snaplist
  | 0x58 => v.snaplen
  | 0x100 => v.pinev
  | 0x108 => v.pinref
  | 0x110 => v.werr
  | 0x118 => v.stale
  | 0x120 => v.snaphold
  | 0x128 => v.snapskip
  | 0x130 => v.cmderr
  | 0x138 => v.eqdrop
  | _ => 0

def rstatCode : RStat → Nat
  | .waiting => 0
  | .receiving => 1
  | .verifying => 2
  | .refused => 3
  | .accepted => 4

/-- A recovery register as read (18 R488). -/
def recoveryRegister (m : Mod) (off : Nat) : Word := if off = 0 then BitVec.ofNat 64 (rstatCode m.rstat) else if off = 8 then m.rlen else 0

/-- What a read of 8 bytes at an offset of BAR0 returns: in recovery mode, the recovery registers of function 0 (R446, R488); none where no
interface answers, of a function that is not enabled, or of the module before its start and after a fatal error (R443, R487; 16 R442). -/
def interfaceRead (vd : BitVec 8) (off : Nat) (s : State) : Option Word :=
  if s.mod.power = .recovery then if vd = 0 then some (recoveryRegister s.mod off) else none
  else if barOpen s.mod && (getVd vd s).enabled then some (interfaceRegister vd (getVd vd s) off)
  else none

/-- Commands that an interface holds (R447). -/
def cmdDepth : Nat := 16

/-- A command posted (R447): discarded in ERROR, answered with status 7 while 16 wait. -/
def postCommand (vd : BitVec 8) (c : Cmd) (s : State) : State :=
  let s := wake s
  let v := getVd vd s
  if v.tstate = .error then countCmderr vd s
  else if cmdDepth ≤ v.cmdq.length then
    match sysOk vd (cmdDone c) 16 false true s with
    | (true, s) => answerBusy vd false c s
    | (false, s) => countCmderr vd s
  else modVd vd (fun v => { v with cmdq := v.cmdq ++ [c] }) s

/-- The eight words of the command window. -/
def windowCmd (w : Vector Word 8) : Cmd :=
  { q0 := w[0], q1 := w[1], q2 := w[2], q3 := w[3], q4 := w[4], q5 := w[5], q6 := w[6], q7 := w[7] }

def windowInv (w : Vector Word 4) : InvDesc := { w0 := w[0], w1 := w[1], w2 := w[2], w3 := w[3] }

def writeCmd (vd : BitVec 8) (k : Fin 8) (x : Word) (s : State) : State :=
  let s := modVd vd (fun v => { v with cmdw := v.cmdw.set k x }) s
  if k = 7 then postCommand vd (windowCmd (getVd vd s).cmdw) s else s

def writeInv (vd : BitVec 8) (k : Fin 4) (x : Word) (s : State) : State :=
  let s := modVd vd (fun v => { v with invw := v.invw.set k x }) s
  if k = 3 then postInval vd (windowInv (getVd vd s).invw) s else s

/-- Whether an offset is a frozen register's: PTROOT, WBASE, EQ0 to EQ3. -/
def frozenOff (off : Nat) : Bool := off % 8 == 0 && decide (0x10 ≤ off ∧ off ≤ 0x38)

def eqMask (x : Word) : EqReg := { raw := x &&& ~~~(0x20#64) }

/-- The RW fields of a register (R446); its other bits are zero. -/
def setRegister (off : Nat) (x time : Word) (v : VDev) : VDev :=
  match off with
  | 0x10 => { v with ptroot := x &&& 0xFFFFFFFFF000 }
  | 0x18 => { v with wbase := x &&& 0xFFFF00000000 }
  | 0x20 => { v with eq := v.eq.set 0 (eqMask x) }
  | 0x28 => { v with eq := v.eq.set 1 (eqMask x) }
  | 0x30 => { v with eq := v.eq.set 2 (eqMask x) }
  | 0x38 => { v with eq := v.eq.set 3 (eqMask x) }
  | 0x40 => { v with thresh := x &&& 0xFFFF }
  | 0x48 => { v with snap := x &&& 0xFFFFFFFF, snapAt := time }
  | 0x50 => { v with snaplist := x &&& 0xFFFFFFFFFFF8 }
  | 0x58 => { v with snaplen := x &&& 0xFFFFF }
  | _ => v

/-- Whether a device with an all-zero quota, which accepts only reads and commands, turns a write away (R450). VD 0, which sets every
quota, its own too, through commands, is not turned away. DEDUCED, log entry 73. -/
def quotaBars (vd : BitVec 8) (v : VDev) (off : Nat) : Bool := vd != 0 && v.quota.raw == 0 && !decide (0x80 ≤ off ∧ off < 0xC0)

/-! ## Recovery registers (18 R488) -/

/-- Whether a value is the length of an image. -/
def lengthOk (x : Word) : Bool := decide (x.toNat % 8 = 0 ∧ x.toNat ≤ 2 ^ 26)

/-- RLEN written: its field takes any value, and an image of that length is awaited. What a value does that is no length of an image, or one
that is written while an image is verified or accepted, no rule says: none is awaited, and the verification goes on. DESIGN CHOICE, log
entry 43. -/
def writeRlen (x : Word) (m : Mod) : Mod :=
  if m.power ≠ .recovery then m
  else if m.rstat = .verifying ∨ m.rstat = .accepted then { m with rlen := x }
  else { m with rlen := x, rbuf := [], rstat := if lengthOk x then .receiving else .waiting }

/-- RDATA written: the next 8 bytes. -/
def writeRdata (x : Word) (m : Mod) : Mod :=
  if m.power = .recovery ∧ m.rstat = .receiving ∧ m.rbuf.length < m.rlen.toNat then { m with rbuf := m.rbuf ++ toBytes 8 x.toNat } else m

/-- RGO written with 1: verification starts, where an image is awaited; that it has no other effect no rule says. DESIGN CHOICE, log entry 43. -/
def writeRgo (x : Word) (m : Mod) : Mod := if m.power = .recovery ∧ m.rstat = .receiving ∧ x = 1 then { m with rstat := .verifying } else m

/-- A write to function 0's BAR0 in recovery mode. -/
def recoveryWrite (off : Nat) (x : Word) (m : Mod) : Mod :=
  match off with
  | 0x08 => writeRlen x m
  | 0x10 => writeRdata x m
  | 0x18 => writeRgo x m
  | _ => m

/-- INTERFACE_REGISTER_WRITE (R446): 8 bytes at an offset of BAR0; in recovery mode, of function 0's recovery registers (18 R488). A write of
PTROOT in Doldrums, whose counts go to device memory, wakes the module, and so does the reset of a function. DESIGN CHOICE, log entry
90. -/
def interfaceWrite (vd : BitVec 8) (off : Nat) (x : Word) (s : State) : State :=
  let v := getVd vd s
  if s.mod.power = .recovery ∧ vd = 0 then onMod (recoveryWrite off x) s
  else if !v.enabled || !barOpen s.mod || quotaBars vd v off then s
  else if frozenOff off && frozen v then enterError vd 2 s
  else if 0x80 ≤ off ∧ off < 0xC0 ∧ off % 8 = 0 then writeCmd vd (Fin.ofNat 8 ((off - 0x80) / 8)) x s
  else if 0xC0 ≤ off ∧ off < 0xE0 ∧ off % 8 = 0 then writeInv vd (Fin.ofNat 4 ((off - 0xC0) / 8)) x s
  else
    let s := modVd vd (setRegister off x s.mod.time) s
    if off = 0x10 then dropAll vd (wake s) else s
def execInterfaceRegisterWrite (vd : BitVec 8) (off : Nat) (x : Word) (s : State) : Host.Outcome State Fault Refusal :=
  .next (interfaceWrite vd off x s)

/-! ## The memory window (R445) -/

def answer (r : Reply) (s : State) : State := { s with doe := { s.doe with replies := s.doe.replies ++ [r] } }

def countWerr (vd : BitVec 8) (s : State) : State := modVd vd (fun v => { v with werr := v.werr + 1 }) s

/-- Whether a function's window answers: enabled and not in ERROR (R443, R459). -/
def windowOpen (v : VDev) (off n : Nat) : Bool := v.enabled && v.tstate != .error && decide (off + n ≤ 2 ^ 32)

/-- WINDOW_READ: all ones where it does not translate. -/
def windowRead (vd : BitVec 8) (off n : Nat) (s : State) : State :=
  let s := wake s
  let v := getVd vd s
  let ones := List.replicate n (0xFF : Byte)
  if barOpen s.mod && windowOpen v off n then
    match sysRead vd (v.wbase.toNat + off) n s with
    | (some bs, s) => answer (.windowData vd bs) s
    | (none, s) => answer (.windowData vd ones) (countWerr vd s)
  else answer (.windowData vd ones) s
def execWindowRead (vd : BitVec 8) (off : Nat) (n : Nat) (s : State) : Host.Outcome State Fault Refusal := .next (windowRead vd off n s)

/-- WINDOW_WRITE: dropped where it does not translate, or where its link or peer refuses it (R473). -/
def windowWrite (vd : BitVec 8) (off : Nat) (bs : List Byte) (s : State) : State :=
  let s := wake s
  let v := getVd vd s
  if barOpen s.mod && windowOpen v off bs.length then
    match sysOk vd (v.wbase.toNat + off) bs.length false true s with
    | (true, s) =>
      match sysWrite vd (v.wbase.toNat + off) bs false s with
      | (true, s) => s
      | (false, s) => countWerr vd s
    | (false, s) => countWerr vd s
  else s
def execWindowWrite (vd : BitVec 8) (off : Nat) (bs : List (BitVec 8)) (s : State) : Host.Outcome State Fault Refusal :=
  .next (windowWrite vd off bs s)

/-! ## The interface report (R463) -/

/-- `n` bytes of a list, zeros beyond its end. -/
def fitBytes (n : Nat) (bs : List Byte) : List Byte := bs.take n ++ List.replicate (n - bs.length) 0

/-- An MMIO range of the report: offset in the BAR, 4 KiB pages, then attributes: bit 0 TEE, bit 1 prefetchable, [31:16] the BAR. No rule
lays a range out. DESIGN CHOICE, log entry 74. -/
def mmioRange (off pages bar : Nat) (prefetch : Bool) : List Byte :=
  toBytes 8 off ++ toBytes 4 pages ++ toBytes 4 (1 + flagBit prefetch 1 + bar * 2 ^ 16)

def interfaceReport (vd : BitVec 8) (s : State) : List Byte :=
  let v := getVd vd s
  let models := v.models.take 64
  toBytes 8 (vd.toNat + vd.toNat * 2 ^ 8 + (tstateCode v.tstate).toNat * 2 ^ 16)
    ++ mmioRange 0 16 0 false ++ mmioRange 0 (2 ^ 20) 2 true
    ++ toBytes 8 v.ptroot.toNat ++ toBytes 8 v.wbase.toNat ++ v.eq.toList.flatMap (fun q => toBytes 8 q.raw.toNat)
    ++ toBytes 32 v.quota.raw.toNat
    ++ v.keys.toList.flatMap (fun k => toBytes 32 k.toNat)
    ++ toBytes 8 0xFFFFC0000000
    ++ fitBytes 130 (toBytes 2 models.length ++ models.flatMap fun m => toBytes 2 m.toNat)
    ++ v.pairs.toList.map (fun p => p.getD 0xFF)
    ++ toBytes 32 (Config.shake256 s.mod.fw).toNat

/-! ## TDISP (R457, R459, R460) -/

/-- A TDISP, IDE or SPDM message over the DOE mailbox of function 0: none is heard before that function enumerates (R457; 18 R480, R487). -/
def hear (body : State → State) (s : State) : State := if s.mod.power = .starting then s else body (wake s)

/-- A TDISP message: heard only in a secured session, and about a virtual function (R457). -/
def tdisp (r : SpdmReq) (body : State → State) (s : State) : State :=
  hear (fun s =>
    if !(r.session && s.doe.session) then answer .spdmError s
    else if r.vd = 0 ∨ (getVd r.vd s).enabled = false then answer (.tdispError r.vd) s
    else body s) s

def execGetTdispVersion (r : SpdmReq) (s : State) : Host.Outcome State Fault Refusal := .next (tdisp r (answer (.tdispVersion 1 0)) s)
def execGetTdispCapabilities (r : SpdmReq) (s : State) : Host.Outcome State Fault Refusal := .next (tdisp r (answer .tdispCapabilities) s)

/-- What forbids a lock (R460). -/
def lockRefused (vd : BitVec 8) (s : State) : Bool :=
  let v := getVd vd s
  !(bindsOf vd s).isEmpty || v.streams.any (! ·.closed) || v.images.any (! ·.retired) || !v.sess.isEmpty || !v.snaps.isEmpty
    || qClusters v == 0

/-- LOCK_INTERFACE_REQUEST. -/
def lockInterface (vd : BitVec 8) (s : State) : State :=
  if (getVd vd s).tstate = .unlocked ∧ lockRefused vd s = false then
    answer (.lockAccepted vd) (modVd vd (fun v => { v with tstate := .locked }) s)
  else answer (.tdispError vd) s
def execLockInterfaceRequest (r : SpdmReq) (s : State) : Host.Outcome State Fault Refusal := .next (tdisp r (lockInterface r.vd) s)

/-- GET_DEVICE_INTERFACE_REPORT: in CONFIG_LOCKED and RUN. -/
def sendReport (vd : BitVec 8) (s : State) : State :=
  if frozen (getVd vd s) then answer (.report vd (interfaceReport vd s)) s else answer (.tdispError vd) s
def execGetDeviceInterfaceReport (r : SpdmReq) (s : State) : Host.Outcome State Fault Refusal := .next (tdisp r (sendReport r.vd) s)

def execGetDeviceInterfaceState (r : SpdmReq) (s : State) : Host.Outcome State Fault Refusal :=
  .next (tdisp r (fun s => answer (.tdispState r.vd (tstateCode (getVd r.vd s).tstate)) s) s)

/-- START_INTERFACE_REQUEST. -/
def startInterface (vd : BitVec 8) (s : State) : State :=
  if (getVd vd s).tstate = .locked then answer (.started vd) (modVd vd (fun v => { v with tstate := .run }) s)
  else answer (.tdispError vd) s
def execStartInterfaceRequest (r : SpdmReq) (s : State) : Host.Outcome State Fault Refusal := .next (tdisp r (startInterface r.vd) s)

/-- STOP_INTERFACE_REQUEST. -/
def stopRequest (vd : BitVec 8) (s : State) : State :=
  if (getVd vd s).tstate = .unlocked then answer (.tdispError vd) s else answer (.stopped vd) (stopInterface vd s)
def execStopInterfaceRequest (r : SpdmReq) (s : State) : Host.Outcome State Fault Refusal := .next (tdisp r (stopRequest r.vd) s)

/-- IDE_KM (R443, R457): the keys of an enabled function's selective IDE stream. -/
def execIdeKm (r : SpdmReq) (keys : List (BitVec 8)) (s : State) : Host.Outcome State Fault Refusal :=
  .next (hear (fun s =>
    if r.session && s.doe.session && (getVd r.vd s).enabled then
      answer (.ideKeysSet r.vd) (modVd r.vd (fun v => { v with ideKeys := keys }) s)
    else answer .spdmError s) s)

/-! ## SPDM (R458, R464, R465) -/

def onDoe (f : Doe → Doe) (s : State) : State := { s with doe := f s.doe }

/-- A request and its response as bytes, the signature left out. -/
def exchange (r : SpdmReq) (content : List Byte) : List Byte := r.message ++ Config.spdmResponse r.message content

/-- The response of a connection's set-up, which joins its transcript. -/
def setUp (r : SpdmReq) (content : List Byte) (f : Doe → Doe) (s : State) : State :=
  onDoe (fun d => let d := f d; { d with transcript := d.transcript ++ exchange r content }) s

/-- GET_VERSION begins a connection. -/
def execGetVersion (r : SpdmReq) (s : State) : Host.Outcome State Fault Refusal :=
  .next (hear (fun s => answer (.version 0x12) (setUp r [0x12] (fun d => { replies := d.replies, versioned := true }) s)) s)

def execGetCapabilities (r : SpdmReq) (s : State) : Host.Outcome State Fault Refusal :=
  .next (hear (fun s =>
    if s.doe.versioned then answer .capabilities (setUp r [] (fun d => { d with capable := true }) s) else answer .spdmError s) s)

/-- The selections of R458's table, in the standard's codes: MeasurementHashAlgo raw bit stream, BaseHashAlgo SHA3-384, BaseAsymAlgo none,
ExtAsym registry and algorithm, DHE, AEAD, ReqBaseAsymAlg, KeySchedule. PRESUMED, log entry 46. -/
def algorithms (asym : Bool) : Reply := .algorithms 0x01 0x10 0x00 0x03 0xC901 0x10 0x02 0x80 0x01 asym

/-- NEGOTIATE_ALGORITHMS (R458): without a matching extended algorithm no asymmetric one is selected. -/
def execNegotiateAlgorithms (r : SpdmReq) (s : State) : Host.Outcome State Fault Refusal :=
  .next (hear (fun s =>
    if s.doe.capable then
      answer (algorithms r.extAsym)
        (setUp r [BitVec.ofNat 8 (flagBit r.extAsym 0)] (fun d => { d with negotiated := true, asym := r.extAsym }) s)
    else answer .spdmError s) s)

def textBytes (x : String) : List Byte := x.toList.map fun c => BitVec.ofNat 8 c.toNat

/-- The combined SPDM prefix of a signature's context: 100 bytes. PRESUMED, log entry 46. -/
def spdmPrefix (context : String) : List Byte :=
  let v := textBytes "dmtf-spdm-v1.2.*"
  let c := textBytes context
  v ++ v ++ v ++ v ++ List.replicate (36 - c.length) 0 ++ c

/-- A device signature (R458, R464): 29,792 bytes over the prefix and the SHA3-384 digest of the message. -/
def deviceSign (context : String) (message : List Byte) : List Byte :=
  fitBytes sigBytes (Config.slhSign (spdmPrefix context ++ toBytes 48 (Config.sha3 message).toNat))

/-- The digest of the certificate chain in slot 0. -/
def chainDigest (s : State) : BitVec 384 := Config.sha3 (Config.certChain s.mod.blob)

def chainBytes (s : State) : List Byte := toBytes 48 (chainDigest s).toNat

def execChallenge (r : SpdmReq) (s : State) : Host.Outcome State Fault Refusal :=
  .next (hear (fun s =>
    if s.doe.negotiated && s.doe.asym then
      answer (.challengeAuth (chainDigest s)
        (deviceSign "responder-challenge_auth signing" (s.doe.transcript ++ exchange r (chainBytes s)))) s
    else answer .spdmError s) s)

/-- KEY_EXCHANGE opens the secured session. -/
def execKeyExchange (r : SpdmReq) (s : State) : Host.Outcome State Fault Refusal :=
  .next (hear (fun s =>
    if s.doe.negotiated && s.doe.asym then
      answer (.keyExchangeRsp
        (deviceSign "responder-key_exchange_rsp signing" (s.doe.transcript ++ chainBytes s ++ exchange r [])))
        (onDoe (fun d => { d with session := true }) s)
    else answer .spdmError s) s)

/-- A measurement block (R465). -/
def measurement (vd : BitVec 8) (s : State) (n : Nat) : List Byte :=
  match n with
  | 1 => toBytes 32 (Config.shake256 s.mod.fw).toNat
  | 2 => toBytes 32 (Config.shake256 s.mod.blob).toNat
  | 3 => Config.romVersion
  | 4 => if frozen (getVd vd s) then toBytes 32 (Config.shake256 (interfaceReport vd s)).toNat else List.replicate 32 0
  | _ => ((getVd vd s).images.filter (! ·.retired)).flatMap fun i => toBytes 32 i.digest.toNat

/-- GET_MEASUREMENTS: one block, or all of them with index 255; a signature needs the negotiated algorithm. -/
def execGetMeasurements (r : SpdmReq) (s : State) : Host.Outcome State Fault Refusal :=
  .next (hear (fun s =>
    let ns := if r.index = 255 then [1, 2, 3, 4, 5] else if 1 ≤ r.index ∧ r.index ≤ 5 then [r.index] else []
    if !s.doe.capable || (r.signature && !s.doe.asym) || ns.isEmpty then answer .spdmError s
    else
      let blocks := ns.map fun n => (n, measurement r.vd s n)
      let log := s.doe.measured ++ exchange r (blocks.flatMap fun b => toBytes 1 b.1 ++ toBytes 2 b.2.length ++ b.2)
      let sig := if r.signature then some (deviceSign "responder-measurements signing" (s.doe.transcript ++ log)) else none
      answer (.measurements blocks sig) (onDoe (fun d => { d with measured := if r.signature then [] else log }) s)) s)

end Sys2Proof.Machine
end

