-- ==== Sys2Proof/Machine/Module.lean ====
section
/-! DEFINITION. Peers, power states, throttling, start-up, recovery, fatal errors and corrected errors: 17_host.md R473 to R475;
18_module.md R478 to R489; 16_preemption.md R442. -/

namespace Sys2Proof.Machine

/-! ## Chinook (17 R473 to R475) -/

/-- The local device that a link's remote device is paired with. -/
def pairedWith (l : BitVec 2) (r : BitVec 8) (s : State) : Option (BitVec 8) :=
  (s.vds.find? fun v => v.2.enabled && (v.2.pairs[l.toNat]'l.isLt) == some r).map fun v => BitVec.ofNat 8 v.1

/-- An atomic that arrives over a link: of the widths and operations of 13 R351, at an aligned address, performed at the slice or as a PCIe
AtomicOp (13 R349); what it finds, or none where it is refused. -/
def peerAtomic (vd : BitVec 8) (va : Word) (n : Nat) (op : Option AmoOp) (f : Change) (s : State) : Option (List Byte) × State :=
  if farAtomic n op && va.toNat % n == 0 then sysPart vd va.toNat n true true false f s else (none, s)

/-- What a peer's access of `n` bytes does in the space of a local device, and what it finds. -/
def peerDo (vd : BitVec 8) (va : Word) (n : Nat) (a : PeerOp) (s : State) : Option (List Byte) × State :=
  let low (x : Word) : Nat := x.toNat % 256 ^ n
  match a with
  | .read => sysRead vd va.toNat n s
  | .write bs =>
    let bs := bs.take n
    match sysOk vd va.toNat bs.length false true s with
    | (true, s) =>
      let r := sysWrite vd va.toNat bs false s
      (if r.1 then some [] else none, r.2)
    | (false, s) => (none, s)
  | .amo op x => peerAtomic vd va n (some op) (fun old => some (toBytes n (amoValue op (8 * n) (ofBytes old) (low x)))) s
  | .acas e x => peerAtomic vd va n none (fun old => if ofBytes old = low e then some (toBytes n (low x)) else none) s

/-- PEER_ACCESS: a peer's read, write or atomic in the space of the paired local device. -/
def peerAccess (l : BitVec 2) (r : BitVec 8) (va : Word) (n : Nat) (a : PeerOp) (s : State) : State :=
  let s := wake s
  let refuse := answer (.peerRefused l)
  if !(s.links[l.toNat]'l.isLt).up then refuse s
  else
    match pairedWith l r s with
    | none => refuse s
    | some vd =>
      if (getVd vd s).tstate = .error then refuse s
      else
        match peerDo vd va n a s with
        | (some bs, s) => answer (.peerData l bs) s
        | (none, s) => refuse s
def execPeerAccess (l : BitVec 2) (r : BitVec 8) (va : Word) (n : Nat) (a : PeerOp) (s : State) : Host.Outcome State Fault Refusal :=
  .next (peerAccess l r va n a s)

def setLink (l : BitVec 2) (x : Link) (s : State) : State := { s with links := s.links.set l.toNat x l.isLt }

/-- Whether the compute clock runs (R28, R478, R483). -/
def clockRuns (m : Mod) : Bool := m.power == .active && !m.stopped

/-- TIME as a training leaves it, in the compute cycle under way too, where there is one (R331, R475). -/
def trainTime (peerTime : Word) (m : Mod) : Mod :=
  let t := if m.time.toNat < peerTime.toNat then peerTime else m.time
  { m with time := t, cycTime := if clockRuns m then t else m.cycTime }

/-- CHINOOK_LINK_TRAINING (R475): the link comes up and the modules exchange TIME; this one takes the later. -/
def execChinookLinkTraining (l : BitVec 2) (peerTime : Word) (s : State) : Host.Outcome State Fault Refusal :=
  .next (onMod (trainTime peerTime) (setLink l { up := true, peerTime := peerTime } s))

def execChinookLinkDown (l : BitVec 2) (s : State) : Host.Outcome State Fault Refusal :=
  .next (setLink l { (s.links[l.toNat]'l.isLt) with up := false } s)

/-! ## Power states (R478 to R480) -/

/-- The Flume brought to pace 0 by a forced lap boundary: the half published last, with what it changes, at that pace (R478; 10 R279, R503). -/
def stopFlume (s : State) : State :=
  let f := s.flume
  if topPace f = 0 then s
  else lapBegun f { s with flume := endLap f.pos f.steps (publishHalf ((topLap f).lap + 1) { newestAgain f with pace := 0 } f) }

/-- Whether a bind record holds clusters. -/
def anyHeld (s : State) : Bool := s.binds.any fun b => holdsClusters b.2

/-- The Calm and Doldrums intervals in ticks: as the blob sets them, 100 ms and 5 s by default (R479). -/
def calmTicks (m : Mod) : Nat := ((Config.calmInterval m.blob).getD 10000000).toNat
def doldrumsTicks (m : Mod) : Nat := ((Config.doldrumsInterval m.blob).getD 500000000).toNat

/-- CALM_ENTRY (R479). -/
def calmEntry (s : State) : State :=
  let m := s.mod
  if m.power = .active ∧ anyHeld s = false ∧ calmTicks m ≤ (m.time - m.idleSince).toNat then
    onMod (fun m => { m with power := .calm, calmSince := m.time }) (stopFlume s)
  else s
def execCalmEntry (s : State) : Host.Outcome State Fault Refusal := .next (calmEntry s)

/-- Whether no command is outstanding, no transfer in flight and no descriptor waiting (R479). -/
def quiet (s : State) : Bool := s.vds.all fun v => v.2.cmdq.isEmpty && v.2.cmdBusy.isEmpty && v.2.skid.isEmpty && v.2.invq.isEmpty

/-- DOLDRUMS_ENTRY (R479, R480): the entry begins, with the write-back of every dirty sector; then the slices are gated. -/
def doldrumsEntry (s : State) : State :=
  let m := s.mod
  if m.power = .calm ∧ quiet s ∧ doldrumsTicks m ≤ (m.time - m.calmSince).toNat then
    if m.entering then
      onMemSys (fun x => { x with lines := [] }) (onMod (fun m => { m with power := .doldrums, entering := false }) s)
    else
      onMemSys (fun x => { x with lines := x.lines.map fun l => { l with dirty0 := false, dirty1 := false } })
        (onMod (fun m => { m with entering := true }) s)
  else s
def execDoldrumsEntry (s : State) : Host.Outcome State Fault Refusal := .next (doldrumsEntry s)

def execWakeEvent (s : State) : Host.Outcome State Fault Refusal := .next (wake s)

/-! ## Throttling (R482 to R484) -/

/-- Whether 100 µs have passed since the last change of the clock (R482). -/
def mayChange (m : Mod) : Bool :=
  match m.changed with
  | none => true
  | some t => decide (10000 ≤ (m.time - t).toNat)

/-- THROTTLE_ENGAGE: the compute domain is halved, by heat or by power. -/
def engage (m : Mod) : Mod :=
  if !m.div && mayChange m then { m with div := true, events := m.events + 1, changed := some m.time } else m
def execThrottleEngage (s : State) : Host.Outcome State Fault Refusal := .next (onMod engage s)

/-- THROTTLE_RELEASE: back to the nominal clock, below 95 °C and 380 W; never while the module is hot. -/
def release (m : Mod) : Mod :=
  if m.div && !m.stopped && !m.hot && mayChange m then { m with div := false, changed := some m.time } else m
def execThrottleRelease (s : State) : Host.Outcome State Fault Refusal := .next (onMod release s)

/-- CLOCK_STOP: the compute clock stops; every bound tile notes it (R483, R484). -/
def execClockStop (s : State) : Host.Outcome State Fault Refusal :=
  .next (onMod (fun m => { m with stopped := true, hot := true })
    (everyTile (fun _ t => if t.place.slot.isSome then { t with place := { t.place with stopSeen := true } } else t) s))

/-- CLOCK_RESTART: the clock runs again, halved; where it stopped at the nominal rate, not within 100 µs of its last change (R482, R483). -/
def execClockRestart (s : State) : Host.Outcome State Fault Refusal :=
  .next (onMod (fun m =>
    if m.stopped && (m.div || mayChange m) then
      { m with stopped := false, hot := false, div := true, events := if m.div then m.events else m.events + 1
               changed := if m.div then m.changed else some m.time }
    else m) s)

/-! ## Start and recovery (R486 to R488) -/

/-- MODULE_START (R487): to Calm with the Flume idle, or to recovery where a check fails. -/
def moduleStart (m : Mod) : Mod :=
  if m.power = .starting then
    if Config.blobVerify m.blob && Config.firmwareVerify m.blob m.fw then
      { m with power := .calm, cycle := 0, time := 0, cycTime := 0, prevTime := 0, sub := 0, calmSince := 0, idleSince := 0 }
    else { m with power := .recovery, rstat := .waiting }
  else m
def execModuleStart (s : State) : Host.Outcome State Fault Refusal := .next (onMod moduleStart s)

def execRlen (v : Word) (s : State) : Host.Outcome State Fault Refusal := .next (onMod (writeRlen v) s)
def execRdata (v : Word) (s : State) : Host.Outcome State Fault Refusal := .next (onMod (writeRdata v) s)
def execRgo (v : Word) (s : State) : Host.Outcome State Fault Refusal := .next (onMod (writeRgo v) s)

/-- RECOVERY_VERIFY_DONE: an accepted image is written to flash, and RSTAT says so until the module resets; a refused one changes nothing there. -/
def recoveryVerifyDone (s : State) : State :=
  let m := s.mod
  if m.power = .recovery ∧ m.rstat = .verifying then
    if Config.firmwareVerify m.blob m.rbuf then onMod (fun m => { m with fw := m.rbuf, rstat := .accepted }) s
    else onMod (fun m => { m with rstat := .refused }) s
  else s
def execRecoveryVerifyDone (s : State) : Host.Outcome State Fault Refusal := .next (recoveryVerifyDone s)

/-- The reset that follows an accepted image (R488). How long after it no rule says: with the next boundary. DESIGN CHOICE, log entry 43. -/
def resetRound (s : State) : State := if s.mod.power = .recovery ∧ s.mod.rstat = .accepted then moduleReset s else s

/-! ## Fatal errors (16 R442) -/

/-- Whether a device's state is kept out of the dump. -/
def dumpHidden (vd : BitVec 8) (s : State) : Bool := frozen (getVd vd s)

/-- Bytes between tile records of the dump. -/
def dumpTile : Nat := 4096 * recordPages 0 false

/-- Whether a line belongs to a device whose state is kept out of the dump: one that it has served, or whose pool it lies in. -/
def lineHidden (s : State) (l : Line) : Bool :=
  (l.vd.toNat :: l.users).any (fun n => dumpHidden (BitVec.ofNat 8 n) s)
    || s.vds.any fun v => frozen v.2 && (poolRanges v.2).any fun r => bytesMeet r.1 r.2 (256 * l.line) 256

/-- A line in the dump: its address and flags, and its bytes. -/
def dumpLine (s : State) (l : Line) : SMap Byte :=
  if lineHidden s l then []
  else
    let flags := l.line + 2 ^ 32 * (l.count.toNat + flagBit l.valid0 8 + flagBit l.valid1 9 + flagBit l.dirty0 10 + flagBit l.dirty1 11)
    writeB 0 16 flags [] ++ shiftMap 16 (sliceMap (256 * l.line) 256 s.mem.dmem)

/-- A stream and its known jobs in the dump, 64 bytes each. -/
def dumpStream (st : StreamSt) : List Byte :=
  toBytes 64 (st.num.toNat + st.prio * 2 ^ 16 + flagBit st.closed 19 + st.jobs.length * 2 ^ 32 + st.served * 2 ^ 64)
    ++ st.jobs.flatMap fun j =>
      toBytes 64 (j.gen.toNat + flagBit j.nd 16 + flagBit j.cp 17 + flagBit j.la 18 + flagBit j.left 19 + j.prio * 2 ^ 24
        + j.image.toNat * 2 ^ 32 + j.jcb * 2 ^ 64 + j.mbox * 2 ^ 128 + j.save * 2 ^ 192 + j.deadline * 2 ^ 256
        + (j.arrived.getD 0).toNat * 2 ^ 320 + j.waited * 2 ^ 384 + (match j.slot with | some k => (k + 1) * 2 ^ 448 | none => 0))

/-- What the Yarder holds of a device, in the dump: registers, quota, keys, pairings, pool, streams, handles, contexts, snapshots and
transfers. -/
def dumpVd (v : VDev) : List Byte :=
  toBytes 8 ((tstateCode v.tstate).toNat + v.tcause.toNat * 2 ^ 8 + flagBit v.enabled 16)
    ++ [v.ptroot, v.wbase, v.thresh, v.snap, v.snaplist, v.snaplen, v.pinev, v.pinref, v.werr, v.stale, v.snaphold, v.snapskip
        , v.cmderr, v.eqdrop].flatMap (fun x => toBytes 8 x.toNat)
    ++ v.eq.toList.flatMap (fun q => toBytes 8 q.raw.toNat) ++ toBytes 32 v.quota.raw.toNat
    ++ v.keys.toList.flatMap (fun k => toBytes 32 k.toNat) ++ v.pairs.toList.map (fun p => p.getD 0xFF)
    ++ ((poolRanges v ++ v.poolUsed).flatMap fun r => toBytes 8 r.1 ++ toBytes 8 r.2) ++ v.models.flatMap (fun m => toBytes 2 m.toNat)
    ++ v.streams.flatMap dumpStream
    ++ v.images.flatMap (fun i => toBytes 8 (i.handle.toNat + flagBit i.retired 32) ++ toBytes 32 i.digest.toNat)
    ++ v.sess.flatMap (fun c => toBytes 4 c.id.toNat ++ toBytes 8 c.base ++ toBytes 8 c.bytes ++ toBytes 4 c.age)
    ++ v.snaps.flatMap (fun x => toBytes 8 x.num ++ x.copies.flatMap fun p => toBytes 8 p.1 ++ toBytes 8 p.2)
    ++ v.skid.flatMap (fun k => toBytes 8 k.va ++ toBytes 8 k.pa ++ toBytes 8 (k.size + flagBit k.into 32))

/-- The Yarder's state in the dump: the Flume's and the module's counts, then 1 MiB for each device, from 1.5 GiB on. -/
def yarderBase : Nat := 3 * 2 ^ 29
def dumpYarder (s : State) : SMap Byte :=
  let f := s.flume
  shiftMap yarderBase (packBytes 0 ([(topLap f).lap, f.pos, topLen f, topPace f, s.mod.time.toNat, s.mod.cycle.toNat, s.mod.numVFs
      , s.mod.chosen].flatMap fun x => toBytes 8 x))
    ++ s.vds.flatMap fun v => shiftMap (yarderBase + 2 ^ 20 * (v.1 + 1)) (packBytes 0 ((dumpVd v.2).take (2 ^ 20)))

/-- The dump (R442): the slot table, every tile's state, the cache contents, the Yarder's state. -/
def dumpImage (s : State) : SMap Byte :=
  let tiles := (upTo 512).flatMap fun p =>
    let t := getTile p s
    if dumpHidden t.place.vd s then [] else shiftMap (4096 + p * dumpTile) (tileRecord true t)
  packBytes 0 (slotTable s) ++ tiles
    ++ (s.mem.lines.zipIdx.flatMap fun l => shiftMap (4096 + 512 * dumpTile + 272 * l.2) (dumpLine s l.1))
    ++ dumpYarder s

/-- FATAL_ERROR: every tile stops, and the dump is written to its region, through the slices (13 R335). -/
def fatalError (s : State) : State :=
  let d := shiftMap dumpBase (dumpImage s)
  let s := (linesOf d).foldl (fun s l => touchLine l true true true {} s) s
  let s := everyTile (fun _ t => if t.ctl.run = .running then { t with ctl := { t.ctl with run := .stopped } } else t) s
  onMod (fun m => { m with power := .fatal })
    (onMemSys (fun m => { m with dmem := m.dmem.filter (fun x => decide (x.1 < dumpBase)) ++ d }) s)
def execFatalError (s : State) : Host.Outcome State Fault Refusal := .next (fatalError s)

/-! ## Corrected errors (R489) -/

/-- A health record. -/
def healthRec (time : Word) (total unit recent : Nat) : BitVec 256 :=
  time ++ (BitVec.ofNat 64 total ++ (BitVec.ofNat 16 unit ++ (BitVec.ofNat 16 (min recent 65535) ++ ((0 : BitVec 88) ++ (0x40 : BitVec 8)))))

/-- HEALTH_RECORD: the record of a unit that is due is posted to VD 0, or dropped at a full queue as one of kind 0x32 is. -/
def healthRecord (unit : Nat) (s : State) : State :=
  if s.mod.healthDue.contains unit then
    let (total, last) := smGet (0, 0) s.mod.health unit
    queueOrDrop 0 3 (healthRec s.mod.time total unit (total - last))
      (onMod (fun m => { m with health := smSet unit (total, total) m.health, healthDue := m.healthDue.filter (· != unit) }) s)
  else s
def execHealthRecord (unit : Nat) (s : State) : Host.Outcome State Fault Refusal := .next (healthRecord unit s)

/-- One more corrected error of a unit; its record is due at once where the count passes a multiple of 1,024. -/
def countCorrected (unit : Nat) (m : Mod) : Mod :=
  if 528 < unit then m
  else
    let (total, last) := smGet (0, 0) m.health unit
    { m with health := smSet unit (total + 1, last) m.health
             healthDue := if (total + 1) % 1024 = 0 && !m.healthDue.contains unit then m.healthDue ++ [unit] else m.healthDue }

/-- Every 10 s of TIME, the record of each unit whose count has changed is due. -/
def healthRound (m : Mod) : Mod :=
  let n := m.time.toNat / 1000000000
  if n = m.healthAt then m
  else { m with healthAt := n, healthDue := (m.health.filter fun u => u.2.1 != u.2.2).map (·.1) }

/-! ## Errors that ECC meets (16 R439, R440) -/

/-- An uncorrectable error in other state of the tile in focus: POISON with place 2, which no resume follows. No rule states its FLTADDR
and address, a free value. -/
def stateUpset (s : State) : State :=
  if s.tile.place.slot.isNone then s
  else
    let a := Config.openAddr s.fresh
    raiseDeferred { code := 0x06, addr := a, detail := detailOf a (13 * 2 ^ 100 + 2 * 2 ^ 8) 0x06 } { s with fresh := s.fresh + 1 }

/-- An error of a tile, or of memory, as R439, R440 and R489 handle it; what finds a poisoned block or sector faults by itself, a frame
without its tag is paged in again. -/
def upset (x : Upset) (s : State) : State :=
  match x with
  | .corrected u => onMod (countCorrected u) s
  | .block p n => modTile p (fun t => { t with mem := { t.mem with poison := poisonRange (64 * n) 64 t.mem.poison } }) s
  | .frame p page => modTile p (fun t => { t with ctl := { t.ctl with frames := t.ctl.frames.filter (·.page != page) } }) s
  | .entry p n =>
    modTile p (fun t => { t with eng := { t.eng with
      ents := t.eng.ents.set (n % 64) { t.eng.ents[n % 64] with valid := false } } }) s
  | .tileState p => eachTile [p] stateUpset s
  | .sector n => if 128 * n < deviceBytes then onMemSys (fun m => { m with dpoison := smSet n true m.dpoison }) s else s

/-- Whether an error names a tile of the die and a block of its scratchpad. -/
def upsetOk (x : Upset) : Bool :=
  match x with
  | .block p n => decide (p < 512 ∧ n < 2 ^ 15)
  | .frame p _ | .entry p _ | .tileState p => decide (p < 512)
  | .corrected _ | .sector _ => true

/-- The errors of a boundary, and the health records that come due. -/
def eccRound (xs : List Upset) (s : State) : State := onMod healthRound ((xs.filter upsetOk).foldl (fun s x => upset x s) s)

/-! ## Clusters out of service (15 R385; 16 R437) -/

/-- A cluster taken out of service, once the gang on it has been evicted with unbounded R, or put back. -/
def serveCluster (away : List Nat) (s : State) (c : Nat) : State :=
  let k := away.contains c
  if k == (getCluster c s).withheld then s
  else if !k then modCluster c (fun x => { x with withheld := false }) s
  else
    match s.binds.find? fun b => holdsCluster b.2 c with
    | some b => evictGang b.1 s
    | none => modCluster c (fun x => { x with withheld := true }) s

/-- The Yarder brings the clusters' service to what VD 0 asks. -/
def serviceRound (away : List Nat) (s : State) : State := (upTo 64).foldl (serveCluster away) s

end Sys2Proof.Machine
end

