-- ==== Sys2Proof/Machine/Dispatch.lean ====
section
/-! DEFINITION. One arm per constructor: its meaning. -/

namespace Sys2Proof.Machine

def exec (i : Instr) (s : State) : Host.Outcome State Fault Refusal :=
  match i with
  | .bundleIssue => Sys2Proof.Machine.execBundleIssue s
  | .resultLanding => Sys2Proof.Machine.execResultLanding s
  | .watchdog => Sys2Proof.Machine.execWatchdog s
  | .overlayPageIn => Sys2Proof.Machine.execOverlayPageIn s
  | .tileFree => Sys2Proof.Machine.execTileFree s
  | .nop h => Sys2Proof.Machine.execNop h s
  | .add h d a b => Sys2Proof.Machine.execAdd h d a b s
  | .addi h d a imm => Sys2Proof.Machine.execAddi h d a imm s
  | .sub h d a b => Sys2Proof.Machine.execSub h d a b s
  | .mul h d a b => Sys2Proof.Machine.execMul h d a b s
  | .mulh h op d a b => Sys2Proof.Machine.execMulh h op d a b s
  | .div h op d a b => Sys2Proof.Machine.execDiv h op d a b s
  | .and h d a b => Sys2Proof.Machine.execAnd h d a b s
  | .andi h d a imm => Sys2Proof.Machine.execAndi h d a imm s
  | .or h d a b => Sys2Proof.Machine.execOr h d a b s
  | .ori h d a imm => Sys2Proof.Machine.execOri h d a imm s
  | .xor h d a b => Sys2Proof.Machine.execXor h d a b s
  | .xori h d a imm => Sys2Proof.Machine.execXori h d a imm s
  | .shl h d a b => Sys2Proof.Machine.execShl h d a b s
  | .shr h arith d a b => Sys2Proof.Machine.execShr h arith d a b s
  | .shli h d a n => Sys2Proof.Machine.execShli h d a n s
  | .shri h arith d a n => Sys2Proof.Machine.execShri h arith d a n s
  | .min h unsigned d a b => Sys2Proof.Machine.execMin h unsigned d a b s
  | .max h unsigned d a b => Sys2Proof.Machine.execMax h unsigned d a b s
  | .clz h d a => Sys2Proof.Machine.execClz h d a s
  | .popc h d a => Sys2Proof.Machine.execPopc h d a s
  | .ext h signed d a pos len1 => Sys2Proof.Machine.execExt h signed d a pos len1 s
  | .ins h d a pos len1 => Sys2Proof.Machine.execIns h d a pos len1 s
  | .movi h d imm => Sys2Proof.Machine.execMovi h d imm s
  | .movh h d a imm => Sys2Proof.Machine.execMovh h d a imm s
  | .sel h d pn a b => Sys2Proof.Machine.execSel h d pn a b s
  | .cmp h c pd pe a b => Sys2Proof.Machine.execCmp h c pd pe a b s
  | .cmpi h c pt pc a imm => Sys2Proof.Machine.execCmpi h c pt pc a imm s
  | .pand h op pd pe pa pb => Sys2Proof.Machine.execPand h op pd pe pa pb s
  | .pset h value pd pe => Sys2Proof.Machine.execPset h value pd pe s
  | .lds h w d base disp => Sys2Proof.Machine.execLds h w d base disp s
  | .sts h w src base disp => Sys2Proof.Machine.execSts h w src base disp s
  | .ldp h w d disp => Sys2Proof.Machine.execLdp h w d disp s
  | .stp h w src disp => Sys2Proof.Machine.execStp h w src disp s
  | .ldg h w o d base sd => Sys2Proof.Machine.execLdg h w o d base sd s
  | .ldgComplete => Sys2Proof.Machine.execLdgComplete s
  | .stg h w o src base sd => Sys2Proof.Machine.execStg h w o src base sd s
  | .storeQueuePerform n => Sys2Proof.Machine.execStoreQueuePerform n s
  | .amo h op w o sc d base b => Sys2Proof.Machine.execAmo h op w o sc d base b s
  | .acas h w o sc d base b => Sys2Proof.Machine.execAcas h w o sc d base b s
  | .red h op w o sc base b => Sys2Proof.Machine.execRed h op w o sc base b s
  | .fence h k sc => Sys2Proof.Machine.execFence h k sc s
  | .br h disp => Sys2Proof.Machine.execBr h disp s
  | .brt h t0 t1 t2 t3 stride1 disp => Sys2Proof.Machine.execBrt h t0 t1 t2 t3 stride1 disp s
  | .bri h a => Sys2Proof.Machine.execBri h a s
  | .call h disp => Sys2Proof.Machine.execCall h disp s
  | .ret h => Sys2Proof.Machine.execRet h s
  | .loop h level count rotate len1 => Sys2Proof.Machine.execLoop h level count rotate len1 s
  | .lbrk h level => Sys2Proof.Machine.execLbrk h level s
  | .endTask h => Sys2Proof.Machine.execEndTask h s
  | .waits h a b => Sys2Proof.Machine.execWaits h a b s
  | .monitor h a => Sys2Proof.Machine.execMonitor h a s
  | .monitorPollWake => Sys2Proof.Machine.execMonitorPollWake s
  | .waitm h w t a b => Sys2Proof.Machine.execWaitm h w t a b s
  | .waitmTimeout => Sys2Proof.Machine.execWaitmTimeout s
  | .mbx h d a idx => Sys2Proof.Machine.execMbx h d a idx s
  | .mbxw h a idx => Sys2Proof.Machine.execMbxw h a idx s
  | .next h d pe => Sys2Proof.Machine.execNext h d pe s
  | .align h peer => Sys2Proof.Machine.execAlign h peer s
  | .bar h k e => Sys2Proof.Machine.execBar h k e s
  | .barrierRelease e => Sys2Proof.Machine.execBarrierRelease e s
  | .rdsr h d idx => Sys2Proof.Machine.execRdsr h d idx s
  | .wrsr h a idx => Sys2Proof.Machine.execWrsr h a idx s
  | .trap h code => Sys2Proof.Machine.execTrap h code s
  | .yield h => Sys2Proof.Machine.execYield h s
  | .jraise h a => Sys2Proof.Machine.execJraise h a s
  | .jdone h => Sys2Proof.Machine.execJdone h s
  | .vadd h ty sat m d a b => Sys2Proof.Machine.execVadd h ty sat m d a b s
  | .vsub h ty sat m d a b => Sys2Proof.Machine.execVsub h ty sat m d a b s
  | .vmul h ty sat m d a b => Sys2Proof.Machine.execVmul h ty sat m d a b s
  | .vmulh h ty m d a b => Sys2Proof.Machine.execVmulh h ty m d a b s
  | .vmin h ty m d a b => Sys2Proof.Machine.execVmin h ty m d a b s
  | .vmax h ty m d a b => Sys2Proof.Machine.execVmax h ty m d a b s
  | .vand h ty m d a b => Sys2Proof.Machine.execVand h ty m d a b s
  | .vor h ty m d a b => Sys2Proof.Machine.execVor h ty m d a b s
  | .vxor h ty m d a b => Sys2Proof.Machine.execVxor h ty m d a b s
  | .vshl h ty sat m d a b => Sys2Proof.Machine.execVshl h ty sat m d a b s
  | .vshr h ty m d a b => Sys2Proof.Machine.execVshr h ty m d a b s
  | .vabs h ty sat m d a => Sys2Proof.Machine.execVabs h ty sat m d a s
  | .vcmp h c ty k kd a b => Sys2Proof.Machine.execVcmp h c ty k kd a b s
  | .vsel h ty k d a b => Sys2Proof.Machine.execVsel h ty k d a b s
  | .vmov h ty m d a => Sys2Proof.Machine.execVmov h ty m d a s
  | .vbcast h ty m d a => Sys2Proof.Machine.execVbcast h ty m d a s
  | .vext h ty d a b => Sys2Proof.Machine.execVext h ty d a b s
  | .vins h ty d a b => Sys2Proof.Machine.execVins h ty d a b s
  | .vperm h ty two m d a b c => Sys2Proof.Machine.execVperm h ty two m d a b c s
  | .vred h op ty rnd k d a => Sys2Proof.Machine.execVred h op ty rnd k d a s
  | .vscan h op ty rnd k d a => Sys2Proof.Machine.execVscan h op ty rnd k d a s
  | .vfadd h ty rnd m d a b => Sys2Proof.Machine.execVfadd h ty rnd m d a b s
  | .vfsub h ty rnd m d a b => Sys2Proof.Machine.execVfsub h ty rnd m d a b s
  | .vfmul h ty rnd m d a b => Sys2Proof.Machine.execVfmul h ty rnd m d a b s
  | .vfma h ty rnd m d a b c => Sys2Proof.Machine.execVfma h ty rnd m d a b c s
  | .vfmin h ty m d a b => Sys2Proof.Machine.execVfmin h ty m d a b s
  | .vfmax h ty m d a b => Sys2Proof.Machine.execVfmax h ty m d a b s
  | .vfcmpK h c ty k kd a b => Sys2Proof.Machine.execVfcmpK h c ty k kd a b s
  | .vfcmpP h c ty k pd pe a b => Sys2Proof.Machine.execVfcmpP h c ty k pd pe a b s
  | .vfdiv h ty rnd m d a b => Sys2Proof.Machine.execVfdiv h ty rnd m d a b s
  | .vcvt h dst src rnd sat m d a => Sys2Proof.Machine.execVcvt h dst src rnd sat m d a s
  | .qnt h ty rnd m d a b => Sys2Proof.Machine.execQnt h ty rnd m d a b s
  | .scacc h ty rnd k adjust d a b c => Sys2Proof.Machine.execScacc h ty rnd k adjust d a b c s
  | .bsc h ty planes1 k d a => Sys2Proof.Machine.execBsc h ty planes1 k d a s
  | .pln h ty planes1 d a => Sys2Proof.Machine.execPln h ty planes1 d a s
  | .upl h ty planes1 unsigned d a => Sys2Proof.Machine.execUpl h ty planes1 unsigned d a s
  | .tld h t base disp => Sys2Proof.Machine.execTld h t base disp s
  | .tli h ty rnd sat m t d a => Sys2Proof.Machine.execTli h ty rnd sat m t d a s
  | .vld h ty k d base disp => Sys2Proof.Machine.execVld h ty k d base disp s
  | .vst h ty k src base disp => Sys2Proof.Machine.execVst h ty k src base disp s
  | .vlds h ty k d base stride disp => Sys2Proof.Machine.execVlds h ty k d base stride disp s
  | .vsts h ty k src base stride disp => Sys2Proof.Machine.execVsts h ty k src base stride disp s
  | .vgath h ty k d base index disp => Sys2Proof.Machine.execVgath h ty k d base index disp s
  | .vscat h ty k src base index disp => Sys2Proof.Machine.execVscat h ty k src base index disp s
  | .vldp h d page => Sys2Proof.Machine.execVldp h d page s
  | .vstp h src page => Sys2Proof.Machine.execVstp h src page s
  | .kop h op kd ka kb => Sys2Proof.Machine.execKop h op kd ka kb s
  | .vmadd h ty sat m d a b c => Sys2Proof.Machine.execVmadd h ty sat m d a b c s
  | .vpopc h ty m d a => Sys2Proof.Machine.execVpopc h ty m d a s
  | .vclz h ty m d a => Sys2Proof.Machine.execVclz h ty m d a s
  | .vpack h ty sat m d a b => Sys2Proof.Machine.execVpack h ty sat m d a b s
  | .vunpk h ty hi m d a => Sys2Proof.Machine.execVunpk h ty hi m d a s
  | .vfrnd h ty rnd m d a => Sys2Proof.Machine.execVfrnd h ty rnd m d a s
  | .mcall h routine tag pa1 pb1 => Sys2Proof.Machine.execMcall h routine tag pa1 pb1 s
  | .mcalld h routine tag pa1 pb1 => Sys2Proof.Machine.execMcalld h routine tag pa1 pb1 s
  | .mldr h a b => Sys2Proof.Machine.execMldr h a b s
  | .mset h mp a => Sys2Proof.Machine.execMset h mp a s
  | .mget h d mp => Sys2Proof.Machine.execMget h d mp s
  | .mzr h => Sys2Proof.Machine.execMzr h s
  | .mrd h d a => Sys2Proof.Machine.execMrd h d a s
  | .mwr h a b => Sys2Proof.Machine.execMwr h a b s
  | .mstat h d => Sys2Proof.Machine.execMstat h d s
  | .mdrn h => Sys2Proof.Machine.execMdrn h s
  | .cpbind h a b => Sys2Proof.Machine.execCpbind h a b s
  | .cpinvLayer h a => Sys2Proof.Machine.execCpinvLayer h a s
  | .cpinvAll h => Sys2Proof.Machine.execCpinvAll h s
  | .cpsav h a b => Sys2Proof.Machine.execCpsav h a b s
  | .cprst h a b => Sys2Proof.Machine.execCprst h a b s
  | .cpqry h d a => Sys2Proof.Machine.execCpqry h d a s
  | .cpy h card q => Sys2Proof.Machine.execCpy h card q s
  | .cpys h card aux q => Sys2Proof.Machine.execCpys h card aux q s
  | .board h win repair card => Sys2Proof.Machine.execBoard h win repair card s
  | .lapw h aux => Sys2Proof.Machine.execLapw h aux s
  | .xmit h d vs => Sys2Proof.Machine.execXmit h d vs s
  | .xsel h d vd => Sys2Proof.Machine.execXsel h d vd s
  | .xmitArrival => Sys2Proof.Machine.execXmitArrival s
  | .swinit h card aux => Sys2Proof.Machine.execSwinit h card aux s
  | .swadd h card aux => Sys2Proof.Machine.execSwadd h card aux s
  | .swrd h card aux => Sys2Proof.Machine.execSwrd h card aux s
  | .pref h card aux => Sys2Proof.Machine.execPref h card aux s
  | .slch h card aux => Sys2Proof.Machine.execSlch h card aux s
  | .cdrn h q => Sys2Proof.Machine.execCdrn h q s
  | .cstat h d q => Sys2Proof.Machine.execCstat h d q s
  | .ckill h q => Sys2Proof.Machine.execCkill h q s
  | .killedJobRelease q n => Sys2Proof.Machine.execKilledJobRelease q n s
  | .copyJobStart q => Sys2Proof.Machine.execCopyJobStart q s
  | .copyJobComplete q n => Sys2Proof.Machine.execCopyJobComplete q n s
  | .copyJobRunFault q n => Sys2Proof.Machine.execCopyJobRunFault q n s
  | .s2tPacketHop n => Sys2Proof.Machine.execS2tPacketHop n s
  | .matrixJobStart => Sys2Proof.Machine.execMatrixJobStart s
  | .panelLoadArrival => Sys2Proof.Machine.execPanelLoadArrival s
  | .mldrJob => Sys2Proof.Machine.execMldrJob s
  | .cpbindJob => Sys2Proof.Machine.execCpbindJob s
  | .cpinvJob => Sys2Proof.Machine.execCpinvJob s
  | .cpsavJob => Sys2Proof.Machine.execCpsavJob s
  | .cprstJob => Sys2Proof.Machine.execCprstJob s
  | .coppiceBroadcastApply => Sys2Proof.Machine.execCoppiceBroadcastApply s
  | .uopEnd => Sys2Proof.Machine.execUopEnd s
  | .uInit => Sys2Proof.Machine.execUInit s
  | .lda b => Sys2Proof.Machine.execLda b s
  | .ldb b => Sys2Proof.Machine.execLdb b s
  | .pat b => Sys2Proof.Machine.execPat b s
  | .step a b p => Sys2Proof.Machine.execStep a b p s
  | .stepAll a b => Sys2Proof.Machine.execStepAll a b s
  | .shacc => Sys2Proof.Machine.execShacc s
  | .padd t => Sys2Proof.Machine.execPadd t s
  | .paddImm t j => Sys2Proof.Machine.execPaddImm t j s
  | .rpt c src l => Sys2Proof.Machine.execRpt c src l s
  | .zgt t => Sys2Proof.Machine.execZgt t s
  | .yld => Sys2Proof.Machine.execYld s
  | .laneStep => Sys2Proof.Machine.execLaneStep s
  | .boardArm n => Sys2Proof.Machine.execBoardArm n s
  | .boardComplete n => Sys2Proof.Machine.execBoardComplete n s
  | .lapMapPublish from_ m => Sys2Proof.Machine.execLapMapPublish from_ m s
  | .pageWalk cluster vd va write => Sys2Proof.Machine.execPageWalk cluster vd va write s
  | .flashPageIn vd va => Sys2Proof.Machine.execFlashPageIn vd va s
  | .coldPageOut vd ctx va => Sys2Proof.Machine.execColdPageOut vd ctx va s
  | .skidderTransferEnd vd n => Sys2Proof.Machine.execSkidderTransferEnd vd n s
  | .snapshot vd => Sys2Proof.Machine.execSnapshot vd s
  | .invalidationComplete vd => Sys2Proof.Machine.execInvalidationComplete vd s
  | .eventRecordPost vd q => Sys2Proof.Machine.execEventRecordPost vd q s
  | .haltRequest slot => Sys2Proof.Machine.execHaltRequest slot s
  | .tileHalt => Sys2Proof.Machine.execTileHalt s
  | .gangStopped slot allowance => Sys2Proof.Machine.execGangStopped slot allowance s
  | .contextSave slot => Sys2Proof.Machine.execContextSave slot s
  | .gangDiscard slot => Sys2Proof.Machine.execGangDiscard slot s
  | .yarderBind slot vd stream col0 row0 => Sys2Proof.Machine.execYarderBind slot vd stream col0 row0 s
  | .gangStart slot => Sys2Proof.Machine.execGangStart slot s
  | .gangResume slot => Sys2Proof.Machine.execGangResume slot s
  | .sliceEnd slot => Sys2Proof.Machine.execSliceEnd slot s
  | .priorityAgeing vd stream => Sys2Proof.Machine.execPriorityAgeing vd stream s
  | .publish vd c => Sys2Proof.Machine.execPublish vd c s
  | .retire vd c => Sys2Proof.Machine.execRetire vd c s
  | .openStream vd c => Sys2Proof.Machine.execOpenStream vd c s
  | .closeStream vd c => Sys2Proof.Machine.execCloseStream vd c s
  | .submit vd c => Sys2Proof.Machine.execSubmit vd c s
  | .mboxw vd c => Sys2Proof.Machine.execMboxw vd c s
  | .jpost vd c => Sys2Proof.Machine.execJpost vd c s
  | .replyResume vd c => Sys2Proof.Machine.execReplyResume vd c s
  | .replyRestart vd c => Sys2Proof.Machine.execReplyRestart vd c s
  | .replyEnd vd c => Sys2Proof.Machine.execReplyEnd vd c s
  | .mappage vd c => Sys2Proof.Machine.execMappage vd c s
  | .reload vd c => Sys2Proof.Machine.execReload vd c s
  | .sessionDefine vd c => Sys2Proof.Machine.execSessionDefine vd c s
  | .sessionRemove vd c => Sys2Proof.Machine.execSessionRemove vd c s
  | .snapread vd c => Sys2Proof.Machine.execSnapread vd c s
  | .snaprel vd c => Sys2Proof.Machine.execSnaprel vd c s
  | .quota vd c => Sys2Proof.Machine.execQuota vd c s
  | .enroll vd c => Sys2Proof.Machine.execEnroll vd c s
  | .pool vd c => Sys2Proof.Machine.execPool vd c s
  | .slots vd c => Sys2Proof.Machine.execSlots vd c s
  | .dump vd c => Sys2Proof.Machine.execDump vd c s
  | .pair vd c => Sys2Proof.Machine.execPair vd c s
  | .accessOpen vd c => Sys2Proof.Machine.execAccessOpen vd c s
  | .accessClose vd c => Sys2Proof.Machine.execAccessClose vd c s
  | .unknownOp vd c => Sys2Proof.Machine.execUnknownOp vd c s
  | .invalidateAll vd j => Sys2Proof.Machine.execInvalidateAll vd j s
  | .invalidateRange vd j => Sys2Proof.Machine.execInvalidateRange vd j s
  | .counterFlush vd j => Sys2Proof.Machine.execCounterFlush vd j s
  | .interfaceRegisterWrite vd off v => Sys2Proof.Machine.execInterfaceRegisterWrite vd off v s
  | .lockedBarConfigWrite vd => Sys2Proof.Machine.execLockedBarConfigWrite vd s
  | .ideIntegrityFailure vd => Sys2Proof.Machine.execIdeIntegrityFailure vd s
  | .vfEnable n => Sys2Proof.Machine.execVfEnable n s
  | .functionLevelReset vd => Sys2Proof.Machine.execFunctionLevelReset vd s
  | .windowRead vd off n => Sys2Proof.Machine.execWindowRead vd off n s
  | .windowWrite vd off bytes => Sys2Proof.Machine.execWindowWrite vd off bytes s
  | .getTdispVersion r => Sys2Proof.Machine.execGetTdispVersion r s
  | .getTdispCapabilities r => Sys2Proof.Machine.execGetTdispCapabilities r s
  | .lockInterfaceRequest r => Sys2Proof.Machine.execLockInterfaceRequest r s
  | .getDeviceInterfaceReport r => Sys2Proof.Machine.execGetDeviceInterfaceReport r s
  | .getDeviceInterfaceState r => Sys2Proof.Machine.execGetDeviceInterfaceState r s
  | .startInterfaceRequest r => Sys2Proof.Machine.execStartInterfaceRequest r s
  | .stopInterfaceRequest r => Sys2Proof.Machine.execStopInterfaceRequest r s
  | .ideKm r keys => Sys2Proof.Machine.execIdeKm r keys s
  | .getVersion r => Sys2Proof.Machine.execGetVersion r s
  | .getCapabilities r => Sys2Proof.Machine.execGetCapabilities r s
  | .negotiateAlgorithms r => Sys2Proof.Machine.execNegotiateAlgorithms r s
  | .challenge r => Sys2Proof.Machine.execChallenge r s
  | .keyExchange r => Sys2Proof.Machine.execKeyExchange r s
  | .getMeasurements r => Sys2Proof.Machine.execGetMeasurements r s
  | .peerAccess link remote va n a => Sys2Proof.Machine.execPeerAccess link remote va n a s
  | .chinookLinkTraining link peerTime => Sys2Proof.Machine.execChinookLinkTraining link peerTime s
  | .chinookLinkDown link => Sys2Proof.Machine.execChinookLinkDown link s
  | .calmEntry => Sys2Proof.Machine.execCalmEntry s
  | .doldrumsEntry => Sys2Proof.Machine.execDoldrumsEntry s
  | .wakeEvent => Sys2Proof.Machine.execWakeEvent s
  | .throttleEngage => Sys2Proof.Machine.execThrottleEngage s
  | .throttleRelease => Sys2Proof.Machine.execThrottleRelease s
  | .clockStop => Sys2Proof.Machine.execClockStop s
  | .clockRestart => Sys2Proof.Machine.execClockRestart s
  | .moduleStart => Sys2Proof.Machine.execModuleStart s
  | .rlen v => Sys2Proof.Machine.execRlen v s
  | .rdata v => Sys2Proof.Machine.execRdata v s
  | .rgo v => Sys2Proof.Machine.execRgo v s
  | .recoveryVerifyDone => Sys2Proof.Machine.execRecoveryVerifyDone s
  | .fatalError => Sys2Proof.Machine.execFatalError s
  | .healthRecord unit => Sys2Proof.Machine.execHealthRecord unit s
  | .pcieCompletionTimeout => Sys2Proof.Machine.execPcieCompletionTimeout s

end Sys2Proof.Machine
end

