-- ==== Sys2Proof/Machine/Turn.lean ====
section
/-! DEFINITION. What acts next: the turns of the agenda, the boundary between two compute cycles, and the placing of one
instruction where the next step runs it (01_machine.md R13, R28, R29; 02_encoding.md R43; 15_tiles_time.md R394;
18_module.md R478, R483). DESIGN CHOICE, log entry 2: the agenda orders what the spec leaves concurrent. -/

namespace Sys2Proof.Machine

/-- What a turn asks of the machine. -/
inductive Todo where
  /-- an instruction to run, on the state with its tile in focus -/
  | run (i : Instr) (s : State)
  /-- nothing further: the state after the turn -/
  | done (s : State)
  /-- the turn names no tile of the die -/
  | lost
  deriving DecidableEq, Repr

/-- The tiles of the die (R12). -/
def dieTiles : Nat := 512

/-- The next micro-op of a running routine, where one runs (R224, R226). -/
def nextUop (t : Tile) : Option (BitVec 32) := (runCall t.eng).map fun c => smGet 0 t.mem.rstore c.2.upc

/-- The turn of a running routine: its next micro-op, or cause 6 where the slot decodes to none (R223). -/
def microTurn (s : State) : Todo :=
  match nextUop s.tile with
  | none => .done s
  | some w =>
    match decodeMicro w with
    | some i => .run i s
    | none => .done (microIllegal s)

/-- The turn of an interface: its oldest waiting command (R447). -/
def serveTurn (vd : BitVec 8) (s : State) : Todo :=
  match (getVd vd s).cmdq with
  | [] => .done s
  | c :: _ => .run (commandInstr vd c) s

/-- Whether the module stands stopped after a fatal error, until VD 0 resets it (16 R442). -/
def standsFatal (t : Turn) (m : Mod) : Bool := m.power == .fatal && t != .event 0 (.functionLevelReset 0)

/-- A turn taken. -/
def takeTurn (t : Turn) (s : State) : Todo :=
  if standsFatal t s.mod then .done s
  else
  match t with
  | .issue p => if p < dieTiles then .run .bundleIssue (focusOn p s) else .lost
  | .micro p => if p < dieTiles then microTurn (focusOn p s) else .lost
  | .serve vd => serveTurn vd s
  | .event p i => if p < dieTiles then .run i (focusOn p s) else .lost
  | .health u => .done (healthRecord u s)

/-- The turns still to come are the boundary's alone to draw: no step changes them. -/
def keepAgenda (rest : List Turn) (o : Host.Outcome State Fault Refusal) : Host.Outcome State Fault Refusal :=
  match o with
  | .next s => .next { s with agenda := rest }
  | .fault r => .fault r
  | .refused r => .refused r

/-! ## Between two cycles -/

/-- CYCLE and TIME a cycle later: 15 nominal or 7.5 halved cycles a tick; with the compute clock standing, a tick
(R28, R29, R394, R482). -/
def passTime (m : Mod) : Mod :=
  if clockRuns m then
    let n := m.sub + (if m.div then 4 else 2)
    let time := if 30 ≤ n then m.time + 1 else m.time
    { m with prevTime := m.cycTime, cycTime := time, cycle := m.cycle + 1, time := time, sub := if 30 ≤ n then n - 30 else n }
  else { m with time := m.time + 1 }

/-- The temperature of a cycle: hot at 105 °C or above, as it is while the clock is stopped, and the compute domain is halved as soon as it may
change (R482 to R484). -/
def passHeat (ticks : Nat) (m : Mod) : Mod :=
  let hot := m.stopped || Config.tooHot ticks
  let halve := hot && !m.div && mayChange m
  { m with hot := hot, div := m.div || halve, events := if halve then m.events + 1 else m.events
           changed := if halve then some m.time else m.changed }

/-- The compute cycles of running gangs (R394). -/
def countRunc (b : Bind) : Bind := if b.state = .running then { b with runc := b.runc + 1 } else b

/-- A micro-op (R226). -/
def isMicro (i : Instr) : Bool := (encodeMicro i).isSome

/-- Steps that the machine's own turns take: a tile's issue and what it includes, the lane step, commands, micro-ops. -/
def ownTurn (i : Instr) : Bool :=
  match i with
  | .bundleIssue | .resultLanding | .watchdog | .monitorPollWake | .waitmTimeout | .barrierRelease _ | .xmitArrival | .laneStep
  | .snapshot _ | .healthRecord _ | .publish _ _ | .retire _ _ | .openStream _ _ | .closeStream _ _ | .submit _ _ | .mboxw _ _ | .jpost _ _ | .replyResume _ _
  | .replyRestart _ _ | .replyEnd _ _ | .mappage _ _ | .reload _ _ | .sessionDefine _ _ | .sessionRemove _ _ | .snapread _ _
  | .snaprel _ _ | .quota _ _ | .enroll _ _ | .pool _ _ | .slots _ _ | .dump _ _ | .pair _ _ | .accessOpen _ _ | .accessClose _ _
  | .unknownOp _ _ => true
  | i => (slotOp i).isSome

/-- Steps of the compute domain, which stand with its clock: the tiles, the fabric, the Flume's jobs and the matrix engines (R482, R483). -/
def computeStep (i : Instr) : Bool :=
  match i with
  | .overlayPageIn | .tileFree | .ldgComplete | .storeQueuePerform _ | .killedJobRelease _ _ | .copyJobStart _ | .copyJobComplete _ _
  | .copyJobRunFault _ _ | .s2tPacketHop _ | .matrixJobStart | .panelLoadArrival | .mldrJob | .cpbindJob | .cpinvJob | .cpsavJob
  | .cprstJob | .coppiceBroadcastApply | .boardArm _ | .boardComplete _ | .tileHalt | .gangStopped _ _ | .contextSave _ | .gangDiscard _
  | .gangStart _ | .gangResume _ => true
  | i => isMicro i

/-- The turn of an input: a step of an engine or of the outside world, or one micro-op of the tile's routine. -/
def inputTurn (m : Mod) (x : Nat × Instr) : Option Turn :=
  if dieTiles ≤ x.1 || (computeStep x.2 && !clockRuns m) then none
  else if isMicro x.2 then some (.micro x.1)
  else if ownTurn x.2 then none
  else some (.event x.1 x.2)

/-- Every virtual device with a command waiting (R447). -/
def waitingVds (s : State) : List (BitVec 8) := (s.vds.filter (! ·.2.cmdq.isEmpty)).map fun v => BitVec.ofNat 8 v.1

/-- The tiles that issue, in rising order (R13). -/
def issuingTiles (s : State) : List Nat := (upTo dieTiles).filter fun p => (getTile p s).ctl.run == .running

/-- The start that every module reset leads to (R487). -/
def startTurns (m : Mod) : List Turn := if m.power = .starting then [.event 0 .moduleStart] else []

/-- The turns of what TIME makes due: snapshots before anything else of their cycle, health records, and halts whose deadline has come
(R391, R466, R489). -/
def dueTurns (s : State) : List Turn :=
  ((s.vds.filter fun v => snapDue v.2 s.mod.time).map fun v => .event 0 (.snapshot (BitVec.ofNat 8 v.1)))
    ++ s.mod.healthDue.map (fun u => .health u)
    ++ ((s.binds.filter fun b => b.2.state == .running && (b.2.haltBy.any fun t => decide (t ≤ s.mod.time.toNat))).map
      fun b => .event 0 (.haltRequest b.1))

/-- The turns of the compute domain: the tiles' issue, then the lane step. -/
def computeTurns (s : State) : List Turn := if clockRuns s.mod then (issuingTiles s).map .issue ++ [.event 0 .laneStep] else []

/-- The turns of a cycle: the start where the module has been reset, what is due, what the engines and the outside world bring, commands,
the compute domain. -/
def cycleTurns (s : State) : List Turn :=
  startTurns s.mod ++ dueTurns s ++ (Config.inputs s.ticks).filterMap (inputTurn s.mod) ++ (waitingVds s).map .serve ++ computeTurns s

/-- The gangs and the Flume's jobs at the start of a compute cycle. -/
def beginCompute (s : State) : State :=
  if clockRuns s.mod then everyTile (armTile s.flume) { s with binds := s.binds.map fun b => (b.1, countRunc b.2) } else s

/-- The time from which the Calm interval counts (R479). -/
def noteIdle (s : State) : State := if anyHeld s then onMod (fun m => { m with idleSince := m.time }) s else s

/-- What a boundary brings from outside: heat, errors and clusters' service; after a fatal error, nothing (16 R442). -/
def worldRound (s : State) : State :=
  if s.mod.power = .fatal then s
  else serviceRound (Config.outOfService s.ticks) (eccRound (Config.upsets s.ticks) (onMod (passHeat s.ticks) s))

/-- THE BOUNDARY between two cycles: the clocks go on, and the turns of the next cycle are drawn. -/
def nextCycle (s : State) : State :=
  let s := noteIdle (beginCompute (worldRound (onMod passTime (resetRound s))))
  { s with ticks := s.ticks + 1, agenda := cycleTurns s }

/-! ## One instruction placed to run next -/

/-- An operand header with every field zero. -/
def zeroOperand : Operand :=
  { bstride := 0, pstride := 0, scale := 0, data := 0, k := 0, rows := 0, version := 0, seed := 0, gdiv := 0, sparse := 0
    u := false, planes := 0 }

/-- A call of routine 0 with every parameter zero. -/
def zeroCall : MCallSnap :=
  { mp := Vector.replicate 8 0, routine := 0, tag := 0, pa := 0, pb := 0, a := zeroOperand, b := zeroOperand }

/-- A micro-op at slot 0 of the tile in focus, under a running call. -/
def placeMicro (w : BitVec 32) (s : State) : State :=
  { s with
    tile := { s.tile with
      mem := { s.tile.mem with rstore := smPut 0 0 w s.tile.mem.rstore }
      eng := { s.tile.eng with mq := [{ job := .call zeroCall, fp := [], serial := 0 }], mrun := some { upc := 0 } } }
    agenda := [.micro s.cur] }

/-- A frame of the bound image that holds one word, and zeros elsewhere on its page. -/
def oneWordFrame (t : Tile) (w : Word) : Frame :=
  { digest := t.place.digest, page := t.ctl.pc.toNat / 4096, words := smPut 0 (t.ctl.pc.toNat % 4096 / 8) w [] }

/-- A syllable at the program counter of the tile in focus, which runs. -/
def placeSyllable (w : Word) (s : State) : State :=
  { s with
    tile := { s.tile with ctl := { s.tile.ctl with run := .running, frames := oneWordFrame s.tile w :: s.tile.ctl.frames } }
    agenda := [.issue s.cur] }

/-- The word of a table row placed where the next step runs it. -/
def placeWord (nbits w : Nat) (s : State) : State :=
  if nbits ≤ 32 then placeMicro (BitVec.ofNat 32 w) s else placeSyllable (BitVec.ofNat 64 w) s

end Sys2Proof.Machine
end

