-- ==== Sys2Proof/Machine/Step.lean ====
section
/-! DEFINITION. One step: the oldest turn of the agenda, or the boundary between two cycles (log entry 2). -/

namespace Sys2Proof.Machine

/-- What a turn asks, done. -/
def follow (x : Todo) : Host.Outcome State Fault Refusal :=
  match x with
  | .run i s => exec i s
  | .done s => .next s
  | .lost => .fault .noSuchTile

/-- One step of the module. -/
def step (s : State) : Host.Outcome State Fault Refusal :=
  match s.agenda with
  | [] => .next (nextCycle s)
  | t :: rest => keepAgenda rest (follow (takeTurn t s))

/-- The state with one word of the opcode table placed where `step` runs it next. -/
def State.withFetchWord (s : State) (nbits w : Nat) : State := placeWord nbits w s

end Sys2Proof.Machine
end

