-- ==== Sys2Proof/Safety.lean ====
section
/-! DEFINITION. What counts as a safe run, and the vocabulary that claims are stated in: the syllable that issues alone with
nothing in its way, and for each family of syllables the effect its rules give (02_encoding.md R43; 03_issue.md R74 to R80;
04_registers_scalar.md; 06_vector.md; 07_scratchpad.md). -/

namespace Sys2Proof.Safety

open Sys2Proof.Machine

/-! ## Safe states -/

/-- A turn that the machine can take: it names a tile of the die (R12). -/
def turnOk : Turn → Bool
  | .issue p => decide (p < dieTiles)
  | .micro p => decide (p < dieTiles)
  | .serve _ => true
  | .event p _ => decide (p < dieTiles)
  | .health _ => true

/-- Every turn to come names a tile of the die. -/
def Sound (s : State) : Prop := s.agenda.all turnOk = true

/-- The memories of a tile are in canonical form. -/
def tileMemWf (m : TMem) : Bool :=
  Memory.wf m.spad && Memory.wf m.cpart && Memory.wf m.spill && smWf false m.poison && smWf 0 m.tstore && smWf 0 m.rstore
    && smWf 0 m.rentry && smWf 0 m.acc

/-- A syllable of header `h` and timed accesses `xs`, alone in its bundle, that no guard, interlock, footprint or bank conflict
keeps from issuing (R34, R40, R49, R196). -/
structure Ready (h : Hdr) (xs : List FRange) (s : State) : Prop where
  guard   : readP s.tile h.guard = true
  settled : interlocked s.tile.regs = false
  free    : xs.any (timedHeld s.tile.eng) = false
  banks   : s.tile.ctl.bankLeft.getD (bankHold xs) = 0

/-- A syllable of header `h`, alone, whose guard holds, at the boundary where faults of step 5 are judged (R40, R415). -/
structure Judged (h : Hdr) (s : State) : Prop where
  guard   : readP s.tile h.guard = true
  settled : interlocked s.tile.regs = false
  fresh   : s.tile.ctl.bankLeft = none

/-- The syllable raises the fault at its boundary, and nothing else of it happens (R413, R415). -/
def Takes (f : TFault) (i : Instr) (s : State) : Prop := exec i s = .next (takeFault f s)

/-- POISON of a timed load at its first poisoned byte `b` (R290, R418). -/
def poisonAt (b : Nat) : TFault :=
  { code := 0x06, addr := BitVec.ofNat 64 b, detail := detailOf (BitVec.ofNat 64 b) (12 * 2 ^ 100 + 2 ^ 8) 0x06 }

/-- SPAD of an access of `n` bytes at `a`, at its first byte beyond the program area (R192). -/
def beyond (t : Tile) (a : Word) (elem : Nat) : TFault := addrFault 0x03 (BitVec.ofNat 64 (max a.toNat (progEnd t))) 0 elem

/-- An access of `n` bytes at `a`, aligned to `al`, inside the program area (R190, R192). -/
def InReach (t : Tile) (a : Word) (n al : Nat) : Prop := a.toNat % al = 0 ∧ a.toNat + n ≤ progEnd t

/-- The state after the issue cycle of a syllable alone whose effect leaves `t` (R43, R74, R80, R85). -/
def issued (h : Hdr) (point : Bool) (s t : State) : State := endCycle (h.pp || point) s (advance s t)

/-! ## Sources read, with their latches refreshed (R46, R47, R166) -/

def readS1 (a : Src) (s : State) : State := latchSa a (srcSa s.tile.regs a) s
def readS2 (a b : Src) (s : State) : State := latchSb b (srcSb s.tile.regs b) (readS1 a s)
def readV1 (a : Src) (s : State) : State := latchVa a (srcVa s.tile.regs a) s
def readV2 (a b : Src) (s : State) : State := latchVb b (srcVb s.tile.regs b) (readV1 a s)
def readV3 (a b c : Src) (s : State) : State := latchVc c (srcVc s.tile.regs c) (readV2 a b s)
/-- A g register read at position a of the V slot. -/
def readVg (a : Src) (s : State) : State := latchVa a ((srcVaG s.tile.regs a).setWidth 2048) s
/-- A g register read at position b of the V slot. -/
def readVgB (b : Src) (i s : State) : State := latchVb b ((srcVbG i.tile.regs b).setWidth 2048) s
/-- g registers read at the positions of the M slot. -/
def readM1 (a : Src) (s : State) : State := latchMa a ((srcMaG s.tile.regs a).setWidth 2048) s
def readM2 (a b : Src) (s : State) : State := latchMb b ((srcMbG s.tile.regs b).setWidth 2048) (readM1 a s)

/-- A result for general register `d` enters flight (R49). -/
def toG (slot cls : Nat) (d : Reg) (v : Word) (s : State) : State := pushRes slot cls 0 (.g d v) s
/-- A predicate pair enters flight (R111). -/
def toPair (s : State) (pd pe : BitVec 5) (c : Bool) (t : State) : State :=
  pushRes 0 6 0 (.pair (physP s.tile.regs pd) (physP s.tile.regs pe) c) t

/-! ## Scalar results (R117 to R132) -/

/-- Two sources. -/
def s2 (s : State) (h : Hdr) (cls : Nat) (d : Reg) (a b : Src) (f : Word → Word → Word) : Option (Hdr × State) :=
  some (h, toG 0 cls d (f (srcSa s.tile.regs a) (srcSb s.tile.regs b)) (readS2 a b s))
/-- One source. -/
def s1 (s : State) (h : Hdr) (d : Reg) (a : Src) (f : Word → Word) : Option (Hdr × State) :=
  some (h, toG 0 0 d (f (srcSa s.tile.regs a)) (readS1 a s))

/-- The header of a scalar instruction that writes a general register, and the state its rule gives. -/
def scalarRule (s : State) (i : Instr) : Option (Hdr × State) :=
  match i with
  | .nop h => some (h, s)
  | .add h d a b => s2 s h 0 d a b fun x y => x + y
  | .addi h d a imm => s1 s h d a fun x => x + imm.signExtend 64
  | .sub h d a b => s2 s h 0 d a b fun x y => x - y
  | .mul h d a b => s2 s h 1 d a b fun x y => x * y
  | .mulh h .s d a b => s2 s h 1 d a b fun x y => BitVec.ofInt 64 (Int.fdiv (x.toInt * y.toInt) (2 ^ 64))
  | .mulh h .u d a b => s2 s h 1 d a b fun x y => BitVec.ofNat 64 (x.toNat * y.toNat / 2 ^ 64)
  | .mulh h .su d a b => s2 s h 1 d a b fun x y => BitVec.ofInt 64 (Int.fdiv (x.toInt * y.toNat) (2 ^ 64))
  | .div h o d a b =>
    let x := srcSa s.tile.regs a
    let y := srcSb s.tile.regs b
    some (h, pushAt 0 8 (divCycles x y) 0 (.g d (divValue o x y)) (readS2 a b s))
  | .and h d a b => s2 s h 0 d a b fun x y => x &&& y
  | .andi h d a imm => s1 s h d a fun x => x &&& imm.signExtend 64
  | .or h d a b => s2 s h 0 d a b fun x y => x ||| y
  | .ori h d a imm => s1 s h d a fun x => x ||| imm.signExtend 64
  | .xor h d a b => s2 s h 0 d a b fun x y => x ^^^ y
  | .xori h d a imm => s1 s h d a fun x => x ^^^ imm.signExtend 64
  | .shl h d a b => s2 s h 0 d a b fun x n => if n.toNat < 64 then x <<< n.toNat else 0
  | .shr h false d a b => s2 s h 0 d a b fun x n => if n.toNat < 64 then x >>> n.toNat else 0
  | .shr h true d a b => s2 s h 0 d a b fun x n => BitVec.ofInt 64 (Int.fdiv x.toInt (2 ^ min n.toNat 64))
  | .shli h d a n => s1 s h d a fun x => x <<< n.toNat
  | .shri h false d a n => s1 s h d a fun x => x >>> n.toNat
  | .shri h true d a n => s1 s h d a fun x => x.sshiftRight n.toNat
  | .min h false d a b => s2 s h 0 d a b fun x y => BitVec.ofInt 64 (min x.toInt y.toInt)
  | .min h true d a b => s2 s h 0 d a b fun x y => BitVec.ofNat 64 (min x.toNat y.toNat)
  | .max h false d a b => s2 s h 0 d a b fun x y => BitVec.ofInt 64 (max x.toInt y.toInt)
  | .max h true d a b => s2 s h 0 d a b fun x y => BitVec.ofNat 64 (max x.toNat y.toNat)
  | .clz h d a => s1 s h d a fun x => BitVec.ofNat 64 (clzNat 64 x.toNat)
  | .popc h d a => s1 s h d a fun x => BitVec.ofNat 64 (popNat 64 x.toNat)
  | .ext h false d a pos len1 => s1 s h d a fun x => BitVec.ofNat 64 (x.toNat / 2 ^ pos.toNat % 2 ^ (len1.toNat + 1))
  | .ext h true d a pos len1 =>
    s1 s h d a fun x => BitVec.ofInt 64 (sextN (len1.toNat + 1) (x.toNat / 2 ^ pos.toNat % 2 ^ (len1.toNat + 1)))
  | .ins h d a pos len1 => s1 s h d a fun x => insValue pos len1 x (readG s.tile.regs d)
  | .movi h d imm => some (h, toG 0 0 d (imm.signExtend 64) s)
  | .movh h d a imm => s1 s h d a fun x => imm ++ x.setWidth 32
  | .sel h d pn a b => s2 s h 0 d a b fun x y => if readP s.tile pn then x else y
  | .mget h d mp => some (h, toG 2 0 d (s.tile.regs.mp[mp.toNat]'mp.isLt) s)
  | .mstat h d => some (h, toG 2 0 d (mstatValue s.tile) s)
  | .cstat h d q => some (h, toG 3 0 d (cstatValue s.tile.eng q) s)
  | _ => none

/-- The header of a scalar instruction that writes a predicate pair, and the state its rule gives (R129 to R132). -/
def pairRule (s : State) (i : Instr) : Option (Hdr × State) :=
  match i with
  | .cmp h c pd pe a b =>
    some (h, toPair s pd pe (condHolds c (srcSa s.tile.regs a) (srcSb s.tile.regs b)) (readS2 a b s))
  | .cmpi h c pt pc a imm => some (h, toPair s pt pc (condHolds c (srcSa s.tile.regs a) (imm.signExtend 64)) (readS1 a s))
  | .pand h .and pd pe pa pb => some (h, toPair s pd pe (readP s.tile pa && readP s.tile pb) s)
  | .pand h .nb pd pe pa pb => some (h, toPair s pd pe (readP s.tile pa && !readP s.tile pb) s)
  | .pand h .or pd pe pa pb => some (h, toPair s pd pe (readP s.tile pa || readP s.tile pb) s)
  | .pand h .xor pd pe pa pb => some (h, toPair s pd pe (xor (readP s.tile pa) (readP s.tile pb)) s)
  | .pset h value pd pe => some (h, toPair s pd pe value s)
  | _ => none

/-! ## Integer lanes (R170, R171, R175) -/

/-- A vector result: mask, value and flags, at a class. -/
def toV (s : State) (cls : Nat) (d : Reg) (o : VOut) (t : State) : State :=
  pushRes 1 cls o.flags (.v (physV s.tile.regs d) o.mask o.val) t

/-- Every lane of a type computed under a mask field (R162, R164). -/
def eachLane (s : State) (ty : ElemTy) (m : VMask) (f : Nat → Nat) : VOut :=
  lanesOut ty.bits (lanesOf ty.bits) (readK s.tile.regs m.k) m.z false fun i => (f i, 0)

/-- The exact integer v of a lane, clamped or wrapped (R138, R170). -/
def laneResult (ty : ElemTy) (sat : Bool) (v : Int) : Nat := wrapN ty.bits (if sat then satTy ty v else v)

/-- A lane-wise function of two vector sources. -/
def v2 (s : State) (h : Hdr) (ty : ElemTy) (m : VMask) (d : Reg) (a b : Src) (f : Nat → Nat → Nat) : Option (Hdr × State) :=
  some (h, toV s 3 d (eachLane s ty m fun i =>
    f (laneN (srcVa s.tile.regs a).toNat i ty.bits) (laneN (srcVb s.tile.regs b).toNat i ty.bits)) (readV2 a b s))
/-- A lane-wise function of one vector source. -/
def v1 (s : State) (h : Hdr) (ty : ElemTy) (m : VMask) (d : Reg) (a : Src) (f : Nat → Nat) : Option (Hdr × State) :=
  some (h, toV s 3 d (eachLane s ty m fun i => f (laneN (srcVa s.tile.regs a).toNat i ty.bits)) (readV1 a s))

/-- The header of a lane-wise integer instruction, and the state its rule gives. -/
def laneRule (s : State) (i : Instr) : Option (Hdr × State) :=
  match i with
  | .vadd h ty sat m d a b => v2 s h ty m d a b fun x y => laneResult ty sat (elemVal ty x + elemVal ty y)
  | .vsub h ty sat m d a b => v2 s h ty m d a b fun x y => laneResult ty sat (elemVal ty x - elemVal ty y)
  | .vmul h ty sat m d a b => v2 s h ty m d a b fun x y => laneResult ty sat (elemVal ty x * elemVal ty y)
  | .vmulh h ty m d a b =>
    v2 s h ty m d a b fun x y => laneResult ty false (Int.fdiv (elemVal ty x * elemVal ty y) (2 ^ ty.bits))
  | .vmin h ty m d a b => v2 s h ty m d a b fun x y => laneResult ty false (min (elemVal ty x) (elemVal ty y))
  | .vmax h ty m d a b => v2 s h ty m d a b fun x y => laneResult ty false (max (elemVal ty x) (elemVal ty y))
  | .vand h ty m d a b => v2 s h ty m d a b fun x y => x &&& y
  | .vor h ty m d a b => v2 s h ty m d a b fun x y => x ||| y
  | .vxor h ty m d a b => v2 s h ty m d a b fun x y => x ^^^ y
  | .vshl h ty sat m d a b => v2 s h ty m d a b fun x n => laneResult ty sat (elemVal ty x * 2 ^ min n ty.bits)
  | .vshr h ty m d a b => v2 s h ty m d a b fun x n => laneResult ty false (Int.fdiv (elemVal ty x) (2 ^ min n ty.bits))
  | .vabs h ty sat m d a => v1 s h ty m d a fun x => laneResult ty sat (elemVal ty x).natAbs
  | .vpopc h ty m d a => v1 s h ty m d a fun x => popNat ty.bits x
  | .vclz h ty m d a => v1 s h ty m d a fun x => clzNat ty.bits x
  | .vmov h ty m d a => v1 s h ty m d a fun x => x
  | .vmadd h ty sat m d a b c =>
    let r := s.tile.regs
    some (h, toV s 3 d (eachLane s ty m fun i => laneResult ty sat (elemVal ty (laneN (srcVa r a).toNat i ty.bits)
      * elemVal ty (laneN (srcVb r b).toNat i ty.bits) + elemVal ty (laneN (srcVc r c).toNat i ty.bits))) (readV3 a b c s))
  | .vsel h ty k d a b =>
    let r := s.tile.regs
    some (h, toV s 3 d (eachLane s ty ⟨0, false⟩ fun i =>
      if (readK r k).getLsbD i then laneN (srcVa r a).toNat i ty.bits else laneN (srcVb r b).toNat i ty.bits) (readV2 a b s))
  | .vbcast h ty m d a => some (h, toV s 3 d (eachLane s ty m fun _ => (srcVaG s.tile.regs a).toNat) (readVg a s))
  | .vperm h ty false m d a b _ =>
    let r := s.tile.regs
    let n := lanesOf ty.bits
    some (h, toV s 3 d (eachLane s ty m fun i => laneN (srcVa r a).toNat (laneN (srcVb r b).toNat i ty.bits % n) ty.bits)
      (readV2 a b s))
  | .vperm h ty true m d a b c =>
    let r := s.tile.regs
    let n := lanesOf ty.bits
    some (h, toV s 3 d (eachLane s ty m fun i =>
      let q := laneN (srcVb r b).toNat i ty.bits % (2 * n)
      if q < n then laneN (srcVa r a).toNat q ty.bits else laneN (srcVc r c).toNat (q - n) ty.bits) (readV3 a b c s))
  | .vpack h ty sat m d a b =>
    let r := s.tile.regs
    let half := lanesOf ty.bits / 2
    some (h, toV s 3 d (eachLane s ty m fun i =>
      laneResult ty sat (elemAt ty (2 * ty.bits) (if i < half then laneN (srcVa r a).toNat i (2 * ty.bits)
        else laneN (srcVb r b).toNat (i - half) (2 * ty.bits)))) (readV2 a b s))
  | .vunpk h ty hi m d a =>
    some (h, toV s 3 d (eachLane s ty m fun i =>
      wrapN ty.bits (elemAt ty (ty.bits / 2)
        (laneN (srcVa s.tile.regs a).toNat (if hi then i + lanesOf ty.bits else i) (ty.bits / 2)))) (readV1 a s))
  | _ => none

/-! ## The other vector results (R172 to R189) -/

/-- The header of a vector instruction that is not lane-wise on integers, and the state its rule gives. -/
def vectorRule (s : State) (i : Instr) : Option (Hdr × State) :=
  let r := s.tile.regs
  let each (ty : ElemTy) (m : VMask) (f : Nat → Flagged Nat) : VOut := lanesOut ty.bits (lanesOf ty.bits) (readK r m.k) m.z false f
  match i with
  | .vext h ty d a b =>
    some (h, toG 1 3 d (BitVec.ofInt 64 (elemVal ty (laneN (srcVa r a).toNat ((srcVbG r b).toNat % lanesOf ty.bits) ty.bits)))
      (readVgB b s (readV1 a s)))
  | .vins h ty d a b =>
    let n := (srcVbG r b).toNat % lanesOf ty.bits
    some (h, toV s 3 d { mask := BitVec.ofNat 2048 ((2 ^ ty.bits - 1) * 2 ^ (n * ty.bits))
                         val := BitVec.ofNat 2048 ((srcVaG r a).toNat % 2 ^ ty.bits * 2 ^ (n * ty.bits)) }
      (readVgB b s (readVg a s)))
  | .vcmp h c ty k kd a b =>
    let hit (j : Nat) : Bool :=
      vcondHolds c (elemVal ty (laneN (srcVa r a).toNat j ty.bits)) (elemVal ty (laneN (srcVb r b).toNat j ty.bits))
    some (h, pushRes 1 6 0 (.k kd (cmpMask (lanesOf ty.bits) (readK r k)) (maskBits (lanesOf ty.bits) hit)) (readV2 a b s))
  | .kop h op kd ka kb => some (h, pushRes 1 6 0 (.k kd (BitVec.allOnes 256) (kopValue op (readK r ka) (readK r kb))) s)
  | .vred h op ty rnd k d a =>
    some (h, toV s (if ty.isFloat then 4 else 3) d (redOut op ty rnd r.ftz (readK r k) (srcVa r a)) (readV1 a s))
  | .vscan h op ty rnd k d a =>
    some (h, toV s (if ty.isFloat then 4 else 3) d (scanOut op ty rnd r.ftz (readK r k) (srcVa r a)) (readV1 a s))
  | .pln h ty planes1 d a => some (h, toV s 3 d { mask := BitVec.allOnes 2048, val := plnValue ty planes1 (srcVa r a) } (readV1 a s))
  | .upl h ty planes1 u d a =>
    some (h, toV s 3 d { mask := BitVec.allOnes 2048, val := uplValue ty planes1 u (srcVa r a) } (readV1 a s))
  | .vfadd h ty rnd m d a b =>
    some (h, toV s 4 d (each ty m fun i =>
      fAdd (fmtOf ty) r.ftz rnd (laneF ty r.ftz (srcVa r a) i) (laneF ty r.ftz (srcVb r b) i)) (readV2 a b s))
  | .vfsub h ty rnd m d a b =>
    some (h, toV s 4 d (each ty m fun i =>
      fAdd (fmtOf ty) r.ftz rnd (laneF ty r.ftz (srcVa r a) i) (negate (laneF ty r.ftz (srcVb r b) i))) (readV2 a b s))
  | .vfmul h ty rnd m d a b =>
    some (h, toV s 4 d (each ty m fun i =>
      fMul (fmtOf ty) r.ftz rnd (laneF ty r.ftz (srcVa r a) i) (laneF ty r.ftz (srcVb r b) i)) (readV2 a b s))
  | .vfma h ty rnd m d a b c =>
    some (h, toV s 4 d (each ty m fun i =>
      fFma (fmtOf ty) r.ftz rnd (laneF ty r.ftz (srcVa r a) i) (laneF ty r.ftz (srcVb r b) i) (laneF ty r.ftz (srcVc r c) i))
      (readV3 a b c s))
  | .vfmin h ty m d a b =>
    some (h, toV s 4 d (each ty m fun i =>
      fMinMax (fmtOf ty) true (laneF ty r.ftz (srcVa r a) i) (laneF ty r.ftz (srcVb r b) i)) (readV2 a b s))
  | .vfmax h ty m d a b =>
    some (h, toV s 4 d (each ty m fun i =>
      fMinMax (fmtOf ty) false (laneF ty r.ftz (srcVa r a) i) (laneF ty r.ftz (srcVb r b) i)) (readV2 a b s))
  | .vfdiv h ty rnd m d a b =>
    some (h, toV s 9 d (each ty m fun i =>
      fDiv (fmtOf ty) r.ftz rnd (laneF ty r.ftz (srcVa r a) i) (laneF ty r.ftz (srcVb r b) i)) (readV2 a b s))
  | .vfrnd h ty rnd m d a =>
    some (h, toV s 4 d (each ty m fun i => fRound (fmtOf ty) rnd (laneF ty r.ftz (srcVa r a) i)) (readV1 a s))
  | .vfcmpK h c ty k kd a b =>
    let rs := fcmpLanes c ty r.ftz (readK r k) (srcVa r a) (srcVb r b)
    some (h, pushRes 1 6 (fcmpFlags rs)
      (.k kd (cmpMask (lanesOf ty.bits) (readK r k))
        (BitVec.ofNat 256 (rs.foldr (fun v n => (if fcmpHit v then 1 else 0) + 2 * n) 0))) (readV2 a b s))
  | .vfcmpP h c ty k pd pe a b =>
    let rs := fcmpLanes c ty r.ftz (readK r k) (srcVa r a) (srcVb r b)
    some (h, pushRes 1 6 (fcmpFlags rs) (.pair (physP r pd) (physP r pe) (rs.any fcmpHit)) (readV2 a b s))
  | .vcvt h dst src rnd sat m d a =>
    some (h, toV s 4 d (elemsOut dst.bits (min (lanesOf src.bits) (lanesOf dst.bits)) (readK r m.k) m.z fun i =>
      cvtElem dst src r.ftz rnd sat (laneN (srcVa r a).toNat i src.bits)) (readV1 a s))
  | .qnt h ty rnd m d a b =>
    some (h, toV s 13 d (elemsOut ty.bits 64 (readK r m.k) m.z fun i =>
      qntElem ty r.ftz rnd (laneN (srcVa r a).toNat i 32) (laneN (srcVb r b).toNat i 32)) (readV2 a b s))
  | .bsc h ty planes1 k d a => some (h, toV s 4 d (bscOut ty planes1 r.ftz (readK r k) (srcVa r a)) (readV1 a s))
  | .scacc h ty rnd k adjust d a b c =>
    some (h, toV s 4 d (scaccOut ty rnd adjust.toNat r.ftz (readK r k) (srcVa r a) (srcVb r b) (srcVc r c) (readV r d))
      (readV3 a b c s))
  | .tli h ty rnd sat m t d a =>
    some (h, toV s 7 d (elemsOut ty.bits 64 (readK r m.k) m.z fun i =>
      tliElem (fmtOf ty) r.ftz rnd sat (tableOf s.tile.mem t) (laneN (srcVa r a).toNat i 32)) (readV1 a s))
  | .vldp h d page =>
    some (h, toV s 10 d { mask := BitVec.allOnes 2048, val := BitVec.ofNat 2048 (readB s.tile.mem.spill (256 * page.toNat) 256) } s)
  | .vstp h v page =>
    some (h, onMem (fun m => { m with spill := writeB (256 * page.toNat) 256 (readV r v).toNat m.spill }) s)
  | _ => none

/-- A table of header `hd` at `a` loaded into the table store, and its header register `n` (R188). -/
def tableLoaded (n : BitVec 2) (a : Nat) (hd : BitVec 128) (m : TMem) : TMem :=
  { m with
    tstore := (upTo (tldCount hd)).foldl (fun ts j =>
      smPut 0 (tldOffset hd + j) (BitVec.ofNat 64 (readB m.spad (a + 16 + 8 * j) 8)) ts) m.tstore
    thdr := m.thdr.set n.toNat hd n.isLt }

/-! ## Scratchpad and sync words (R200 to R212) -/

/-- The elements of a vector access in lane order (R207). -/
def vmemElems (s : State) (i : Instr) : List (Nat × Word) :=
  let r := s.tile.regs
  match i with
  | .vld _ ty k _ base disp | .vst _ ty k _ base disp => unitElems r ty k base disp
  | .vlds _ ty k _ base stride disp | .vsts _ ty k _ base stride disp => strideElems r ty k base stride disp
  | .vgath _ ty k _ base index disp | .vscat _ ty k _ base index disp => indexElems r ty k base index disp
  | _ => []

/-- The header of a vector access, the bytes of an element, their alignment, and whether it loads (R207). -/
def vmemForm (i : Instr) : Option (Hdr × Nat × Nat × Bool) :=
  match i with
  | .vld h ty _ _ _ _ => some (h, ty.bits / 8, 1, true)
  | .vst h ty _ _ _ _ => some (h, ty.bits / 8, 1, false)
  | .vlds h ty _ _ _ _ _ => some (h, ty.bits / 8, ty.bits / 8, true)
  | .vsts h ty _ _ _ _ _ => some (h, ty.bits / 8, ty.bits / 8, false)
  | .vgath h _ _ _ _ _ _ => some (h, 4, 4, true)
  | .vscat h _ _ _ _ _ _ => some (h, 4, 4, false)
  | _ => none

/-- The address that VLD and VST need aligned to 64 bytes; 0 for the other forms (R207). -/
def vmemStart (s : State) (i : Instr) : Word :=
  match i with
  | .vld _ _ _ _ base disp | .vst _ _ _ _ base disp => vmemBase s.tile.regs base disp
  | _ => 0

/-- A vector access as its rule gives it: its header, the width of its elements in bits, whether every check of R207 and R208 passes, its
accesses and the state it leaves. -/
def vmemRule (s : State) (i : Instr) : Option (Hdr × Bool × List FRange × State) :=
  let t := s.tile
  let es := vmemElems s i
  let reach (w al : Nat) : Bool := es.all fun e => decide (e.2.toNat % al = 0) && inProg t e.2.toNat (w / 8)
  let clean (w : Nat) : Bool := es.all fun e => (firstPoison t.mem e.2.toNat (w / 8)).isNone
  let load (h : Hdr) (w al : Nat) (d : Reg) (ok : Bool) : Option (Hdr × Bool × List FRange × State) :=
    some (h, ok && reach w al && clean w, elemsAccess (w / 8) false es, toV s 5 d (loadElems t.mem w es) s)
  let store (h : Hdr) (w al : Nat) (v : Reg) (ok : Bool) : Option (Hdr × Bool × List FRange × State) :=
    some (h, ok && reach w al, elemsAccess (w / 8) true es, onMem (storeElems w (readV t.regs v) es) s)
  match i with
  | .vld h ty _ d base disp => load h ty.bits 1 d ((vmemBase t.regs base disp).toNat % 64 == 0)
  | .vst h ty _ v base disp => store h ty.bits 1 v ((vmemBase t.regs base disp).toNat % 64 == 0)
  | .vlds h ty _ d _ _ _ => load h ty.bits (ty.bits / 8) d true
  | .vsts h ty _ v _ _ _ => store h ty.bits (ty.bits / 8) v true
  | .vgath h _ _ d _ _ _ => load h 32 4 d true
  | .vscat h _ _ v _ _ _ => store h 32 4 v true
  | _ => none

/-! ## Transfers (R74, R93 to R98) -/

/-- A taken transfer as its rule gives it: its header, whether R88, R93, R94 and R98 let it be taken, its target, and the state beside
the program counter. -/
def transferRule (s : State) (i : Instr) : Option (Hdr × Bool × Word × State) :=
  let t := s.tile
  let inBody (target : Word) : Bool :=
    match innermost t.ctl with
    | none => true
    | some l => (levelAddrs t t.ctl.loops[l]).contains target
  let target (disp : Word) : Word := t.ctl.pc + 8 * disp
  match i with
  | .br h disp => some (h, inBody (target (disp.signExtend 64)), target (disp.signExtend 64), s)
  | .brt h t0 t1 t2 t3 stride1 disp =>
    let g := target (disp.signExtend 64) + BitVec.ofNat 64 (32 * (brtIndex t [t0, t1, t2, t3] * (stride1.toNat + 1)))
    some (h, inBody g, g, s)
  | .bri h a => some (h, decide ((srcSa t.regs a).toNat % 8 = 0) && inBody (srcSa t.regs a), srcSa t.regs a, readS1 a s)
  | .call h disp =>
    some (h, (innermost t.ctl).isNone && decide (t.ctl.rstack.length < 8), target (disp.signExtend 64),
      onCtl (fun c => { c with rstack := nextPc t :: c.rstack }) s)
  | .ret h =>
    some (h, (innermost t.ctl).isNone && !t.ctl.rstack.isEmpty, t.ctl.rstack.headD 0, onCtl (fun c => { c with rstack := c.rstack.tail }) s)
  | .lbrk h level =>
    some (h, (levelOf t.ctl level.toNat).active, levelAfter t (levelOf t.ctl level.toNat), onCtl (breakLevels level.toNat) s)
  | _ => none

/-! ## What global, mailbox and engine instructions begin (R299, R302, R344 to R348, R398) -/

/-- The accesses of LDG, AMO and ACAS with their operands as read at issue (R344, R349). -/
def ldgOf (s : State) (w : Width) (o : Order) (d : Reg) (base : Src) (sd : ScopeDisp) : GAccess :=
  { kind := .ldg, va := globalAddr s.tile.regs base sd, width := w, order := o, scope := scopeOf sd, data := 0, dest := d }
def amoOf (s : State) (op : AmoOp) (w : Width) (o : Order) (sc : Scope) (d : Reg) (base : Src) (b : Reg) : GAccess :=
  { kind := .amo op, va := srcSa s.tile.regs base, width := w, order := o, scope := sc, data := readG s.tile.regs b, dest := d }
def acasOf (s : State) (w : Width) (o : Order) (sc : Scope) (d : Reg) (base : Src) (b : Reg) : GAccess :=
  { kind := .acas (readG s.tile.regs d), va := srcSa s.tile.regs base, width := w, order := o, scope := sc
    data := readG s.tile.regs b, dest := d }

/-- The tile held on an access. -/
def heldOn (a : GAccess) (s : State) : State := onCtl (fun c => { c with gacc := some a }) s

/-- The store-queue entries of STG, RED, MBXW and JDONE. -/
def stgEntry (s : State) (w : Width) (o : Order) (r : Reg) (base : Src) (sd : ScopeDisp) : SqEntry :=
  { kind := .stg, va := globalAddr s.tile.regs base sd, data := readG s.tile.regs r, width := w, order := o, scope := scopeOf sd }
def redEntry (s : State) (op : AmoOp) (w : Width) (o : Order) (sc : Scope) (base : Src) (b : Reg) : SqEntry :=
  { kind := .red op, va := srcSa s.tile.regs base, data := readG s.tile.regs b, width := w, order := o, scope := sc }
def mbxwEntry (s : State) (a : Src) (idx : BitVec 4) : SqEntry :=
  { kind := .mbxw idx, va := BitVec.ofNat 64 ((ownBind s).mbox + 512 + 8 * idx.toNat), data := srcSa s.tile.regs a, width := .w8
    order := .rel, scope := .system }
def jdoneEntry (raise : BitVec 32) : SqEntry :=
  { kind := .jdone raise, va := 0, data := 0, width := .w8, order := .rel, scope := .system }

/-- An entry at the end of the store queue. -/
def stored (e : SqEntry) (s : State) : State := onEng (fun g => { g with sq := g.sq ++ [e] }) s

/-- The copy job of a card at `a`, waiting in queue `q`. -/
def copyJobOf (s : State) (a : Word) (far : Word) (cpys : Bool) : CJob :=
  { card := cardAt s.tile a, far := far, cardAddr := a.toNat, cpys := cpys, serial := s.tile.eng.serial
    fp := cardRanges (cardAt s.tile a), behind := s.tile.eng.sq.length }

/-- The board job of a card at `a`, waiting in the port queue. -/
def boardJobOf (s : State) (a : Nat) (win : Window) (repair : Bool) : BJob :=
  { card := boardCard s.tile a, cardAddr := a, win := win, repair := repair, serial := s.tile.eng.serial
    fp := boardFp (boardCard s.tile a) a }

/-- The next engine job takes the next serial (R33). -/
def nextSerial (e : Eng) : Eng := { e with serial := e.serial + 1 }

/-- The monitor of a tile replaced. -/
def withMonitor (m : Option Monitor) (s : State) : State := onEng (fun g => { g with mon := m }) s

/-! ## The matrix engine (R223, R228 to R231, R249 to R252, R262) -/

/-- What PADD without an immediate adds (R228). -/
def padStep (c : MCallSnap) : PaddTgt → Int
  | .a => c.a.pstride
  | .b => c.b.pstride
  | .k => 1

/-- Where a panel load begins, how many bytes it takes, and the footprint range that must hold them. -/
def loadStart (r : MRun) (ofB : Bool) : Int := if ofB then r.bptr else r.aptr
def loadLen (c : MCallSnap) (ofB : Bool) : Nat := if ofB then 512 * c.pb else planeBytes c.a.sparse * c.pa
def loadRange (c : MCallSnap) (ofB : Bool) : FRange :=
  if ofB then panelRange c.b (callB c) (callNK c) else panelRange c.a (callA c) (callNK c)
def LoadInside (c : MCallSnap) (r : MRun) (ofB : Bool) : Prop :=
  ((loadRange c ofB).base : Int) ≤ loadStart r ofB
    ∧ loadStart r ofB + (loadLen c ofB : Int) ≤ ((loadRange c ofB).base : Int) + (loadRange c ofB).len

/-- The routine with a load of buffer `b` put on the matrix port. -/
def loadIssued (c : MCallSnap) (r : MRun) (ofB : Bool) (b : BitVec 1) : MRun :=
  setBuf ofB b { bufOf r ofB b with st := if !ofB && c.a.sparse != 0 then .packed else .loaded }
    { r with loads := r.loads ++ [(ofB, b, (loadStart r ofB).toNat, r.kb)] }

/-- Whether a STEP finds both its buffers loaded and arrived. -/
def StepReady (r : MRun) (a b : BitVec 1) : Prop :=
  loadPending r false a = false ∧ loadPending r true b = false ∧ (bufOf r false a).st = .loaded ∧ (bufOf r true b).st = .loaded

/-- The step sums with plane `j` of A added. -/
def stepSums (s : State) (c : MCallSnap) (r : MRun) (a b : BitVec 1) (sums : SMap Int) (j : Nat) : SMap Int :=
  let delta := r.mode == .delta
  stepPlane c (if delta then (entOf s.tile.eng (callEnt c)).d else c.pb) (delta || !c.b.u) (bufOf r false a) (bufOf r true b) j sums

/-- The shift of SHACC. -/
def accShift (s : State) (c : MCallSnap) (r : MRun) : Nat := if r.mode = .delta then (entOf s.tile.eng (callEnt c)).s else 0

/-- The counter an RPT arms. -/
def armCounter (ctr : BitVec 1) (k : Counter) (r : MRun) : MRun := if ctr == 0 then { r with l0 := some k } else { r with l1 := some k }

/-- Whether no scale block of a call is poisoned. -/
def scalesClean (m : TMem) (c : MCallSnap) : Bool :=
  (firstPoison m (scaleAddr c.a (128 * callMb c) (callG c)) 128).isNone
    && (firstPoison m (scaleAddr c.b (128 * callNb c) (callG c)) 128).isNone

/-- The matrix engine is free for job `j`, its oldest, whose edges are satisfied, and its gang is not to be discarded (R33, R219, R258, R260). -/
structure EngineTurn (s : State) (j : MEntry) (rest : List MEntry) : Prop where
  idle   : s.tile.eng.mrun = none
  kept   : discarding s = false
  casts  : s.tile.eng.bcasts = []
  oldest : s.tile.eng.mq = j :: rest
  edges  : edgesClear s.tile.eng j.serial j.fp = true

/-- The accumulators cleared. -/
def zeroAcc (s : State) : State := onMem (fun m => { m with acc := [] }) s

/-- The entry a CPBIND leaves (R247). -/
def boundEntry (vd : BitVec 8) (a b : Word) (e : CopEntry) : CopEntry :=
  let x := a.toNat
  { e with bound := true, layer := a.extractLsb' 48 16, n := if field x 47 40 = 0 then 64 else field x 47 40
           s := field x 34 32, d := field x 28 26 + 1, offset := field b.toNat 19 0, size := field b.toNat 51 32, vd := vd
           valid := false, count := 0, ovf := false, reason := 15, refused := false }

/-- The access of piece `j` of a save record at `b`. -/
def recordWrite (b : Word) (bytes : List Byte) (j : Nat) (s : State) : GOut :=
  gWrite (ownCluster s) s.tile.place.vd (b.toNat + 256 * j) ((bytes.drop (256 * j)).take 256) (ownHints s) s
def recordRead (b : Word) (j : Nat) (s : State) : GOut :=
  gRead (ownCluster s) s.tile.place.vd (b.toNat + 256 * j) 256 { ownHints s with counts := false } s

/-- A record's bytes, and whether a record read back is refused (R261, R262). -/
def savedBytes (t : Tile) (e : CopEntry) : List Byte := toBytes 256 (recordHeader e).toNat ++ readList t.mem.cpart e.offset e.size
def recordTaken (t : Tile) (e : CopEntry) (r : Nat) : Prop :=
  field r 7 0 = 1 ∧ field r 15 8 = t.place.vd.toNat ∧ field r 159 144 = e.layer.toNat ∧ field r 223 192 = e.size
    ∧ recordReserved r = false

/-! ## Commands (R447 to R449) -/

/-- A command that an interface carries out: not in ERROR, its completion word writable, well formed, from an issuer and in a state that
may give it; `s1` is the state once the word's address has been translated. -/
structure Heard (vd : BitVec 8) (c : Cmd) (masks : List (BitVec 64)) (zeroOnly : Bool) (s s1 : State) : Prop where
  live  : (getVd vd s).tstate ≠ .error
  word  : sysOk vd (cmdDone c) 16 false true s = (true, s1)
  fresh : cmdResult vd c s1 = none
  clean : cmdClean c masks = true
  may   : if zeroOnly then vd = 0 else (getVd vd s1).tstate ≠ .locked

/-- A command answered: it has left its queue and its completion word is written, or, while that write is held, it keeps its place with
its answer (R447, R467). -/
def answered (vd : BitVec 8) (c : Cmd) (status value : Nat) (t : State) : State := cmdFinish vd c status value t

/-- What RETIRE, CLOSE, SUBMIT, MBOXW and SESSION leave of a device or its memory. -/
def retireIn (h : BitVec 32) (v : VDev) : VDev :=
  { v with images := v.images.map fun i => if i.handle = h then { i with retired := true } else i }
def closeIn (n : BitVec 16) (v : VDev) : VDev :=
  { v with streams := (v.streams.map fun st => if st.num = n then { st with closed := true } else st).filter fun st =>
      !(st.closed && st.jobs.isEmpty) }
def submitTo (n : BitVec 16) (time : Word) (j : Job) (v : VDev) : VDev :=
  { v with
    genCtr := v.genCtr + 1
    streams := v.streams.map fun x => if x.num = n then pruneJobs time { x with jobs := x.jobs ++ [j] } else x }
def defineIn (time : Word) (c : Cmd) (v : VDev) : VDev :=
  { v with
    sessGen := v.sessGen + 1
    sess := v.sess ++ [{ id := c.q2.extractLsb' 0 32, base := c.q3.toNat, bytes := c.q4.toNat, age := field c.q5.toNat 31 0
                         gen := v.sessGen, since := time }] }
/-- The write of a mailbox word in memory, and the tiles' copies after it. -/
def mailWrite (vd : BitVec 8) (k : Nat) (n : BitVec 6) (x : Word) (t : State) : Bool × State :=
  sysWrite vd ((getBind k t).mbox + 8 * n.toNat) (toBytes 8 x.toNat) true t
def mailCopied (k : Nat) (n : BitVec 6) (x : Word) (u : State) : State := overTiles (heldTiles k u) (mboxTile n x) u

/-- A job after one more span of waiting (R390). -/
def agedJob (j : Job) (n : Nat) (j' : Job) : Job :=
  { j' with
    waited := if j.waited + 1 = 16 then 0 else j.waited + 1
    prio := if j.waited + 1 = 16 then min 7 (j.prio + 1) else j.prio
    agedAt := j'.agedAt + BitVec.ofNat 64 n }

/-- The record of a slice that has ended, and one begun anew (R390, R392). -/
def sliceDone (slot : Nat) (s : State) : State := modBind slot (fun b => { b with prio := b.base }) s
def sliceRenewed (slot : Nat) (s : State) : State := modBind slot (fun b => { b with start := s.mod.time, runc := 0, yielded := false }) (sliceDone slot s)

/-- What the clusters of a stopped gang choose (R424). -/
def choices (slot : Nat) (s : State) : List (List Nat × Choice) :=
  let b := getBind slot s
  (clusterIdx b).map fun js => (js, choose b (allowance b s.mod.time) s (js.map (tileOf b)))
def lapNoted (slot : Nat) (s : State) : State :=
  modBind slot (fun b => { b with lapAt := lapOf s.flume (tileAt (getBind slot s) 0 0) }) s

/-! ## Numbers as rationals (R139, R140, R143, R144, R146) -/

/-- The rational that an exact real stands for. -/
def exactly (x : XReal) : ℚ := (x.num : ℚ) / x.den * (2 : ℚ) ^ x.e

/-- The rational of a finite datum; 0 for the others. -/
def datum (v : FVal) : ℚ :=
  match v with
  | .fin neg m e => (if neg then -1 else 1) * (m : ℚ) * (2 : ℚ) ^ e
  | _ => 0

/-- The sign, exponent and fraction fields of an encoding (R139). -/
def signField (f : Fmt) (x : Nat) : Nat := x / 2 ^ (f.ew + f.mw) % 2
def expField (f : Fmt) (x : Nat) : Nat := x / 2 ^ f.mw % 2 ^ f.ew
def fracField (f : Fmt) (x : Nat) : Nat := x % 2 ^ f.mw

/-- An encoding of the format, and one of a finite number (R140). -/
def Encoding (f : Fmt) (x : Nat) : Prop := x < 2 ^ (1 + f.ew + f.mw)
def Finite (f : Fmt) (x : Nat) : Prop := Encoding f x ∧ expField f x ≠ 2 ^ f.ew - 1

/-- The number that a finite encoding stands for (R139). -/
def encoded (f : Fmt) (x : Nat) : ℚ :=
  (if signField f x = 1 then -1 else 1) *
    (if expField f x = 0 then (fracField f x : ℚ) * (2 : ℚ) ^ (f.emin - f.mw)
     else (2 ^ f.mw + fracField f x : ℚ) * (2 : ℚ) ^ ((expField f x : Int) - f.bias - f.mw))

/-- The largest finite number and the smallest normal one (R139). -/
def largest (f : Fmt) : ℚ := (2 - (2 : ℚ) ^ (-(f.mw : Int))) * (2 : ℚ) ^ f.bias
def smallest (f : Fmt) : ℚ := (2 : ℚ) ^ f.emin

/-- Whether a mode rounds a number of this sign away from zero. -/
def outward (rnd : Rnd) (q : ℚ) : Prop := (rnd = .rdn ∧ q < 0) ∨ (rnd = .rup ∧ 0 < q)

/-- Whether `q`, rounded in a mode with an unbounded exponent, exceeds the largest finite number (R143). -/
def Overflows (f : Fmt) (rnd : Rnd) (q : ℚ) : Prop :=
  (rnd = .rne ∧ (2 - (2 : ℚ) ^ (-(f.mw : Int) - 1)) * (2 : ℚ) ^ f.bias ≤ |q|) ∨ (outward rnd q ∧ largest f < |q|)
    ∨ (rnd ≠ .rne ∧ ¬ outward rnd q ∧ (2 : ℚ) ^ (f.bias + 1) ≤ |q|)

/-- Whether `q`, so rounded, is below the smallest normal number (R144). -/
def Tiny (f : Fmt) (rnd : Rnd) (q : ℚ) : Prop :=
  (rnd = .rne ∧ |q| < smallest f - (2 : ℚ) ^ (f.emin - f.mw - 2)) ∨ (outward rnd q ∧ |q| ≤ smallest f - (2 : ℚ) ^ (f.emin - f.mw - 1))
    ∨ (rnd ≠ .rne ∧ ¬ outward rnd q ∧ |q| < smallest f)

/-- `x` is the finite number of the format that a mode takes for `q`, with the sign of `q` (R51, R143). -/
def Rounded (f : Fmt) (rnd : Rnd) (q : ℚ) (x : Nat) : Prop :=
  Finite f x ∧ (signField f x = 1 ↔ q < 0) ∧ ∀ y, Finite f y →
    match rnd with
    | .rne => |encoded f x - q| < |encoded f y - q| ∨ encoded f y = encoded f x
        ∨ (|encoded f x - q| = |encoded f y - q| ∧ x % 2 = 0)
    | .rtz => |encoded f x| ≤ |q| ∧ (0 ≤ encoded f y * q → |encoded f y| ≤ |q| → |encoded f y| ≤ |encoded f x|)
    | .rdn => encoded f x ≤ q ∧ (encoded f y ≤ q → encoded f y ≤ encoded f x)
    | .rup => q ≤ encoded f x ∧ (q ≤ encoded f y → encoded f x ≤ encoded f y)

/-- The integer that a mode takes for `q` (R51, R146). -/
def toInteger (rnd : Rnd) (q : ℚ) : Int :=
  match rnd with
  | .rne => if q - ⌊q⌋ < 1 / 2 then ⌊q⌋ else if 1 / 2 < q - ⌊q⌋ then ⌊q⌋ + 1 else if ⌊q⌋ % 2 = 0 then ⌊q⌋ else ⌊q⌋ + 1
  | .rtz => if q < 0 then ⌈q⌉ else ⌊q⌋
  | .rdn => ⌊q⌋
  | .rup => ⌈q⌉

/-- The result of a float operation whose exact value is `q`: the one rounding of it, an exact zero with the sign `zneg` (R143). -/
def RoundsTo (f : Fmt) (ftz : Bool) (rnd : Rnd) (zneg : Bool) (q : ℚ) (r : Flagged Nat) : Prop :=
  ∃ x : XReal, 0 < x.den ∧ exactly x = q ∧ r = roundF f ftz rnd zneg x

/-- The sign of an exact zero sum of `a` and `b` (R143). -/
def sumSign (rnd : Rnd) (m n : Nat) (a b : Bool) : Bool := if m = 0 ∧ n = 0 ∧ a = b then a else decide (rnd = .rdn)

/-- A quotient converted to an integer type (R146). -/
def ConvertsTo (ty : ElemTy) (rnd : Rnd) (q : ℚ) (r : Flagged Nat) : Prop :=
  let n := toInteger rnd q
  r = if n < tyMin ty then (wrapN ty.bits (tyMin ty), fNv) else if tyMax ty < n then (wrapN ty.bits (tyMax ty), fNv)
    else (wrapN ty.bits n, if (n : ℚ) = q then 0 else fNx)

/-- An overflow under the saturate bit of TLI (R161). -/
def Saturated (f : Fmt) (sat : Bool) (r r' : Flagged Nat) : Prop :=
  r'.2 = r.2 ∧ (r'.1 = if sat = true ∧ r.2.getLsbD 2 = true ∧ expField f r.1 = 2 ^ f.ew - 1 then f.maxBits (signField f r.1 = 1) else r.1)

/-! ## Frames -/

/-- What only a landing result, a special-register write or a matrix parameter write changes of the registers: every file, the M latches
and the float control. -/
def files (r : Regs) : Regs := { r with sa := 0, sb := 0, va := 0, vb := 0, vc := 0, rbVb := 0, rbPb := 0, inflight := [] }

/-- The control state that neither the program counter nor a counted cycle moves. -/
def keptCtl (c : Ctl) : Ctl :=
  { c with pc := 0, loops := Vector.replicate 6 {}, loopBuf := [], filled := false, bankLeft := none, wdog := 0, barOpen := false
           waitT0 := none, waitRead := false, waitDue := none, waitOut := false, portHeld := none
           gacc := c.gacc.map fun a => { a with lost := false } }

/-- Syllables that change the memories of their tile. -/
def storesTile (i : Instr) : Bool :=
  match i with
  | .stp .. | .sts .. | .vstp .. | .vst .. | .vsts .. | .vscat .. | .swinit .. | .swadd .. | .tld .. | .mzr .. | .mwr .. => true
  | _ => false

/-- The scratchpad ranges and the spill range that a storing syllable stores to. -/
def storedSpad (s : State) (i : Instr) : List FRange :=
  match i with
  | .sts _ w _ base disp => [acc (spadAddr s.tile.regs base disp).toNat (Width.size w) true]
  | .vst _ ty _ _ _ _ => elemsAccess (ty.bits / 8) true (vmemElems s i)
  | .vsts _ ty _ _ _ _ _ => elemsAccess (ty.bits / 8) true (vmemElems s i)
  | .vscat _ _ _ _ _ _ _ => elemsAccess 4 true (vmemElems s i)
  | .swinit _ c _ | .swadd _ c _ => [acc (readG s.tile.regs c).toNat 16 true]
  | _ => []
def storedSpill (i : Instr) : Option (Nat × Nat) :=
  match i with
  | .stp _ w _ disp => some (disp.toNat, Width.size w)
  | .vstp _ _ page => some (256 * page.toNat, 256)
  | _ => none

/-- Whether address `a` lies outside every range. -/
def Outside (rs : List FRange) (a : Nat) : Prop := ∀ r ∈ rs, a < r.base ∨ r.base + r.len ≤ a

end Sys2Proof.Safety
end

