-- ==== Sys2Proof/Certificates/Slice0/Obligations.lean ====
section
/-! DEFINITION. The statements for the provers. Each docstring names the rules of spec/ it formalises, or the log entry of notes/assumptions
where it rests on a choice of the model. -/

open Sys2Proof Sys2Proof.Machine Sys2Proof.Safety

/-! ## Encoding -/

/-- R50, R53, R226: words written out field by field from the encoding tables decode to the instructions they stand for. -/
def Obligations.WordsDecodeToTheirInstructions : Prop :=
  decodeSyllable 0x800D883117FFFFFD = .ok (.cmpi ⟨true, false, 0⟩ .lt 4 5 ⟨6, false⟩ 0x3FFFFFD)
    ∧ decodeSyllable 0x800F900280000106 = .ok (.ldp ⟨true, false, 0⟩ .s2 8 0x106)
    ∧ decodeSyllable 0xA02FA8AACB80C002 =
      .ok (.scacc ⟨true, false, 0⟩ .i40 .rne 0 2 20 ⟨21, false⟩ ⟨22, false⟩ ⟨23, false⟩)
    ∧ decodeSyllable 0xC0400003FE000000 = .ok (.mcall ⟨true, false, 0⟩ 0 7 7 7)
    ∧ decodeSyllable 0xE061180050000000 = .ok (.board ⟨true, false, 0⟩ .wait true 12)
    ∧ decodeMicro 0x4800000B = some (.zgt 11)
    ∧ decodeMicro 0x42070000 = some (.rpt 0 8 7)

/-- R39, R42, R50 to R54: every well-formed syllable decodes from the word that encodes it, with every operand; and a bundle of them, in rising slot
classes, with the stop bit on its last alone and pp on its first at most, decodes to them, syllable by syllable, whatever follows it. -/
def Obligations.EverySyllableDecodesFromItsWord : Prop :=
  (∀ (i : Instr) (w : Word), wellFormed i = true → encodeSyllable i = some w → decodeSyllable w = .ok i)
    ∧ ∀ (is : List Instr) (os : List SlotOp) (ws : List Word),
        is.Forall₂ (fun i w => wellFormed i = true ∧ encodeSyllable i = some w) ws → is.Forall₂ (fun i o => slotOp i = some o) os →
        os.Pairwise (fun a b => a.slot < b.slot) → (os.tail.all fun o => !o.hdr.pp) = true →
        os.map (·.hdr.stop) = List.replicate (os.length - 1) false ++ [true] →
        decodeBundle ws = .ok is ∧ ∀ (get : Word → Fetched) (a : Word),
          (∀ k, ∀ h : k < ws.length, get (a + BitVec.ofNat 64 (8 * k)) = .word ws[k]) → fetchWords get 4 a = .ok ws

/-- R39, R50 to R54: no two words stand for one syllable, and reserved bits are refused: a word that decodes is the encoding of what it decodes to, and
that is well formed; the instructions that issue are those with an encoding. -/
def Obligations.AWordHasOneMeaning : Prop :=
  (∀ (w : Word) (i : Instr), decodeSyllable w = .ok i → wellFormed i = true ∧ encodeSyllable i = some w)
    ∧ ∀ i : Instr, (slotOp i).isSome = (encodeSyllable i).isSome

/-- R226: every well-formed micro-op decodes from the word that encodes it, and a word decodes to no other micro-op; the immediate of a PADD without
one is not read (log entry 13). -/
def Obligations.EveryMicroOpDecodesFromItsWord : Prop :=
  (∀ (i : Instr) (w : BitVec 32), wellFormed i = true → encodeMicro i = some w → decodeMicro w = some i)
    ∧ ∀ (i : Instr) (w : BitVec 32), decodeMicro w = some i → wellFormed i = true ∧ ((∀ t, i ≠ .padd t) → encodeMicro i = some w)

/-! ## Issue -/

/-- R40: a syllable whose guard predicate is false at issue writes nothing, starts nothing, raises no fault and refreshes no latch: its bundle only
passes, whatever else the syllable is. It is still decoded: a bundle that does not decode raises ILLEGAL whatever its guards are. -/
def Obligations.FalseGuardMakesASyllablePass : Prop :=
  (∀ (i : Instr) (o : SlotOp) (s : State), slotOp i = some o → readP s.tile o.hdr.guard = false →
    interlocked s.tile.regs = false → s.tile.ctl.bankLeft = none → exec i s = .next (issued o.hdr o.point s s))
    ∧ ∀ (s : State) (ws : List Word), innermost s.tile.ctl = none → fetchBundle s.tile s.tile.ctl.pc = .ok ws →
      (∀ is, decodeBundle ws ≠ .ok is) → (bundleFetch s).tile.ctl.fltcode = 0x01 ∧ (bundleFetch s).tile.ctl.fltaddr = s.tile.ctl.pc

/-- R11, R44, R49, R86, R105: a general register reads as before until the declared latency of its result, and has its value from then on; where the FK9 is
slower, the tile is interlocked then. g0 reads zero, p0 true and k0 all ones, and results for g0, p0, p1, p2 and k0 are discarded; of two results
that land together in one general register the one from the higher slot class is kept. -/
def Obligations.ResultsLandAtTheDeclaredLatency : Prop :=
  (∀ (s : State) (cls n : Nat) (d : Reg) (v : Word), s.tile.regs.inflight = [] → d ≠ 0 → 0 < declared s.tile cls →
      let r := countCycle^[n] (toG 0 cls d v s).tile.regs
      (n < declared s.tile cls → interlocked r = false ∧ readG (landDue r) d = readG s.tile.regs d)
        ∧ (n = declared s.tile cls → fk9Cycles cls ≤ n → readG (landDue r) d = v)
        ∧ (n = declared s.tile cls → n < fk9Cycles cls → interlocked r = true))
    ∧ ∀ (t : Tile) (r : Regs) (p q : Pending) (d : Reg) (v w : Word) (c : Bool) (m x : Mask),
      readG r 0 = 0 ∧ readP t 0 = true ∧ readK r 0 = BitVec.allOnes 256
        ∧ applyResult (.g 0 v) r = r ∧ applyResult (.k 0 m x) r = r
        ∧ (∀ a b : BitVec 5, a.toNat < 3 → b.toNat < 3 → (applyResult (.pair a b c) r).p = r.p)
        ∧ (r.inflight = [p, q] ∨ r.inflight = [q, p] → isDue p = true → isDue q = true →
          p.res = .g d v → q.res = .g d w → p.slot < q.slot → q.slot ≤ 3 → readG (landDue r) d = if d = 0 then 0 else w)

/-- R24, R25, R34, R49, R80, R196: a bundle is held while a result's declared latency has expired and it is not ready; one whose accesses conflict in the
banks is held for the extra cycles and counts them down; a store over any range of a job in flight, and a load over a write range, hold the
bundle. Nothing else than the watchdog, the count of the conflict and the results in flight moves. That the watchdog counts a cycle of an interlock whatever
else holds the bundle is log entry 80. -/
def Obligations.HoldsKeepTheBundle : Prop :=
  ∀ (i : Instr) (o : SlotOp) (s : State), slotOp i = some o →
    (interlocked s.tile.regs = true →
      exec i s = .next (heldCounted s)
        ∧ (heldCounted s).tile.ctl = { s.tile.ctl with wdog := s.tile.ctl.wdog + 1 }
        ∧ (heldCounted s).tile.regs = heldCycle s.tile.regs)
      ∧ (heldCycle s.tile.regs = { s.tile.regs with inflight := (heldCycle s.tile.regs).inflight })
      ∧ (readP s.tile o.hdr.guard = true → interlocked s.tile.regs = false → o.fault5 s = none →
        (o.fpHeld s = false → o.wait s = false → 0 < s.tile.ctl.bankLeft.getD (bankHold (o.access s)) →
          ∃ t, exec i s = .next t ∧ t.tile.ctl.bankLeft = some (s.tile.ctl.bankLeft.getD (bankHold (o.access s)) - 1)
            ∧ t.tile.ctl.pc = s.tile.ctl.pc ∧ t.tile.mem = s.tile.mem ∧ t.tile.eng = s.tile.eng ∧ t.tile.regs = heldCycle s.tile.regs)
          ∧ (s.tile.ctl.bankLeft = none → (o.access s).any (timedHeld s.tile.eng) = true →
            exec i s = .next (heldHaltable s) ∧ (heldHaltable s).tile.mem = s.tile.mem ∧ (heldHaltable s).tile.ctl.pc = s.tile.ctl.pc
              ∧ (heldHaltable s).tile.eng = s.tile.eng ∧ (heldHaltable s).tile.regs = heldCycle s.tile.regs))

/-! ## Scalar and vector results -/

/-- R111, R117 to R132: every scalar instruction that writes a general register, and every compare and predicate operation, which writes a pair
whose second is the complement of the first, has the effect its table row gives. -/
def Obligations.ScalarResults : Prop :=
  ∀ (s : State) (i : Instr) (h : Hdr) (t : State), scalarRule s i = some (h, t) ∨ pairRule s i = some (h, t) → Ready h [] s →
    exec i s = .next (issued h false s t)

/-- R123, R125, R126: quotient and remainder of a division that neither divides by zero nor overflows, and both corners; what CLZ and POPC count, and the bits
that INS changes. R129, R240, R313: what the conditions of a compare ask, and the fields of MSTAT and CSTAT. -/
def Obligations.ScalarArithmeticLaws : Prop :=
  ∀ (a b : Word) (pos len1 : BitVec 6) (t : Tile) (q : BitVec 2),
    (b ≠ 0 → ¬(a = BitVec.intMin 64 ∧ b = BitVec.allOnes 64) →
      (divValue .s a b).toInt * b.toInt + (divValue .rems a b).toInt = a.toInt
        ∧ (divValue .rems a b).toInt.natAbs < b.toInt.natAbs ∧ 0 ≤ (divValue .rems a b).toInt * a.toInt)
      ∧ (b ≠ 0 → (divValue .u a b).toNat * b.toNat + (divValue .remu a b).toNat = a.toNat ∧ (divValue .remu a b).toNat < b.toNat)
      ∧ (b = 0 → divValue .s a b = BitVec.allOnes 64 ∧ divValue .u a b = BitVec.allOnes 64 ∧ divValue .rems a b = a
          ∧ divValue .remu a b = a)
      ∧ (a = BitVec.intMin 64 → b = BitVec.allOnes 64 → divValue .s a b = a ∧ divValue .rems a b = 0)
      ∧ (∀ j, 64 - clzNat 64 a.toNat ≤ j → a.getLsbD j = false) ∧ (a ≠ 0 → a.getLsbD (63 - clzNat 64 a.toNat) = true)
      ∧ popNat 64 a.toNat = ((List.range 64).filter fun j => a.getLsbD j).length
      ∧ (fieldOk pos len1 = true → ∀ j, j < 64 → (insValue pos len1 a b).getLsbD j =
          if pos.toNat ≤ j ∧ j < pos.toNat + len1.toNat + 1 then a.getLsbD (j - pos.toNat) else b.getLsbD j)
      ∧ (condHolds .eq a b = decide (a = b) ∧ condHolds .ne a b = decide (a ≠ b) ∧ condHolds .lt a b = decide (a.toInt < b.toInt)
        ∧ condHolds .le a b = decide (a.toInt ≤ b.toInt) ∧ condHolds .gt a b = decide (b.toInt < a.toInt)
        ∧ condHolds .ge a b = decide (b.toInt ≤ a.toInt) ∧ condHolds .ltu a b = decide (a.toNat < b.toNat)
        ∧ condHolds .geu a b = decide (b.toNat ≤ a.toNat))
      ∧ (t.eng.mq.length ≤ 4 → (mstatValue t).toNat = t.eng.mftag.toNat * 2 ^ 24 + t.eng.mfcause.toNat * 2 ^ 16 + t.eng.mq.length * 2 ^ 8
          + t.eng.mfault.toNat * 4 + (mRuns t.eng).toNat * 2 + t.mem.aovf.toNat)
      ∧ (let js := queueOf t q
         js.length ≤ 16 → (cstatValue t.eng q).toNat = (t.eng.cftag[q.toNat]'q.isLt).toNat * 2 ^ 32
          + (t.eng.cfcause[q.toNat]'q.isLt).toNat * 2 ^ 24 + (t.eng.cfault.getLsbD q.toNat).toNat * 64
          + (js.any (·.st != .waiting)).toNat * 32 + js.length)

/-- R170, R171, R175, R177, R178: every lane-wise integer instruction writes the lanes its rule gives. -/
def Obligations.IntegerLaneResults : Prop :=
  ∀ (s : State) (i : Instr) (h : Hdr) (t : State), laneRule s i = some (h, t) → Ready h [] s → exec i s = .next (issued h false s t)

/-- R164, R184: with z = 0 inactive lanes keep what the register holds, with z = 1 they become zero; active lanes take the result. PLN puts bit P−1−j of each
lane into plane j, and UPL of P planes gives back the low P bits of every lane, sign-extended unless unsigned. -/
def Obligations.LanesMergeAndPlanesJoin : Prop :=
  (∀ (w n : Nat) (k : Mask) (z : Bool) (f : Nat → Flagged Nat) (old : VWord) (i : Nat), 0 < w → w * n ≤ 2048 → i < n →
    let o := lanesOut w n k z false f
    laneN ((old &&& ~~~o.mask) ||| (o.val &&& o.mask)).toNat i w =
      if k.getLsbD i then (f i).1 % 2 ^ w else if z then 0 else laneN old.toNat i w)
    ∧ ∀ (ty : ElemTy) (p1 : BitVec 3) (x : VWord), ty.isInt = true →
      (∀ j i, i < lanesOf ty.bits →
        (plnValue ty p1 x).getLsbD (j * lanesOf ty.bits + i) =
          (decide (j ≤ p1.toNat) && x.getLsbD (i * ty.bits + (p1.toNat - j))))
        ∧ ∀ i, i < lanesOf ty.bits → laneN (uplValue ty p1 true (plnValue ty p1 x)).toNat i ty.bits =
            laneN x.toNat i ty.bits % 2 ^ (p1.toNat + 1)
          ∧ laneN (uplValue ty p1 false (plnValue ty p1 x)).toNat i ty.bits =
            wrapN ty.bits (sextN (p1.toNat + 1) (laneN x.toNat i ty.bits))

/-- R172 to R189, R209: every other vector instruction on registers, the table store and spill memory has the effect its rule gives. -/
def Obligations.VectorResults : Prop :=
  ∀ (s : State) (i : Instr) (h : Hdr) (t : State), vectorRule s i = some (h, t) → Ready h [] s → exec i s = .next (issued h false s t)

/-- R139, R140, R142 to R144: an encoding stands for the number, infinity or NaN its fields say, a subnormal for zero under ftz; a rounding takes
the number of the format that its mode takes, with the sign of the exact result, and raises inexact and underflow as they are defined; an
overflow writes what its mode writes; under ftz a tiny result is flushed. An exact zero has the sign it is given. -/
def Obligations.RoundingIsCorrect : Prop :=
  ∀ f ∈ [fmtOf .bf16, fmtOf .fp16, fp32], ∀ (b : Nat) (rnd : Rnd) (zneg z : Bool) (x : XReal),
    (Encoding f b → decodeF f true b = (if expField f b = 0 then .fin (decide (signField f b = 1)) 0 0 else decodeF f false b)
        ∧ match decodeF f false b with
          | .nan s => expField f b = 2 ^ f.ew - 1 ∧ fracField f b ≠ 0 ∧ (s = true ↔ fracField f b < 2 ^ (f.mw - 1))
          | .inf n => expField f b = 2 ^ f.ew - 1 ∧ fracField f b = 0 ∧ (n = true ↔ signField f b = 1)
          | .fin n m e => expField f b ≠ 2 ^ f.ew - 1 ∧ (n = true ↔ signField f b = 1) ∧ datum (.fin n m e) = encoded f b)
      ∧ (0 < x.den →
        let q := exactly x
        let r := roundF f false rnd zneg x
        (q = 0 → roundF f z rnd zneg x = (f.signBit zneg, 0))
          ∧ (q ≠ 0 → Overflows f rnd q → roundF f z rnd zneg x =
              (if rnd = .rtz ∨ (rnd = .rdn ∧ 0 < q) ∨ (rnd = .rup ∧ q < 0) then f.maxBits (decide (q < 0)) else f.infBits (decide (q < 0)),
                fOf ||| fNx))
          ∧ (q ≠ 0 → ¬ Overflows f rnd q → Rounded f rnd q r.1 ∧ (encoded f r.1 = q → r.2 = 0)
              ∧ (encoded f r.1 ≠ q → Tiny f rnd q → r.2 = fUf ||| fNx) ∧ (encoded f r.1 ≠ q → ¬ Tiny f rnd q → r.2 = fNx))
          ∧ (q ≠ 0 → (Tiny f rnd q → roundF f true rnd zneg x = (f.signBit (decide (q < 0)), fUf ||| fNx))
              ∧ (¬ Tiny f rnd q → roundF f true rnd zneg x = r)))

/-- R141, R143, R144, R173, R180: sums, products, fused products and quotients of finite numbers are their exact results rounded once; infinities, zero
divisors and NaNs give what the table of special values says; compares order numbers, and minimum and maximum take one of them; VFRND gives the
integer its mode takes. -/
def Obligations.FloatOperationsRoundExactResults : Prop :=
  ∀ (f : Fmt) (z : Bool) (rnd : Rnd) (a b c : Bool) (m n k : Nat) (e d g : Int) (u v w : FVal),
    let x := FVal.fin a m e
    let y := FVal.fin b n d
    let t := FVal.fin c k g
    let invalid : Flagged Nat := (f.nan, fNv)
    RoundsTo f z rnd (sumSign rnd m n a b) (datum x + datum y) (fAdd f z rnd x y)
      ∧ RoundsTo f z rnd (a != b) (datum x * datum y) (fMul f z rnd x y)
      ∧ RoundsTo f z rnd (sumSign rnd (m * n) k (a != b) c) (datum x * datum y + datum t) (fFma f z rnd x y t)
      ∧ (n ≠ 0 → RoundsTo f z rnd (a != b) (datum x / datum y) (fDiv f z rnd x y))
      ∧ (n = 0 → fDiv f z rnd x y = (if m = 0 then invalid else (f.infBits (a != b), fDz)))
      ∧ fAdd f z rnd (.inf a) (.inf b) = (if a = b then (f.infBits a, 0) else invalid)
      ∧ fAdd f z rnd (.inf a) y = (f.infBits a, 0) ∧ fAdd f z rnd x (.inf b) = (f.infBits b, 0)
      ∧ fMul f z rnd (.inf a) (.inf b) = (f.infBits (a != b), 0)
      ∧ fMul f z rnd (.inf a) y = (if n = 0 then invalid else (f.infBits (a != b), 0))
      ∧ fMul f z rnd x (.inf b) = (if m = 0 then invalid else (f.infBits (a != b), 0))
      ∧ fDiv f z rnd (.inf a) (.inf b) = invalid ∧ fDiv f z rnd (.inf a) y = (f.infBits (a != b), 0)
      ∧ fDiv f z rnd x (.inf b) = (f.signBit (a != b), 0)
      ∧ (n = 0 → fFma f z rnd (.inf a) y w = invalid ∧ fFma f z rnd y (.inf a) w = invalid)
      ∧ (isNan w = false → fFma f z rnd (.inf a) (.inf b) w = fAdd f z rnd (.inf (a != b)) w
        ∧ (n ≠ 0 → fFma f z rnd (.inf a) y w = fAdd f z rnd (.inf (a != b)) w ∧ fFma f z rnd y (.inf a) w = fAdd f z rnd (.inf (b != a)) w))
      ∧ fFma f z rnd x y (.inf c) = (f.infBits c, 0)
      ∧ (isNan u = true ∨ isNan v = true → let r : Flagged Nat := (f.nan, if isSig u || isSig v then fNv else 0)
          fAdd f z rnd u v = r ∧ fMul f z rnd u v = r ∧ fDiv f z rnd u v = r)
      ∧ (isNan w = true → fFma f z rnd x y w = (f.nan, if isSig w then fNv else 0)
        ∧ fFma f z rnd w x y = (f.nan, if isSig w then fNv else 0) ∧ fFma f z rnd x w y = (f.nan, if isSig w then fNv else 0))
      ∧ (∀ p ∈ [(FCond.eq, decide (datum x = datum y)), (.ne, decide (datum x ≠ datum y)), (.lt, decide (datum x < datum y)),
            (.le, decide (datum x ≤ datum y)), (.gt, decide (datum y < datum x)), (.ge, decide (datum y ≤ datum x)), (.unord, false)],
          fCmp p.1 x y = (p.2, 0))
      ∧ (isNan u = true ∨ isNan v = true →
          let sig := isSig u || isSig v
          (∀ p ∈ [(FCond.eq, false), (.ne, true), (.unord, true)], fCmp p.1 u v = (p.2, if sig then fNv else 0))
            ∧ ∀ p ∈ [FCond.lt, .le, .gt, .ge], fCmp p u v = (false, fNv))
      ∧ (datum x < datum y → fMinMax f true x y = (encodeF f x, 0) ∧ fMinMax f false x y = (encodeF f y, 0)
        ∧ fMinMax f true y x = (encodeF f x, 0) ∧ fMinMax f false y x = (encodeF f y, 0))
      ∧ (let lo : FVal := .fin true 0 e
         let hi : FVal := .fin false 0 d
         fMinMax f true lo hi = (encodeF f lo, 0) ∧ fMinMax f false lo hi = (encodeF f hi, 0) ∧ fMinMax f true hi lo = (encodeF f lo, 0))
      ∧ (∀ s, fMinMax f s (.nan false) x = (encodeF f x, 0) ∧ fMinMax f s x (.nan false) = (encodeF f x, 0)
        ∧ fMinMax f s (.nan false) (.nan false) = (f.nan, 0) ∧ fMinMax f s (.nan true) v = invalid ∧ fMinMax f s v (.nan true) = invalid)
      ∧ (f ∈ [fmtOf .bf16, fmtOf .fp16, fp32] → ∀ i, Finite f i →
          let r := fRound f rnd (decodeF f false i)
          encodeF f (decodeF f false i) = i ∧ r.2 = 0 ∧ encoded f r.1 = toInteger rnd (encoded f i) ∧ signField f r.1 = signField f i)

/-! ## Spill memory and scratchpad -/

/-- R116, R134, R135, R188: aligned spill accesses load and store little-endian; TLD, which loads whole 64-byte blocks, of a header that passes its checks loads the entries and the header, and
otherwise raises the first of its faults: ALIGN and SPAD of the header, then POISON of it, ILLEGAL, and SPAD and POISON of the entries. -/
def Obligations.SpillAndTableAccesses : Prop :=
  ∀ (s : State) (h : Hdr) (w : Width) (r base : Reg) (disp : BitVec 14) (n : BitVec 2) (td : BitVec 22),
    (Ready h [] s → disp.toNat % Width.size w = 0 →
      exec (.ldp h w r disp) s =
          .next (issued h false s (toG 0 10 r (extend w (readB s.tile.mem.spill disp.toNat (Width.size w))) s))
        ∧ exec (.stp h w r disp) s =
          .next (issued h false s (onMem (fun m =>
            { m with spill := writeB disp.toNat (Width.size w) (readG s.tile.regs r).toNat m.spill }) s)))
      ∧ (let a := vmemBase s.tile.regs base td
         let hd := tldHeader s.tile.mem a.toNat
         let len := 16 + 8 * tldCount hd
         let blocks := [acc a.toNat (min (tldSpan hd) (progEnd s.tile - a.toNat)) false]
         len ≤ tldSpan hd ∧ tldSpan hd % 64 = 0 ∧ tldSpan hd < len + 64
        ∧ (Ready h blocks s → InReach s.tile a len 64 → firstPoison s.tile.mem a.toNat len = none → tldBad hd = false →
          exec (.tld h n base td) s = .next (issued h false s (onMem (tableLoaded n a.toNat hd) s)))
        ∧ (Judged h s → (a.toNat % 64 ≠ 0 → Takes (addrFault 0x04 a 0 0) (.tld h n base td) s)
          ∧ (a.toNat % 64 = 0 → progEnd s.tile < a.toNat + 16 → Takes (beyond s.tile a 0) (.tld h n base td) s))
        ∧ (Ready h blocks s → InReach s.tile a 16 64 →
          (∀ b, firstPoison s.tile.mem a.toNat 16 = some b → Takes (poisonAt b) (.tld h n base td) s)
          ∧ (firstPoison s.tile.mem a.toNat 16 = none →
            (tldBad hd = true → Takes (illegal s) (.tld h n base td) s)
            ∧ (tldBad hd = false → progEnd s.tile < a.toNat + len → Takes (beyond s.tile (a + 16) 0) (.tld h n base td) s)
            ∧ ∀ b, tldBad hd = false → a.toNat + len ≤ progEnd s.tile → firstPoison s.tile.mem (a.toNat + 16) (8 * tldCount hd) = some b →
              Takes (poisonAt b) (.tld h n base td) s)))

/-- R34, R192, R205, R290: LDS and STS inside the program area, aligned, with no footprint in the way; LDS of a poisoned block raises POISON at the
first poisoned byte. -/
def Obligations.ScratchpadLoadsAndStores : Prop :=
  ∀ (s : State) (h : Hdr) (w : Width) (r : Reg) (base : Src) (disp : BitVec 26),
    let a := spadAddr s.tile.regs base disp
    let n := Width.size w
    InReach s.tile a n n →
      (Ready h [acc a.toNat n false] s → firstPoison s.tile.mem a.toNat n = none →
        exec (.lds h w r base disp) s =
          .next (issued h false s (toG 0 2 r (extend w (readB s.tile.mem.spad a.toNat n)) (readS1 base s))))
      ∧ (∀ b, Ready h [acc a.toNat n false] s → firstPoison s.tile.mem a.toNat n = some b → Takes (poisonAt b) (.lds h w r base disp) s)
      ∧ (Ready h [acc a.toNat n true] s →
        exec (.sts h w r base disp) s =
          .next (issued h false s (onMem (spadStore a.toNat n (readG s.tile.regs r).toNat) (readS1 base s))))

/-- R95, R192, R208, R210, R212, R283, R311, R347, R364: a misaligned access to scratchpad, spill or global memory, and a misaligned BRI target, raises ALIGN at
its address before anything else of its step; a scratchpad access that passes the program area raises SPAD at its first byte outside it. Of a
vector access, the lowest active element that raises one is reported. -/
def Obligations.MisplacedAccessesFault : Prop :=
  ∀ (s : State) (h : Hdr) (w : Width) (r d c x : Reg) (base src : Src) (disp : BitVec 26) (pd : BitVec 14) (o : Order) (sd : ScopeDisp)
    (sc : Scope) (op : AmoOp) (q : BitVec 2) (win : Window) (rep : Bool), Judged h s →
    let a := spadAddr s.tile.regs base disp
    let g := globalAddr s.tile.regs base sd
    let b := srcSa s.tile.regs base
    let n := Width.size w
    let card := readG s.tile.regs c
    (∀ p ∈ [(Instr.lds h w r base disp, a, n), (.sts h w r base disp, a, n), (.swinit h c x, card, 16), (.swadd h c x, card, 16),
          (.swrd h x c, card, 16), (.waits h base src, b, 16), (.cpy h c q, card, 64), (.cpys h c x q, card, 64),
          (.board h win rep c, card, 32)],
        (p.2.1.toNat % p.2.2 ≠ 0 → Takes (addrFault 0x04 p.2.1 0 0) p.1 s)
          ∧ (p.2.1.toNat % p.2.2 = 0 → progEnd s.tile < p.2.1.toNat + p.2.2 → Takes (beyond s.tile p.2.1 0) p.1 s))
      ∧ (pd.toNat % n ≠ 0 → ∀ i ∈ [Instr.ldp h w r pd, .stp h w r pd], Takes (addrFault 0x04 (pd.setWidth 64) 1 0) i s)
      ∧ (g.toNat % n ≠ 0 → ∀ i ∈ [Instr.ldg h w o r base sd, .stg h w o r base sd], Takes (addrFault 0x04 g 2 0) i s)
      ∧ (b.toNat % n ≠ 0 → ∀ i ∈ [Instr.amo h op w o sc d base r, .acas h w o sc d base r, .red h op w o sc base r, .waitm h w d base src],
        Takes (addrFault 0x04 b 2 0) i s)
      ∧ (b.toNat % 8 ≠ 0 → Takes (addrFault 0x04 b 3 0) (.bri h base) s)
      ∧ ∀ (i : Instr) (m al : Nat) (load : Bool) (es fs : List (Nat × Word)) (e : Nat × Word), vmemForm i = some (h, m, al, load) →
        ((vmemStart s i).toNat % 64 ≠ 0 → Takes (addrFault 0x04 (vmemStart s i) 0 0) i s)
          ∧ ((vmemStart s i).toNat % 64 = 0 → vmemElems s i = es ++ e :: fs →
            (∀ y ∈ es, y.2.toNat % al = 0 ∧ y.2.toNat + m ≤ progEnd s.tile) →
            (e.2.toNat % al ≠ 0 → Takes (addrFault 0x04 e.2 0 e.1) i s)
            ∧ (e.2.toNat % al = 0 → progEnd s.tile < e.2.toNat + m → Takes (beyond s.tile e.2 e.1) i s))

/-- R195, R206 to R208, R290: vector loads and stores whose active elements all pass their checks, lane by lane; a load that touches a poisoned block raises
POISON for the lowest active element that does. In one bundle with STS, a vector load returns the bytes from before it, and a vector store
is kept where both write. -/
def Obligations.VectorLoadsAndStores : Prop :=
  ∀ (s : State) (i : Instr) (h : Hdr) (xs : List FRange) (t : State),
    (vmemRule s i = some (h, true, xs, t) → Ready h xs s → exec i s = .next (issued h false s t))
      ∧ (∀ (m al : Nat) (es fs : List (Nat × Word)) (e : Nat × Word) (b : Nat), vmemForm i = some (h, m, al, true) →
        (vmemStart s i).toNat % 64 = 0 → Ready h (elemsAccess m false (vmemElems s i)) s →
        (∀ y ∈ vmemElems s i, y.2.toNat % al = 0 ∧ y.2.toNat + m ≤ progEnd s.tile) → vmemElems s i = es ++ e :: fs →
        (∀ y ∈ es, firstPoison s.tile.mem y.2.toNat m = none) → firstPoison s.tile.mem e.2.toNat m = some b → Takes (poisonAt b) i s)
      ∧ ∀ (h1 : Hdr) (w : Width) (r : Reg) (base : Src) (disp : BitVec 26) (ok : Bool) (o1 o2 : SlotOp),
          slotOp (.sts h1 w r base disp) = some o1 → slotOp i = some o2 → vmemRule s i = some (h, ok, xs, t) →
          isHeld [o1, o2] s = false → firstOf SlotOp.fault5 [o1, o2] s = none → firstOf SlotOp.fault6 [o1, o2] s = none →
          readP s.tile h.guard = true → readP s.tile h1.guard = true → interlocked s.tile.regs = false →
          s.tile.ctl.bankLeft.getD (bankHold (o1.access s ++ o2.access s)) = 0 →
          let u := readS1 base (onMem (spadStore (spadAddr s.tile.regs base disp).toNat (Width.size w) (readG s.tile.regs r).toNat) s)
          issueOps [o1, o2] s = endCycle (h1.pp || h.pp) s (advance s (match i with
            | .vld _ ty _ d _ _ | .vlds _ ty _ d _ _ _ => toV s 5 d (loadElems s.tile.mem ty.bits (vmemElems s i)) u
            | .vgath _ _ _ d _ _ _ => toV s 5 d (loadElems s.tile.mem 32 (vmemElems s i)) u
            | .vst _ ty _ v _ _ | .vsts _ ty _ v _ _ _ => onMem (storeElems ty.bits (readV s.tile.regs v) (vmemElems s i)) u
            | .vscat _ _ _ v _ _ _ => onMem (storeElems 32 (readV s.tile.regs v) (vmemElems s i)) u
            | _ => u))

/-- R200 to R203, R210 to R212, R290: SWINIT clears a sync word and sets its target, and raises ILLEGAL for a target of 2^36 or more; SWADD updates it; SWRD
reads it, and raises POISON where its block is; WAITS passes once the generation has passed. An
update adds to the count, clamped to 36 bits with overflow marked; with a target, the generation advances by the whole multiples and the count
keeps the rest; the target stays, and the reserved bits become zero. -/
def Obligations.SyncWords : Prop :=
  (∀ (s : State) (h : Hdr) (c x : Reg) (a b : Src),
      let ca := readG s.tile.regs c
      let xa := readG s.tile.regs x
      let wa := srcSa s.tile.regs a
      (Ready h [acc ca.toNat 16 true] s → InReach s.tile ca 16 16 → xa.toNat < 2 ^ 36 →
        exec (.swinit h c x) s = .next (issued h false s (onMem (spadStore ca.toNat 16 (xa.toNat * 2 ^ 64)) s)))
        ∧ (Judged h s → InReach s.tile ca 16 16 → 2 ^ 36 ≤ xa.toNat → Takes (illegal s) (.swinit h c x) s)
        ∧ (∀ p, Ready h [acc xa.toNat 16 false] s → InReach s.tile xa 16 16 → firstPoison s.tile.mem xa.toNat 16 = some p →
          Takes (poisonAt p) (.swrd h c x) s)
        ∧ (Ready h [] s → s.tile.ctl.bankLeft = none → InReach s.tile wa 16 16 →
          genPassed ((syncAt s.tile.mem wa.toNat).extractLsb' 100 16) (srcSb s.tile.regs b) = false →
          exec (.waits h a b) s = .next (heldHaltable s))
        ∧ (Ready h [acc ca.toNat 16 true] s → InReach s.tile ca 16 16 →
          exec (.swadd h c x) s = .next (issued h false s (onMem (syncAdd ca.toNat xa.toNat) s)))
        ∧ (Ready h [acc xa.toNat 16 false] s → InReach s.tile xa 16 16 → firstPoison s.tile.mem xa.toNat 16 = none →
          exec (.swrd h c x) s = .next (issued h false s (toG 3 2 c (swrdValue (syncAt s.tile.mem xa.toNat)) s)))
        ∧ (Ready h [] s → InReach s.tile wa 16 16 →
          genPassed ((syncAt s.tile.mem wa.toNat).extractLsb' 100 16) (srcSb s.tile.regs b) = true →
          exec (.waits h a b) s = .next (issued h true s (readS2 a b s))))
    ∧ ∀ (n : Nat) (w : BitVec 128),
        let count := (w.extractLsb' 0 36).toNat
        let target := (w.extractLsb' 64 36).toNat
        let sum := min (count + n) (2 ^ 36 - 1)
        let w' := syncUpdate n w
        (w'.extractLsb' 0 36).toNat = (if target = 0 then sum else sum % target)
          ∧ (w'.extractLsb' 64 36).toNat = target
          ∧ w'.extractLsb' 100 16 = w.extractLsb' 100 16 + BitVec.ofNat 16 (if target = 0 then 0 else sum / target)
          ∧ w'.extractLsb' 116 1 = (if 2 ^ 36 ≤ count + n then 1 else w.extractLsb' 116 1)
          ∧ w'.extractLsb' 36 28 = 0 ∧ w'.extractLsb' 117 11 = 0


/-! ## Control flow -/

/-- R74, R88, R89, R93 to R98: a taken BR, BRT, BRI, CALL, RET or LBRK puts its target into the program counter and leaves one empty cycle. A ninth CALL and a
RET with an empty stack raise CALLSTK; a branch out of the innermost active body, a CALL or RET inside a loop and an LBRK of a level that is not
active raise LOOP; then nothing of the syllable happens. -/
def Obligations.Transfers : Prop :=
  (∀ (s : State) (i : Instr) (h : Hdr) (target : Word) (t : State), transferRule s i = some (h, true, target, t) → Ready h [] s →
      ∃ u, exec i s = .next u ∧ u = endCycle h.pp s (takeTransfer target t) ∧ u.tile.ctl.pc = target ∧ u.tile.ctl.bubble = true)
    ∧ ∀ (s : State) (h : Hdr) (disp : BitVec 32) (t0 t1 t2 t3 : BitVec 5) (stride1 : BitVec 3) (bd : BitVec 20) (a : Src) (level : BitVec 3),
        Judged h s →
        let stack := s.tile.ctl.rstack
        (8 ≤ stack.length → Takes (faultAtPc 0x0C 0 0 s) (.call h disp) s)
          ∧ (stack = [] → Takes (faultAtPc 0x0C 1 0 s) (.ret h) s)
          ∧ ((innermost s.tile.ctl).isSome = true → (stack.length < 8 → Takes (loopFault 6 s) (.call h disp) s)
            ∧ (stack ≠ [] → Takes (loopFault 6 s) (.ret h) s))
          ∧ (∀ l, innermost s.tile.ctl = some l →
            let body := levelAddrs s.tile s.tile.ctl.loops[l]
            (relTarget s disp ∉ body → Takes (loopFault 6 s) (.br h disp) s)
              ∧ (brtTarget t0 t1 t2 t3 stride1 bd s ∉ body → Takes (loopFault 6 s) (.brt h t0 t1 t2 t3 stride1 bd) s)
              ∧ (srcSa s.tile.regs a ∉ body → (srcSa s.tile.regs a).toNat % 8 = 0 → Takes (loopFault 6 s) (.bri h a) s))
          ∧ ((levelOf s.tile.ctl level.toNat).active = false → Takes (loopFault 5 s) (.lbrk h level) s)

/-- R83, R89, R97: LOOP of a level above every active one, whose body ends no later than the innermost active body, transfers past its body with a count of
zero; otherwise it arms its level for the body after its bundle, first iteration and count pending. A level that does not exist, one not above
every active level, a count of 2^32 or more, and a body that ends after the innermost active one raise LOOP. -/
def Obligations.LoopArmsOrSkips : Prop :=
  ∀ (s : State) (h : Hdr) (level : BitVec 3) (count : Reg) (rotate : Bool) (len1 : BitVec 6),
    let n := readG s.tile.regs count
    let last := lastOfBody s.tile len1.toNat (nextPc s.tile)
    let above := ∀ l, innermost s.tile.ctl = some l → l.val < level.toNat
    let within := ∀ l, innermost s.tile.ctl = some l → last.toNat ≤ (levelLast s.tile s.tile.ctl.loops[l]).toNat
    (Ready h [] s → level.toNat ≤ 5 → above → within → n.toNat < 2 ^ 32 →
        (n = 0 → exec (.loop h level count rotate len1) s =
          .next (endCycle h.pp s (takeTransfer (afterBody s.tile (len1.toNat + 1) (nextPc s.tile)) s)))
        ∧ (n ≠ 0 → exec (.loop h level count rotate len1) s =
          .next (issued h false s (onCtl (setLevel level.toNat
            { active := true, first := (nextPc s.tile).toNat, len := len1.toNat + 1, count := n.toNat, rotate := rotate, isFirst := true }) s))))
      ∧ (Judged h s → (5 < level.toNat → Takes (loopFault 1 s) (.loop h level count rotate len1) s)
        ∧ (level.toNat ≤ 5 → ¬ above → Takes (loopFault 2 s) (.loop h level count rotate len1) s)
        ∧ (level.toNat ≤ 5 → above → 2 ^ 32 ≤ n.toNat → Takes (loopFault 3 s) (.loop h level count rotate len1) s)
        ∧ (level.toNat ≤ 5 → above → n.toNat < 2 ^ 32 → ¬ within → Takes (loopFault 4 s) (.loop h level count rotate len1) s))

/-- R85: at the end of an iteration that is not the last the body begins again with one iteration less, and a rotating level lowers both rotation bases; at
the last one the level becomes inactive, and the iteration of the enclosing level ends by the same rules where its body ends with the same bundle;
otherwise the next bundle follows. -/
def Obligations.IterationEnds : Prop :=
  ∀ (s : State) (l : Fin 6) (next : Word), innermost s.tile.ctl = some l → levelLast s.tile s.tile.ctl.loops[l] = s.tile.ctl.pc →
    let lv := s.tile.ctl.loops[l]
    let u := iterationEnd s.tile s.tile.ctl.pc next 6 s
    let turn (b : Bool) : Nat := if b then 1 else 0
    (1 < lv.count → u.tile.ctl.pc = BitVec.ofNat 64 lv.first
        ∧ u.tile.ctl.loops = s.tile.ctl.loops.set l { lv with count := lv.count - 1, isFirst := false }
        ∧ u.tile.regs.rbVb = s.tile.regs.rbVb - BitVec.ofNat 5 (turn lv.rotate)
        ∧ u.tile.regs.rbPb = s.tile.regs.rbPb - BitVec.ofNat 4 (turn lv.rotate))
      ∧ (lv.count ≤ 1 →
        let loops := s.tile.ctl.loops.set l { lv with active := false }
        match innermost { s.tile.ctl with loops := loops } with
        | none => u.tile.ctl.pc = next ∧ u.tile.ctl.loops = loops
            ∧ u.tile.regs.rbVb = s.tile.regs.rbVb - BitVec.ofNat 5 (turn lv.rotate)
            ∧ u.tile.regs.rbPb = s.tile.regs.rbPb - BitVec.ofNat 4 (turn lv.rotate)
        | some k =>
            let lk := loops[k]
            (levelLast s.tile lk ≠ s.tile.ctl.pc → u.tile.ctl.pc = next ∧ u.tile.ctl.loops = loops
                ∧ u.tile.regs.rbVb = s.tile.regs.rbVb - BitVec.ofNat 5 (turn lv.rotate))
              ∧ (levelLast s.tile lk = s.tile.ctl.pc → 1 < lk.count → u.tile.ctl.pc = BitVec.ofNat 64 lk.first
                ∧ u.tile.ctl.loops = loops.set k { lk with count := lk.count - 1, isFirst := false }
                ∧ u.tile.regs.rbVb = s.tile.regs.rbVb - BitVec.ofNat 5 (turn lv.rotate + turn lk.rotate)
                ∧ u.tile.regs.rbPb = s.tile.regs.rbPb - BitVec.ofNat 4 (turn lv.rotate + turn lk.rotate))
              ∧ (levelLast s.tile lk = s.tile.ctl.pc → lk.count ≤ 1 → u.tile.ctl.loops[k].active = false))

/-- R16, R92, R99, R100, R325: END ends the tile with its results landed and its loops discarded; TRAP stops the tile at the next bundle with
FLTCODE and FLTADDR set; inside a transfer phase both raise ILLEGAL; YIELD is a point that marks the slice. What the saved pc of a TRAP is, is log
entry 14. -/
def Obligations.EndTrapAndYield : Prop :=
  ∀ (s : State) (h : Hdr) (code : BitVec 16), (Judged h s → inPhase s = true →
      Takes (illegal s) (.endTask h) s ∧ Takes (illegal s) (.trap h code) s) ∧ (Ready h [] s →
    (inPhase s = false → ∃ u, exec (.endTask h) s = .next u ∧ u = endCycle h.pp s (endTile (advance s s))
        ∧ u.tile.ctl.run = .ended ∧ u.tile.ctl.loops = Vector.replicate 6 {} ∧ u.tile.regs.inflight = [])
      ∧ (inPhase s = false → ∃ u, exec (.trap h code) s = .next u
        ∧ u = endCycle h.pp s (trapTile s.tile.ctl.pc code (advance s s))
        ∧ u.tile.ctl.run = .stopped ∧ u.tile.ctl.fltcode = 0x0A ∧ u.tile.ctl.fltaddr = s.tile.ctl.pc
        ∧ u.tile.ctl.pc = (advance s s).tile.ctl.pc)
      ∧ exec (.yield h) s = .next (issued h true s (modOwnBind (fun b => { b with yielded := true }) s)))

/-- R101 to R104, R110, R142, R145: RDSR writes the register as it stands at issue; WRSR writes the RW fields, which then read as written while the others read
zero; an index of no register, and a write to one without RW fields, raise ILLEGAL at the bundle's address when the guard holds, and nothing when it
does not. -/
def Obligations.SpecialRegisters : Prop :=
  ∀ (s : State) (h : Hdr) (d : Reg) (a : Src) (idx : BitVec 8) (v : Word),
    (∀ v, Ready h [] s → specialReg s idx.toNat = some v → exec (.rdsr h d idx) s = .next (issued h false s (toG 0 0 d v s)))
      ∧ (∀ f, Ready h [] s → writeSpecial idx.toNat (srcSa s.tile.regs a) = some f →
        exec (.wrsr h a idx) s = .next (issued h false s (onRegs f (readS1 a s))))
      ∧ (Judged h s → (0x12 ≤ idx.toNat → Takes (illegal s) (.rdsr h d idx) s)
          ∧ (idx ≠ 0x0A → idx ≠ 0x10 → idx ≠ 0x11 → Takes (illegal s) (.wrsr h a idx) s)
          ∧ (takeFault (illegal s) s).tile.ctl.fltcode = 0x01 ∧ (takeFault (illegal s) s).tile.ctl.fltaddr = s.tile.ctl.pc
          ∧ (takeFault (illegal s) s).tile.ctl.pc = s.tile.ctl.pc)
      ∧ (readP s.tile h.guard = false → interlocked s.tile.regs = false → s.tile.ctl.bankLeft = none →
        exec (.rdsr h d idx) s = .next (issued h false s s) ∧ exec (.wrsr h a idx) s = .next (issued h false s s))
      ∧ (∀ f, writeSpecial 0x0A v = some f → specialReg (onRegs f s) 0x0A = some (v &&& 0xF1F))
      ∧ (∀ f, writeSpecial 0x10 v = some f → specialReg (onRegs f s) 0x10 = some (v &&& 1))
      ∧ (∀ f, writeSpecial 0x11 v = some f → specialReg (onRegs f s) 0x11 = some (v &&& 0x1F))
      ∧ (∀ k ∈ [0x0A, 0x10, 0x11], (writeSpecial k v).isSome = true)

/-! ## Fabric -/

/-- R320 to R322, R325, R328 to R331: ALIGN passes when TIME has just come to its multiple; a BAR whose barrier is open passes and counts the
episode; XMIT sends its vector to the far tile's latch, visible four cycles later; XSEL reads a latch. ALIGN inside a phase, a BAR of an entry without
its tile, a BAR.T inside a phase, a BAR.E outside its phase, and XMIT and XSEL outside a phase raise ILLEGAL; XMIT and XSEL to no tile of the
phase raise FENCE. -/
def Obligations.FabricInstructions : Prop :=
  ∀ (s : State) (h : Hdr) (peer : Bool) (k : BarKind) (e : BitVec 5) (d : Dir) (v : Reg), (Judged h s →
      (inPhase s = true → Takes (illegal s) (.align h peer) s)
        ∧ (inPhase s = false → alignNow peer s = false → exec (.align h peer) s = .next (heldHaltable s))
        ∧ (s.tile.ctl.barOpen = false → (inScope s.tile e.toNat s.tile.place.x s.tile.place.y = false → Takes (illegal s) (.bar h k e) s)
          ∧ (inPhase s = true → Takes (illegal s) (.bar h .open_ e) s)
          ∧ (s.tile.eng.phase ≠ some e → Takes (illegal s) (.bar h .close_ e) s))
        ∧ (s.tile.eng.phase = none → Takes (illegal s) (.xmit h d v) s ∧ Takes (illegal s) (.xsel h d v) s)
        ∧ (s.tile.eng.phase = some e → farTile s e d = none →
          ∀ i ∈ [Instr.xmit h d v, .xsel h d v], ∃ f, Takes f i s ∧ f.code = 0x09 ∧ f.cause = 0 ∧ f.addr = s.tile.ctl.pc)) ∧ (Ready h [] s →
    (inPhase s = false → alignNow peer s = true → exec (.align h peer) s = .next (issued h false s s))
      ∧ (s.tile.ctl.barOpen = true →
        exec (.bar h k e) s =
          .next (issued h false s (onTile (fun t =>
            setEpisode e.toNat { count := (episode t e.toNat).count + 1, arrived := none } t) s)))
      ∧ (∀ q, s.tile.eng.phase = some e → farTile s e d = some q →
        exec (.xmit h d v) s =
          .next (issued h false s (modTile q (fun t =>
            { t with eng := { t.eng with links := t.eng.links ++ [(s.mod.cycle + 4, (opposite d).code, readV s.tile.regs v)] } }) s)))
      ∧ (∀ q, s.tile.eng.phase = some e → farTile s e d = some q →
        exec (.xsel h d v) s =
          .next (issued h false s
            (pushRes 3 12 0 (.v (physV s.tile.regs v) (BitVec.allOnes 2048) (s.tile.eng.latches[d.code.toNat]'d.code.isLt)) s))))

/-- R321, R322, R324, R329: a BAR that is held by nothing else arrives, once, with the CYCLE of that moment, and waits. A barrier whose members have all arrived and
whose delay has passed is released with its one kind in every member, or raises FENCE cause 1 where the kinds differ; data due on a tile's links reaches its
latches, the rest stays. -/
def Obligations.BarriersArriveAndRelease : Prop :=
  ∀ (s : State) (h : Hdr) (k : BarKind) (e : BitVec 5),
    (Judged h s → barFault k e s = none → s.tile.ctl.barOpen = false →
      ∃ u, exec (.bar h k e) s = .next u ∧ u.tile.ctl.pc = s.tile.ctl.pc
        ∧ ((episode s.tile e.toNat).arrived = none → (episode u.tile e.toNat).arrived = some (some k, s.mod.cycle))
        ∧ (∀ k' c, (episode s.tile e.toNat).arrived = some (some k', c) → episode u.tile e.toNat = episode s.tile e.toNat))
      ∧ (barrierDue s e.toNat = true →
        let n := nextEpisode s.tile e.toNat
        let ps := (scopeTiles s e.toNat).filter fun p => releases e.toNat n (getTile p s)
        let kinds := (kindsOf (ps.map (getTile · s)) e.toNat n).eraseDups
        (∀ p ∈ scopeTiles s e.toNat, (arrivalOf (getTile p s) e.toNat n).isSome = true
            ∧ ∀ c, arrivalOf (getTile p s) e.toNat n = some c → c + 8 ≤ s.mod.cycle.toNat)
          ∧ (kinds = [k] → exec (.barrierRelease e) s = .next (overTiles ps (releaseTile k e) s))
          ∧ ((∀ k, kinds ≠ [k]) → exec (.barrierRelease e) s =
            .next (eachTile (ps.filter fun p => (getTile p s).ctl.run = .running) (mixedKinds e) s)))
      ∧ ∃ u, exec .xmitArrival s = .next u
        ∧ u.tile.eng.links = s.tile.eng.links.filter (fun l => decide (s.mod.cycle.toNat < l.1.toNat))
        ∧ (∀ x, s.tile.eng.links = [x] → x.1.toNat ≤ s.mod.cycle.toNat →
            u.tile.eng.latches[x.2.1.toNat]'x.2.1.isLt = x.2.2)

/-! ## Global memory -/

/-- R344 to R349, R354, R378, R379, R381, R401: LDG with a natural alignment begins its access and holds the tile on it; so do AMO and ACAS with the
translation they found at their cluster's port, and they raise XLATE where it fails; one that an earlier store of the tile, its port or a page-in
holds waits. STG, RED and MBXW enter the store queue, which has 32 entries, at its end. That an access which waits so has not issued, and that an
atomic takes its translation, and its granule's copy for a snapshot, at issue, is log entry 65; that AMO, ACAS and RED refresh latch a alone is log
entry 78. -/
def Obligations.GlobalAccessesBegin : Prop :=
  ∀ (s : State) (h : Hdr) (w : Width) (o : Order) (d b : Reg) (base : Src) (sd : ScopeDisp) (sc : Scope) (op : AmoOp) (idx : BitVec 4),
    Ready h [] s →
    let g := globalAddr s.tile.regs base sd
    let a := srcSa s.tile.regs base
    (g.toNat % Width.size w = 0 →
        (accessHeld s o (scopeOf sd) g w = false → exec (.ldg h w o d base sd) s = .next (issued h false s (heldOn (ldgOf s w o d base sd) (readS1 base s))))
          ∧ (s.tile.ctl.bankLeft = none → accessHeld s o (scopeOf sd) g w = true → exec (.ldg h w o d base sd) s = .next (heldHaltable s)))
      ∧ (a.toNat % Width.size w = 0 →
        ∀ i x, (i = .amo h op w o sc d base b ∧ x = amoOf s op w o sc d base b) ∨ (i = .acas h w o sc d base b ∧ x = acasOf s w o sc d base b) →
          (portHolds w o sc a s = false →
            (∀ e t, atPort a (readS1 base s) = (.go e, t) →
                let r := takeEnt e w (accessOp x) a t
                exec i s = .next (issued h false s (heldOn { x with ent := some e, note := r.1 } (copyAhead e a r.2))))
              ∧ ∀ y t, atPort a (readS1 base s) = (.fault y, t) →
                exec i s = .next (issued h false s (raiseDeferred (xTFault y a (accessSource x.kind)) t)))
            ∧ (s.tile.ctl.bankLeft = none → standing s.tile.ctl.portHeld = true ∨ accessHeld s o sc a w = true → exec i s = .next (heldHaltable s))
            ∧ (s.tile.ctl.bankLeft = none → standing s.tile.ctl.portHeld = false → accessHeld s o sc a w = false →
              (∀ p t, atPort a s = (.held p, t) → exec i s = .next (heldHaltable (holdPort p t)))
                ∧ ∀ t, atPort a s = (.paging, t) → exec i s = .next (heldHaltable t)))
      ∧ (s.tile.eng.sq.length < 32 →
        (g.toNat % Width.size w = 0 →
          exec (.stg h w o d base sd) s = .next (issued h false s (stored (stgEntry s w o d base sd) (readS1 base s))))
          ∧ (a.toNat % Width.size w = 0 →
            exec (.red h op w o sc base b) s = .next (issued h false s (stored (redEntry s op w o sc base b) (readS1 base s))))
          ∧ exec (.mbxw h base idx) s = .next (issued h false s (stored (mbxwEntry s base idx) (readS1 base s))))

/-- R342, R343, R353, R359, R360, R363, R364: a FENCE passes once the accesses it orders are performed, whatever else is pending, and waits until then. For a
write that has gone to the host or a peer it waits at system scope alone, and FENCE.ACQ never: that a write which is made is kept, and that group and
device scope do not wait for it either, is the model's reading of R359 (log entry 108). MONITOR arms the monitor; a WAITM whose read finds another value, or whose monitor does not hold the address, passes with the monitor disarmed, as does one
that sleeps and has been woken or timed out; PREF and SLCH act line by line and never wait. From when a WAITM's time counts is log entry 64. -/
def Obligations.FencesMonitorsAndHints : Prop :=
  ∀ (s : State) (h : Hdr) (k : FenceKind) (sc : Scope) (a b : Src) (w : Width) (d c x : Reg), Ready h [] s →
    let pending := sqPending s.tile.eng.sq
    ((pending = [] → (∀ x ∈ s.tile.eng.sq, x.sent = true → x.done = true) → exec (.fence h k sc) s = .next (issued h false s s))
        ∧ ((∀ x ∈ pending, ∀ op, x.kind ≠ .red op) → exec (.fence h .acq sc) s = .next (issued h false s s))
        ∧ (s.tile.ctl.bankLeft = none → pending ≠ [] → ∀ k ∈ [FenceKind.rel, .full], exec (.fence h k sc) s = .next (heldHaltable s))
        ∧ (pending = [] → sc ≠ .system → exec (.fence h k sc) s = .next (issued h false s s))
        ∧ (s.tile.ctl.bankLeft = none → (∃ x ∈ s.tile.eng.sq, x.sent = true ∧ x.done = false) →
          ∀ k ∈ [FenceKind.rel, .full], exec (.fence h k .system) s = .next (heldHaltable s))
        ∧ (s.tile.ctl.bankLeft = none → (∃ x ∈ pending, ∃ op, x.kind = .red op) → exec (.fence h .acq sc) s = .next (heldHaltable s)))
      ∧ exec (.monitor h a) s =
          .next (issued h false s (withMonitor (armMonitor (srcSa s.tile.regs a) (readS1 a s)).1 (armMonitor (srcSa s.tile.regs a) (readS1 a s)).2))
      ∧ (s.tile.ctl.waitRead = true → (srcSa s.tile.regs a).toNat % Width.size w = 0 →
        s.tile.eng.mon = none ∨ monWoken s = true ∨ s.tile.ctl.waitOut = true ∨ waitmTimedOut s = true →
        exec (.waitm h w d a b) s = .next (issued h true s (withMonitor none (readS2 a b s))))
      ∧ (∀ bs s', (srcSa s.tile.regs a).toNat % Width.size w = 0 → s.tile.ctl.waitRead = false →
        sqOverlaps s s.tile.eng.sq (srcSa s.tile.regs a) (Width.size w) = false →
        waitmRead w (srcSa s.tile.regs a) s = .done bs s' →
        (monHolds s (srcSa s.tile.regs a) = false ∨ ofBytes bs ≠ lowBytes w (srcSb s.tile.regs b) ∨ monWoken s = true) →
        exec (.waitm h w d a b) s =
          .next (issued h true s (withMonitor none (latchSb b (srcSb s.tile.regs b) (latchSa a (srcSa s.tile.regs a) s')))))
      ∧ (let hint := readG s.tile.regs x
        (hint.toNat < 2 ^ 40 → hint.extractLsb' 16 15 = 0 →
          exec (.pref h c x) s =
            .next (issued h false s ((hintLines (readG s.tile.regs c) hint).foldl (prefLine hint) s)))
          ∧ (hint.toNat < 2 ^ 16 →
            exec (.slch h c x) s = .next (issued h false s ((hintLines (readG s.tile.regs c) hint).foldl slchLine s))))

/-- R44, R345 to R347, R349, R353, R354, R359, R363, R364, R377, R379, R382, R401, R406: the access a tile is held on ends with its result in the
destination register, unless a result of a higher slot class of its bundle keeps it, and with the counter notification it owes, or raises XLATE or
POISON at the next boundary; one whose page is paged in waits; a store that is performed leaves the queue, one to the host or a peer with a step of its
own once it has gone there, which is the model's reading of R359 (log entry 108), one whose access fails raises its fault, and one that its port holds
waits; an MBXW's notification, with the value, the word and the TIME of its write, is queued with it, and a JDONE commits its raise and its completion; a
WAITM's timeout and a poll-mode wake are marked when their TIME has come; an access that goes over PCIe and
whose completion times out ends with a value the spec does not state (the model's free value, log entries 3 and 18), and no other ends so. -/
def Obligations.GlobalAccessesComplete : Prop :=
  ∀ (s : State) (a : GAccess) (n : Nat) (e : SqEntry) (bs : List Byte) (s' : State) (due : Nat) (m : Monitor),
    (s.tile.ctl.gacc = some a →
        (performAccess a s = .wait s' → exec .ldgComplete s = .next s')
        ∧ (∀ t, endAccess a t = postNote t.tile.place.vd a.note (onCtl (fun c => { c with gacc := none }) t))
        ∧ (∀ vd x t, postNote vd none t = t ∧ postNote vd (some x) t = queueOrDrop vd 2 x t)
        ∧ (performAccess a s = .done bs s' → exec .ldgComplete s = .next (endAccess a (landLoad a (accessResult a bs) s'))
          ∧ (a.lost = true → landLoad a (accessResult a bs) s' = s')
          ∧ (a.lost = false → s'.tile.regs.inflight = [] →
            landLoad a (accessResult a bs) s' = onRegs (setG a.dest (accessResult a bs)) s'))
        ∧ ∀ x, performAccess a s = .fail x s' →
          exec .ldgComplete s = .next (raiseDeferred (xTFault x a.va (accessSource a.kind)) (endAccess a s')))
      ∧ (s.tile.eng.sq[n]? = some e → sqReady s n = true → (e.kind = .stg ∨ ∃ op, e.kind = .red op) →
        (e.sent = true → exec (.storeQueuePerform n) s = .next (postTrap (sqRemove n s)))
        ∧ (e.sent = false → performEntry e s = .done bs s' → exec (.storeQueuePerform n) s =
          .next (if goesFar e.va s' then sqMark n (fun e => { e with sent := true }) s' else postTrap (sqRemove n s')))
        ∧ (∀ p, e.sent = false → performEntry e s = .block p s' → exec (.storeQueuePerform n) s = .next (holdEntry n p s'))
        ∧ ∀ x, e.sent = false → performEntry e s = .fail x s' → exec (.storeQueuePerform n) s =
          .next (postTrap (raiseDeferred (xTFault x e.va (sqSource e.kind)) (sqRemove n s'))))
      ∧ (∀ idx, s.tile.eng.sq[n]? = some e → sqReady s n = true → e.kind = .mbxw idx → e.sent = false → performEntry e s = .done bs s' →
        ∃ x : BitVec 256, x.extractLsb' 192 64 = s'.mod.time ∧ x.extractLsb' 128 64 = e.data ∧ x.extractLsb' 64 4 = idx ∧ x.extractLsb' 0 8 = 0x11
          ∧ exec (.storeQueuePerform n) s = .next (postTrap (queueRec s'.tile.place.vd 0 { slots := [x], tile := some s'.cur }
            (sqMark n (fun e => { e with done := true }) s'))))
      ∧ (∀ raise, s.tile.eng.sq[n]? = some e → sqReady s n = true → e.kind = .jdone raise →
        let r := jcbUpdate (jcbOf (ownBind s)) raise.toNat 1 s
        (r = .done s' → exec (.storeQueuePerform n) s = .next (postTrap (sqRemove n s')))
          ∧ (r = .over s' → exec (.storeQueuePerform n) s = .next (postTrap (jcbFault 33 (sqRemove n s'))))
          ∧ (r = .held s' → exec (.storeQueuePerform n) s = .next (postTrap (holdEntry n (granuleOf (ownBind s').jcb) s'))))
      ∧ (s.tile.ctl.waitDue = some due → due ≤ s.mod.time.toNat →
        exec .waitmTimeout s = .next (onCtl (fun c => { c with waitOut := true }) s))
      ∧ (s.tile.eng.mon = some m → m.sector = none → m.since.toNat + 1024 ≤ s.mod.time.toNat →
        exec .monitorPollWake s = .next (withMonitor (some { m with wake := true, since := m.since + 1024 }) s))
      ∧ (∀ t u, s.tile.ctl.gacc = some a →
        (outgoing a s = (some t, u) → overPcie a t = true →
          exec .pcieCompletionTimeout s = .next (endAccess a (landLoad a (Config.lostRead u.fresh) { u with fresh := u.fresh + 1 })))
        ∧ (outgoing a s = (none, u) ∨ (outgoing a s = (some t, u) ∧ overPcie a t = false) → exec .pcieCompletionTimeout s = .next s))

/-! ## Mailboxes, jobs and schedules -/

/-- R290, R399, R400, R405, R406, R408 to R410: MBX reads a mailbox word and clears its fresh bit; JRAISE adds to the pending raise; JDONE enters the
store queue and marks the tile posted; after JDONE both fault in the run that posted, and act as nothing in a later one; NEXT, which is no point
by itself, commits the pending raise, and delivers the item at the cursor and moves it, or reports the end. -/
def Obligations.MailboxJobAndScheduleInstructions : Prop :=
  ∀ (s : State) (h : Hdr) (d : Reg) (a : Src) (idx : BitVec 6) (pe : BitVec 5),
    let p := s.tile.place
    let item := p.st + 16 + 4 * p.schedPos.toNat
    let n := idx + (srcSa s.tile.regs a).extractLsb' 0 6
    (Ready h [] s → exec (.mbx h d a idx) s =
        .next (issued h false s (onPlace (fun p => { p with mbxFresh := p.mbxFresh &&& ~~~(BitVec.twoPow 64 n.toNat) })
          (toG 0 2 d (p.mbx[n.toNat]'n.isLt) (readS1 a s)))))
      ∧ (Ready h [] s → p.posted = false → p.pend.toNat + (srcSa s.tile.regs a).toNat < 2 ^ 32 →
        exec (.jraise h a) s =
          .next (issued h false s (onPlace (fun p =>
            { p with pend := BitVec.ofNat 32 (p.pend.toNat + (srcSa s.tile.regs a).toNat) }) (readS1 a s))))
      ∧ (Ready h [] s → p.posted = false → s.tile.eng.sq.length < 32 →
        exec (.jdone h) s =
          .next (issued h false s (stored (jdoneEntry p.pend) (onPlace (fun p => { p with pend := 0, posted := true, thisRun := true }) s))))
      ∧ (Ready h [] s → p.posted = true →
        (p.thisRun = true → exec (.jraise h a) s = .next (issued h false s (jcbFault 32 (readS1 a s)))
          ∧ exec (.jdone h) s = .next (issued h false s (jcbFault 34 s)))
        ∧ (p.thisRun = false → exec (.jraise h a) s = .next (issued h false s (readS1 a s)) ∧ exec (.jdone h) s = .next (issued h false s s)))
      ∧ (Ready h [] s → p.posted = false → 2 ^ 32 ≤ p.pend.toNat + (srcSa s.tile.regs a).toNat →
        exec (.jraise h a) s = .next (issued h false s (jcbFault 33 (readS1 a s))))
      ∧ (commitHeld s = false →
        (Ready h [] s → p.schedN.toNat ≤ p.schedPos.toNat →
          exec (.next h d pe) s =
            .next (issued h false s (onPlace (fun p => { p with schedProg := false })
              (pushRes 0 2 0 (.gp d 0 (physP s.tile.regs pe) true) (commitPend s)))))
        ∧ (Ready h [acc item 4 false] s → p.schedPos.toNat < p.schedN.toNat →
          (firstPoison s.tile.mem item 4 = none → exec (.next h d pe) s =
            .next (issued h false s (onPlace (fun p => { p with schedPos := p.schedPos + 1, schedProg := true })
              (pushRes 0 2 0 (.gp d (BitVec.ofNat 64 (readB s.tile.mem.spad item 4)) (physP s.tile.regs pe) false) (commitPend s)))))
          ∧ ∀ b, firstPoison s.tile.mem item 4 = some b → Takes (poisonAt b) (.next h d pe) s))
      ∧ (p.pend = 0 → commitPend s = s)
      ∧ (p.pend ≠ 0 → ∀ u, jcbUpdate (jcbOf (ownBind s)) p.pend.toNat 0 (onPlace (fun p => { p with pend := 0 }) s) = .done u → commitPend s = u)

/-! ## Matrix, Coppice, copy and board at issue -/

/-- R218, R220, R241, R247, R259, R262: with a place in the matrix queue, a matrix call whose checks pass enters its job, and MLDR, CPBIND,
CPINV, CPSAV and CPRST enter theirs. -/
def Obligations.MatrixJobsEnterTheQueue : Prop :=
  ∀ (s : State) (h : Hdr) (rt tag : BitVec 8) (pa pb : BitVec 3) (a b : Src), s.tile.eng.mq.length < 4 →
    (∀ c, Ready h (hdrAccess s.tile) s → hdrPoison s.tile = none →
      (checkCall s.tile false rt tag (pa.toNat + 1) (pb.toNat + 1) = .ok c →
          exec (.mcall h rt tag pa pb) s = .next (issued h false s (mqPush (.call c) (callFp c) s)))
        ∧ (checkCall s.tile true rt tag (pa.toNat + 1) (pb.toNat + 1) = .ok c →
          exec (.mcalld h rt tag pa pb) s = .next (issued h false s (mqPush (.calld c) (callFp c) s))))
      ∧ (Ready h [] s →
        let x := srcMaG s.tile.regs a
        let y := srcMbG s.tile.regs b
        (mldrBad s.tile x y = false →
            exec (.mldr h a b) s =
              .next (issued h false s (mqPush (.mldr x.toNat y)
                [{ base := x.toNat, len := 4 * (field y.toNat 23 12 + 1), write := false }] (readM2 a b s))))
          ∧ exec (.cpbind h a b) s = .next (issued h false s (mqPush (.cpbind x y) [] (readM2 a b s)))
          ∧ exec (.cpsav h a b) s = .next (issued h false s (mqPush (.cpsav x y) [] (readM2 a b s)))
          ∧ exec (.cprst h a b) s = .next (issued h false s (mqPush (.cprst x y) [] (readM2 a b s)))
          ∧ exec (.cpinvLayer h a) s = .next (issued h false s (mqPush (.cpinv (some (x.extractLsb' 0 16))) [] (readM1 a s)))
          ∧ exec (.cpinvAll h) s = .next (issued h false s (mqPush (.cpinv none) [] s)))

/-- R220, R223, R240, R310, R313, R415: a matrix call that fails a check keeps the running job only, and a copy card that is refused leaves the queues as they are;
each records its tag and cause and raises ENGINE for the next boundary. Which jobs the rule abandons is read as log entry 15 says. -/
def Obligations.RefusedEngineJobsFault : Prop :=
  ∀ (s : State) (h : Hdr) (rt tag : BitVec 8) (pa pb : BitVec 3) (n : Nat) (a : Word) (q : BitVec 2), s.tile.ctl.run = .running →
    (s.tile.eng.mq.length < 4 → Ready h (hdrAccess s.tile) s → hdrPoison s.tile = none →
      checkCall s.tile false rt tag (pa.toNat + 1) (pb.toNat + 1) = .error n →
      ∃ u, exec (.mcall h rt tag pa pb) s = .next u ∧ u.tile.eng.mfault = true ∧ u.tile.eng.mftag = tag
        ∧ u.tile.eng.mfcause = BitVec.ofNat 8 n ∧ u.tile.eng.mrun = s.tile.eng.mrun
        ∧ u.tile.eng.mq = (if s.tile.eng.mrun.isSome then s.tile.eng.mq.take 1 else [])
        ∧ ∃ f, u.tile.ctl.deferred = s.tile.ctl.deferred ++ [f] ∧ f.code = 0x08 ∧ f.cause = n ∧ f.tag = tag.toNat ∧ f.engine = 1)
      ∧ (cardCause s.tile (cardAt s.tile a) (BitVec.ofNat 64 (cardFar (cardAt s.tile a))) false = some n →
        let u := enterCopy s a none q s
        u.tile.eng.cq = s.tile.eng.cq ∧ u.tile.eng.cftag[q.toNat]'q.isLt = cardTag (cardAt s.tile a)
          ∧ u.tile.eng.cfcause[q.toNat]'q.isLt = BitVec.ofNat 8 n ∧ u.tile.eng.cfault.getLsbD q.toNat = true
          ∧ ∃ f, u.tile.ctl.deferred = s.tile.ctl.deferred ++ [f] ∧ f.code = 0x08 ∧ f.cause = n ∧ f.engine = 2 + q.toNat)

/-- R216, R217, R235 to R239, R242, R264: MSET writes a parameter register; MZR, MRD and MWR act on the accumulators once no call claims them;
MDRN and CPQRY wait for an empty queue. -/
def Obligations.AccumulatorAndParameterInstructions : Prop :=
  ∀ (s : State) (h : Hdr) (d : Reg) (a b : Src) (mp : BitVec 3), Ready h [] s →
    let r := s.tile.regs
    exec (.mset h mp a) s = .next (issued h false s (onRegs (fun r => { r with mp := r.mp.set mp.toNat (srcMaG s.tile.regs a) mp.isLt })
        (readM1 a s)))
      ∧ (claimed s = false →
        exec (.mzr h) s = .next (issued h false s (onMem (fun m => { m with acc := [], aovf := false }) s))
          ∧ exec (.mrd h d a) s =
            .next (issued h false s (pushRes 2 11 0 (.v (physV r d) (BitVec.allOnes 2048)
              (readSlice s.tile.mem (accSlice (srcMaG r a)))) (readM1 a s)))
          ∧ exec (.mwr h a b) s =
            .next (issued h false s (onMem (writeSlice (accSlice (srcMbG r b)) (srcMa r a))
              (latchMb b ((srcMbG r b).setWidth 2048) (latchMa a (srcMa r a) s)))))
      ∧ (s.tile.eng.mq = [] →
        exec (.mdrn h) s = .next (issued h false s s)
          ∧ exec (.cpqry h d a) s = .next (issued h false s (toG 2 2 d (cpqryValue s.tile (srcMaG r a)) (readM1 a s))))

/-- R281, R283, R298, R299, R302, R311 to R314: a copy or board card that passes its checks enters its queue; CDRN passes an empty queue;
CKILL drops the waiting jobs and kills the others; LAPW passes once the tile has come to the lap. -/
def Obligations.CopyAndBoardInstructions : Prop :=
  ∀ (s : State) (h : Hdr) (c x : Reg) (q : BitVec 2) (sel : QSel) (win : Window) (rep : Bool),
    let ca := readG s.tile.regs c
    let card := cardAt s.tile ca
    let far := BitVec.ofNat 64 (cardFar card)
    let moved := displace card (readG s.tile.regs x)
    (Ready h [acc ca.toNat 64 false] s → InReach s.tile ca 64 64 → firstPoison s.tile.mem ca.toNat 64 = none →
      (queueOf s.tile q).length < 16 →
      (cardCause s.tile card far false = none →
        exec (.cpy h c q) s = .next (issued h false s (onEng nextSerial (onQueue q (· ++ [copyJobOf s ca far false]) s))))
        ∧ (cardCause s.tile card moved.1 moved.2 = none →
          exec (.cpys h c x q) s = .next (issued h false s (onEng nextSerial (onQueue q (· ++ [copyJobOf s ca moved.1 true]) s)))))
      ∧ (Ready h [acc ca.toNat 32 false] s → InReach s.tile ca 32 32 → firstPoison s.tile.mem ca.toNat 32 = none →
        s.tile.eng.bq.length < 8 → boardBad s.tile (boardCard s.tile ca.toNat) = false →
        exec (.board h win rep c) s =
          .next (issued h false s (onEng (fun e => nextSerial { e with bq := e.bq ++ [boardJobOf s ca.toNat win rep] }) s)))
      ∧ (Ready h [] s → (∀ q ∈ selected sel, queueOf s.tile q = []) → exec (.cdrn h sel) s = .next (issued h false s s))
      ∧ (Ready h [] s → (readG s.tile.regs x).toNat ≤ lapOf s.flume s.cur → exec (.lapw h x) s = .next (issued h true s s))
      ∧ (Ready h [] s → exec (.ckill h sel) s = .next (endCycle h.pp s (killQueues (selected sel) (advance s s))))

/-! ## The matrix engine -/

/-- R224, R225, R228 to R232, R260: each micro-op of a running routine has the effect its row gives and goes on to the slot after it, the counters of
R229 counting; END completes the call, and the oldest panel load arrives whole. In a gang that is to be discarded YLD and END stop the
job with no write-back and no update. That INIT empties the loads still on the port is log entry 83. -/
def Obligations.MicroOpsRun : Prop :=
  ∀ (s : State) (c : MCallSnap) (r : MRun) (a b : BitVec 1) (t : PaddTgt) (i : BitVec 24) (p : BitVec 3) (ctr : BitVec 1)
    (src : BitVec 4) (len1 : BitVec 6) (slot : BitVec 12), runCall s.tile.eng = some (c, r) → r.upc ≤ 4095 →
    let goes (r' : MRun) (u : State) : Host.Outcome State Fault Refusal := .next (setRun (slotDone r.upc r') u)
    let m := s.tile.mem
    exec .uInit s = goes { r with aptr := callA c, bptr := callB c, kb := callKb0 c, sums := [], a0 := {}, a1 := {}, b0 := {}, b1 := {}
                                  loads := [] } s
      ∧ (discarding s = false → exec .yld s = goes { r with y := 0 } s)
      ∧ (discarding s = true → exec .yld s = .next (stopJob s) ∧ (stopJob s).tile.mem = s.tile.mem ∧ (stopJob s).tile.eng.ents = s.tile.eng.ents
        ∧ exec .uopEnd s = .next (stopJob s))
      ∧ exec (.padd t) s = goes (paddTo t (padStep c t) r) s
      ∧ exec (.paddImm t i) s = goes (paddTo t i.toInt r) s
      ∧ exec .uopEnd s = .next (completeCall c r s)
      ∧ (LoadInside c r false → exec (.lda b) s = goes (loadIssued c r false b) s)
      ∧ (LoadInside c r true → exec (.ldb b) s = goes (loadIssued c r true b) s)
      ∧ (loadPending r false b = false → (bufOf r false b).st = .packed →
          exec (.pat b) s = goes (setBuf false b (expandBuf c r.kb (bufOf r false b)) r) s)
      ∧ (StepReady r a b → p.toNat < c.pa → r.y + 32 ≤ 256 →
          exec (.step a b p) s = goes { r with y := r.y + 32, sums := stepSums s c r a b r.sums p.toNat } s)
      ∧ (StepReady r a b → r.y + 32 * c.pa ≤ 256 →
          exec (.stepAll a b) s = goes { r with y := r.y + 32 * c.pa, sums := (upTo c.pa).foldl (stepSums s c r a b) r.sums } s)
      ∧ exec .shacc s =
          goes { r with sums := [], ovf := r.ovf || (shaccMem r (accShift s c r) m).2 } (onMem (fun _ => (shaccMem r (accShift s c r) m).1) s)
      ∧ (let len := len1.toNat + 1
         rptBad r ctr r.upc len = false →
          (rptCount c src = 0 → exec (.rpt ctr src len1) s = .next (setRun (slotDone (r.upc + len) r) s))
          ∧ (rptCount c src ≠ 0 → exec (.rpt ctr src len1) s =
              .next (setRun { armCounter ctr { left := rptCount c src, first := r.upc + 1, last := r.upc + len } r with upc := r.upc + 1 } s)))
      ∧ (r.upc < slot.toNat → scalesClean m c = true →
          (allZero m c r false || allZero m c r true) = false → exec (.zgt slot) s = goes r s)
      ∧ (r.upc < slot.toNat → scalesClean m c = true →
          (allZero m c r false || allZero m c r true) = true → exec (.zgt slot) s =
            .next (setRun { r with upc := slot.toNat, l0 := leaveBody slot.toNat r.l0, l1 := leaveBody slot.toNat r.l1 } s))
      ∧ ∀ ofB buf addr kb rest, r.loads = (ofB, buf, addr, kb) :: rest → loadPoisoned m c r ofB addr = false →
          exec .panelLoadArrival s =
            .next (setRun (setBuf ofB buf { bufOf r ofB buf with words := if ofB then loadB s.tile c r addr else loadA m c r addr }
              { r with loads := rest }) s)

/-- R157, R216, R228, R238: element i of a slice written by MWR is bits 39:0 of lane i, every other accumulator keeps its value, and MRD reads
bits 63:40 as copies of bit 39; SHACC adds the shifted step sums to every accumulator and clamps each to 40 bits. -/
def Obligations.AccumulatorLaws : Prop :=
  ∀ (m : TMem) (r : MRun) (k sh : Nat) (v : VWord), smWf 0 m.acc = true → smWf 0 r.sums = true →
    (∀ i, i < 32 →
      smGet 0 (writeSlice k v m).acc (k + i) = v.extractLsb' (64 * i) 40
        ∧ laneN (readSlice (writeSlice k v m) k).toNat i 64 = ((v.extractLsb' (64 * i) 40).signExtend 64).toNat)
      ∧ (∀ n, n < k ∨ k + 32 ≤ n → smGet 0 (writeSlice k v m).acc n = smGet 0 m.acc n)
      ∧ ∀ n, n < 16384 →
        (smGet 0 (shaccMem r sh m).1.acc n).toInt =
          max (-(2 ^ 39)) (min ((smGet 0 m.acc n).toInt + smGet 0 r.sums n * 2 ^ sh) (2 ^ 39 - 1))

/-- R141, R146, R147, R158, R160, R161, R179, R181, R183, R185: what VCVT, QNT, SCACC, BSC and TLI make of one element, in rationals: their one rounding, or
TLI's two, of the exact value, and their special cases; and the order in which VRED and VSCAN combine lanes, with what they and BSC write. The sign of an exact zero in SCACC
and TLI is the model's choice (log entry 63); that a lane which met no other is written as an operand reads is log entry 61. -/
def Obligations.ConversionsAndReductions : Prop :=
  ∀ (src dst : ElemTy) (ftz sat : Bool) (rnd : Rnd) (x y : Nat) (adj : Nat) (q ea eb : Int) (tb : TliTable) (vs : List FVal) (planes : Nat)
    (op : RedOp) (k : Mask) (xs : List (Option Nat)) (n : Nat) (fl : FFlags) (va vb vc old : VWord),
    let v := decodeF (fmtOf src) ftz x
    let df := fmtOf dst
    let u := decodeF fp32 ftz x
    let w := decodeF fp32 ftz y
    let cvt := cvtElem dst src ftz rnd sat x
    let zero : Flagged Nat := (0, fNv)
    let limit (neg : Bool) : Nat := wrapN dst.bits (if neg then tyMin dst else tyMax dst)
    (src.isFloat = true → dst.isInt = true →
        match v with
        | .nan _ => cvt = zero
        | .inf neg => cvt = (limit neg, fNv)
        | .fin a m e => ConvertsTo dst rnd (datum (.fin a m e)) cvt)
      ∧ (src.isInt = true → dst.isFloat = true → RoundsTo df ftz rnd false (elemVal src x) cvt)
      ∧ (src.isInt = true → dst.isInt = true → cvt.2 = 0 ∧ cvt.1 = wrapN dst.bits
          (if sat = true then max (tyMin dst) (min (elemVal src x) (tyMax dst)) else elemVal src x))
      ∧ (src.isFloat = true → dst.isFloat = true → dst ≠ .fp32 → dst ≠ src → cvt = floatToFloat df ftz rnd v)
      ∧ (src ∈ [.bf16, .fp16, .fp32] → dst = .fp32 ∨ dst = src → Finite (fmtOf src) x → dst ∈ [.bf16, .fp16, .fp32] →
          cvt.2 = 0 ∧ encoded df cvt.1 = datum v)
      ∧ (match v with
          | .nan s => floatToFloat df ftz rnd v = (df.nan, if s then fNv else 0)
          | .inf neg => floatToFloat df ftz rnd v = (df.infBits neg, 0)
          | .fin a m e => RoundsTo df ftz rnd a (datum (.fin a m e)) (floatToFloat df ftz rnd v))
      ∧ (dst.isInt = true → let r := qntElem dst ftz rnd x y
          (isNan u = true ∨ isNan w = true ∨ (∃ s, w = .inf s) → r = zero)
            ∧ (∀ a m e, w = .fin a m e → isNan u = false →
              (m = 0 → (∀ b, u = .inf b → r = (limit b, fDz))
                ∧ ∀ b i d, u = .fin b i d → r = (if i = 0 then (0, fDz) else (limit b, fDz)))
              ∧ (m ≠ 0 → a = true → r = zero)
              ∧ (m ≠ 0 → a = false → (∀ b, u = .inf b → r = (limit b, fNv))
                ∧ ∀ b i d, u = .fin b i d → ConvertsTo dst rnd (datum u / datum w) r)))
      ∧ (ea = -128 ∨ eb = -128 → scaccElem ftz rnd adj q ea eb x = none)
      ∧ (ea ≠ -128 → eb ≠ -128 →
          match u with
          | .nan s => scaccElem ftz rnd adj q ea eb x = some (fp32.nan, if s then fNv else 0)
          | .inf neg => scaccElem ftz rnd adj q ea eb x = some (fp32.infBits neg, 0)
          | .fin a m e => ∃ r, scaccElem ftz rnd adj q ea eb x = some r
              ∧ RoundsTo fp32 ftz rnd (sumSign rnd m q.natAbs a false) (datum (.fin a m e) + q * (2 : ℚ) ^ (ea + eb + adj)) r)
      ∧ (∀ i, i < 64 → laneN ((old &&& ~~~(scaccOut .i32 rnd adj ftz k va vb vc old).mask)
            ||| ((scaccOut .i32 rnd adj ftz k va vb vc old).val &&& (scaccOut .i32 rnd adj ftz k va vb vc old).mask)).toNat i 32 =
          match (if k.getLsbD i = true then scaccElem ftz rnd adj (sextN 32 (laneN va.toNat i 32)) (sextN 8 (laneN vb.toNat i 8))
              (sextN 8 (laneN vc.toNat i 8)) (laneN old.toNat i 32) else none) with
          | some r => r.1 % 2 ^ 32
          | none => laneN old.toNat i 32)
      ∧ (2 ≤ planes → let cap : ℚ := 2 ^ (planes - 1) - 1
          let r := bscExp planes vs
          ((∃ t ∈ vs, isNan t = true ∨ ∃ s, t = .inf s) → r = (127, fNv))
            ∧ ((∀ t ∈ vs, isNan t = false ∧ ∀ s, t ≠ .inf s) →
              ((∀ t ∈ vs, datum t = 0) → r = (-128, 0))
              ∧ ((∃ t ∈ vs, datum t ≠ 0) → -127 ≤ r.1 ∧ r.1 ≤ 127
                ∧ ((∃ t ∈ vs, cap * 2 ^ 127 < |datum t|) → r = (127, fNv))
                ∧ ((∀ t ∈ vs, |datum t| ≤ cap * 2 ^ 127) → r.2 = 0 ∧ (∀ t ∈ vs, |datum t| ≤ cap * (2 : ℚ) ^ r.1)
                  ∧ (r.1 = -127 ∨ ∃ t ∈ vs, cap * (2 : ℚ) ^ (r.1 - 1) < |datum t|)))))
      ∧ (let r := tliElem df ftz rnd sat tb x
         let x0 := decodeF fp32 ftz tb.x0
         let at_ (i : Nat) (t : ℚ) : Prop :=
           ∀ a m e b j d, decodeF fp32 ftz (tb.entry i).2 = .fin a m e → decodeF fp32 ftz (tb.entry i).1 = .fin b j d →
             ∃ zneg r1 r2 r3, RoundsTo fp32 ftz rnd zneg (datum (.fin b j d) + datum (.fin a m e) * t) r1 ∧ Saturated fp32 sat r1 r2
               ∧ (df = fp32 → r3 = (r2.1, 0)) ∧ (df ≠ fp32 → r3 = floatToFloat df ftz rnd (decodeF fp32 false r2.1))
               ∧ Saturated df sat r3 (r.1, r3.2) ∧ r.2 = r2.2 ||| r3.2
         (∀ s a m e, x0 = .fin a m e → u = .nan s → r = (df.nan, if s then fNv else 0))
           ∧ ∀ a m e b j d, x0 = .fin a m e → u = .fin b j d → 0 < tb.n →
             let p : ℚ := (datum u - datum x0) / (2 : ℚ) ^ tb.step
             (0 ≤ p → p < tb.n → at_ ⌊p⌋.toNat (p - ⌊p⌋))
               ∧ (p < 0 → (tb.lo = 0 → at_ 0 0) ∧ (tb.lo = 2 → r = (0, 0)) ∧ (tb.lo = 3 → at_ 0 p)
                 ∧ (tb.lo = 1 → Saturated df sat (floatToFloat df ftz rnd u) r))
               ∧ (tb.n ≤ p → (tb.hi = 0 → at_ (tb.n - 1) 1) ∧ (tb.hi = 2 → r = (0, 0)) ∧ (tb.hi = 3 → at_ (tb.n - 1) (p - (tb.n - 1)))
                 ∧ (tb.hi = 1 → Saturated df sat (floatToFloat df ftz rnd u) r)))
      ∧ (let comb := combOpt op src ftz rnd
         comb none (some x) = (some x, 0) ∧ comb (some x) none = (some x, 0)
           ∧ (src.isInt = true → op = .add → comb (some x) (some y) = (some ((x + y) % 2 ^ src.bits), 0))
           ∧ (src.isInt = true → op = .min → comb (some x) (some y) = (some (wrapN src.bits (min (elemVal src x) (elemVal src y))), 0))
           ∧ (src.isInt = true → op = .max → comb (some x) (some y) = (some (wrapN src.bits (max (elemVal src x) (elemVal src y))), 0))
           ∧ (src.isFloat = true → let a := decodeF (fmtOf src) ftz x
              let b := decodeF (fmtOf src) ftz y
              comb (some x) (some y) = (match op with
                | .add => let r := fAdd (fmtOf src) ftz rnd a b; (some r.1, r.2)
                | .min => let r := fMinMax (fmtOf src) true a b; (some r.1, r.2)
                | .max => let r := fMinMax (fmtOf src) false a b; (some r.1, r.2)))
           ∧ (xs.length = 2 ^ (n + 1) → let a := redTree comb n (xs.take (2 ^ n)) 0
              let b := redTree comb n (xs.drop (2 ^ n)) 0
              let c := comb a.1 b.1
              redTree comb (n + 1) xs fl = (c.1, fl ||| a.2 ||| b.2 ||| c.2))
           ∧ (let l := (scanTree comb n 1 xs 0).1
              (scanTree comb (n + 1) 1 xs fl).1.length = xs.length ∧ ∀ i, (h : i < l.length) →
                (scanTree comb (n + 1) 1 xs fl).1[i]? =
                  some (if 2 ^ n ≤ i then (comb (l[i - 2 ^ n]?.getD none) l[i]).1 else l[i]))
           ∧ (src.isInt = true → asRead src ftz x = x)
           ∧ (src.isFloat = true → let a := decodeF (fmtOf src) ftz x
              (∀ b, a = .nan b → asRead src ftz x = (fmtOf src).nan)
                ∧ (∀ b e, a = .fin b 0 e → asRead src ftz x = (fmtOf src).signBit b)
                ∧ ((∀ b, a ≠ .nan b) → (∀ b e, a ≠ .fin b 0 e) → asRead src ftz x = x % 2 ^ src.bits))
           ∧ redTree comb 0 [some x] fl = (some x, fl) ∧ (scanTree comb 0 1 xs fl).1 = xs
           ∧ emptyRed .add src = 0
           ∧ (src.isInt = true → elemVal src (emptyRed .min src) = tyMax src ∧ elemVal src (emptyRed .max src) = tyMin src)
           ∧ (src.isFloat = true → decodeF (fmtOf src) ftz (emptyRed .min src) = .inf false
              ∧ decodeF (fmtOf src) ftz (emptyRed .max src) = .inf true)
           ∧ (let steps := Nat.log2 (lanesOf src.bits)
              let lanes := redLanes src k va
              let o := scanOut op src rnd ftz k va
              redOut op src rnd ftz k va = { mask := BitVec.allOnes 2048, flags := (redTree comb steps lanes 0).2,
                                             val := BitVec.ofNat 2048 (asRead src ftz ((redTree comb steps lanes 0).1.getD (emptyRed op src))) }
                ∧ ∀ i, i < lanesOf src.bits → laneN ((old &&& ~~~o.mask) ||| (o.val &&& o.mask)).toNat i src.bits =
                  if k.getLsbD i then asRead src ftz (((scanTree comb steps 1 lanes 0).1[i]?.getD none).getD 0) % 2 ^ src.bits else laneN old.toNat i src.bits))
      ∧ ∀ p1 : BitVec 3,
          let r := bscExp (p1.toNat + 1) (((List.range (lanesOf src.bits)).filter fun i => k.getLsbD i).map fun i => laneF src ftz va i)
          bscOut src p1 ftz k va = { mask := BitVec.allOnes 2048, val := BitVec.ofNat 2048 (wrapN 8 r.1), flags := r.2 }

/-- R219, R234, R239, R241, R247, R250, R252, R258, R259, R262: the oldest job of the matrix queue in its turn. An MCALL's routine starts at its entry
point; an MCALLD starts in full or in delta mode; MLDR writes its slots; CPBIND binds; CPINV clears; CPSAV and CPRST leave once their record
is written or taken, and run from their turn on while they wait for stores or a port. Broadcasts are applied between jobs, for which that turn
counts too (log entry 84); a gang that is to be discarded begins none (R260). -/
def Obligations.MatrixEngineTakesItsJobs : Prop :=
  ∀ (s : State) (j : MEntry) (rest : List MEntry),
    (s.tile.eng.mrun = none → exec .coppiceBroadcastApply s =
        .next (onEng (fun e => { s.tile.eng.bcasts.foldl (fun e l => clearEnts l e) e with bcasts := [] }) s))
      ∧ (EngineTurn s j rest →
        (∀ c, j.job = .call c → exec .matrixJobStart s =
            .next (setRun (freshRun s.tile c) (if (c.mp[4]).getLsbD 0 then zeroAcc s else s)))
          ∧ (∀ c, j.job = .calld c →
            let n := callEnt c
            let e := entOf s.tile.eng n
            n.toNat < s.tile.place.ecount → e.bound = true → e.layer = (c.mp[4]).extractLsb' 16 16 → needBytes (callShape c) ≤ e.size →
            (modeReason s.tile c e ≠ 0 → exec .matrixJobStart s =
                .next (setRun { freshRun s.tile c with mode := .full }
                  (onEng (setEnt n fun e => { e with reason := BitVec.ofNat 4 (modeReason s.tile c (entOf s.tile.eng n)) }) (zeroAcc s))))
              ∧ ∀ q, modeReason s.tile c e = 0 → scanPoisoned s.tile.mem c = false → scanGroup s.tile.mem c e = some q →
                exec .matrixJobStart s = .next (setRun { freshRun s.tile c with mode := .delta, q := q }
                  (onEng (setEnt n fun e => { e with reason := 0 }) (onMem (fun m => { m with acc := deltaAcc m c e }) s))))
          ∧ (∀ a d, j.job = .mldr a d → firstPoison s.tile.mem a (4 * (field d.toNat 23 12 + 1)) = none →
            exec .mldrJob s = .next (mqPop (onMem (mldrWrite a d) s)))
          ∧ (∀ a b, j.job = .cpbind a b → cpbindBad s.tile a b = false →
            exec .cpbindJob s = .next (mqPop (onEng (setEnt (a.extractLsb' 0 6) (boundEntry s.tile.place.vd a b)) s)))
          ∧ (∀ l, j.job = .cpinv l → exec .cpinvJob s = .next (mqPop (onEng (clearEnts l) s)))
          ∧ (∀ a b k bs s', j.job = .cpsav a b → standing j.wb = false → storesDone j s = true → cpEntBad s.tile a = false → b.toNat % 256 = 0 →
            let e := entOf s.tile.eng (a.extractLsb' 0 6)
            overPieces (recordWrite b (savedBytes s.tile e)) (piecesLeft (1 + e.size / 256) j.got) j.got (beginHead s) = (.done bs s', k) →
            exec .cpsavJob s = .next (mqPop s'))
          ∧ (∀ a b, (j.job = .cpsav a b ∧ (standing j.wb = true ∨ storesDone j s = false)) ∨ (j.job = .cprst a b ∧ storesDone j s = false) →
            exec (if j.job = .cpsav a b then .cpsavJob else .cprstJob) s = .next (beginHead s) ∧ mRuns (beginHead s).tile.eng = true)
          ∧ ∀ a b k k' hd bs s' s'', j.job = .cprst a b → storesDone j s = true → cpEntBad s.tile a = false → b.toNat % 256 = 0 →
            let n := a.extractLsb' 0 6
            let e := entOf s.tile.eng n
            overPieces (recordRead b) (piecesLeft 1 j.got) j.got (beginHead s) = (.done hd s', k) →
            recordTaken s'.tile e (ofBytes (hd.take 256)) →
            overPieces (recordRead b) (piecesLeft (1 + e.size / 256) hd) hd s' = (.done bs s'', k') →
            exec .cprstJob s = .next (mqPop (onEng (setEnt n (entryFrom (ofBytes (hd.take 256))))
              (onMem (fun m => { m with cpart := writeList e.offset (bs.drop 256) m.cpart }) s''))))

/-! ## Copy engines, boarding and the Flume -/

/-- R300, R304, R306, R309, R310, R314, R317, R324: a waiting copy job starts once its edges are satisfied and fewer than four run; pieces of a
running one move, as many as a step happens to bring (log entry 8); with all its bytes moved it leaves with its sync update, for which it waits, its
footprint released, where stores before it are pending; where a page holds a write it waits for that page; one that fails stops there; a killed job
leaves; a packet crosses one link a hop and is written where it has arrived. A piece moves bytes of one run in place order (log entry 9) and no byte
beside them. -/
def Obligations.CopyEngineSteps : Prop :=
  ∀ (s : State) (q : BitVec 2) (n : Nat) (j j' : CJob) (m : Nat) (s' : State) (p : Packet),
    (queueOf s.tile q)[n]? = some j →
      (j.st = .killed → j.packets = 0 → exec (.killedJobRelease q n) s = .next (onQueue q (·.eraseIdx n) s))
      ∧ ((queueOf s.tile q).findIdx? (·.st == .waiting) = some n → edgesClear s.tile.eng j.serial j.fp = true →
        ((queueOf s.tile q).filter (·.st == .running)).length < 4 →
        exec (.copyJobStart q) s = .next (onQueue q (fun js => js.set n { j with st := .running }) s))
      ∧ (j.st = .running → standing j.wb = false → relHeld s.tile j = false →
        (movePieces q (copyFuel s) j { s with fresh := s.fresh + 1 } = (j', .moved m s') →
          let t := onQueue q (fun js => js.set n j') s'
          let all := cardTotal j'.card ≤ j'.moved ∧ j'.packets = 0
          (¬all → exec (.copyJobComplete q n) s = .next t)
            ∧ (all → updateHeld s'.tile j' = false → exec (.copyJobComplete q n) s = .next (copyDone q n j' t))
            ∧ (all → updateHeld s'.tile j' = true →
              exec (.copyJobComplete q n) s = .next (onQueue q (fun js => js.set n { j' with fp := [] }) s')))
        ∧ (movePieces q (copyFuel s) j { s with fresh := s.fresh + 1 } = (j', .stall none s') →
          exec (.copyJobComplete q n) s = .next (onQueue q (fun js => js.set n j') s'))
        ∧ (∀ h, movePieces q (copyFuel s) j { s with fresh := s.fresh + 1 } = (j', .stall (some h) s') →
          exec (.copyJobComplete q n) s =
            .next (countHold s'.tile.place.vd j'.wb h (onQueue q (fun js => js.set n { j' with wb := some (rehold j'.wb h) }) s')))
        ∧ (∀ a bs, cardDir j.card = 3 → cardCnt1 j.card = 1 → cardCnt2 j.card = 1 → j.moved < cardLen0 j.card →
          firstPoison s.tile.mem (cardSaddr j.card) (cardLen0 j.card) = none → movePiece q j s = .moved m s' →
          bs = readList s.tile.mem.spad (cardSaddr j.card + j.moved) m → a = (farBase j.card j.far).toNat + j.moved →
          m ≤ 64 ∧ 0 < m ∧ j.moved + m ≤ cardLen0 j.card ∧ (∀ b, b < a ∨ a + m ≤ b → smGet 0 s'.tile.mem.spad b = smGet 0 s.tile.mem.spad b)
            ∧ ((localHull j.card).2 < a ∨ (a + m : Int) ≤ (localHull j.card).1 → Memory.wf s.tile.mem.spad = true →
              readList s'.tile.mem.spad a m = bs))
        ∧ ∀ cause x, movePieces q (cardTotal j.card - j.moved) j s = (j', .fail cause x s') →
          exec (.copyJobRunFault q n) s = .next (copyRunFault q n cause x j' s'))
      ∧ (s.packets[n]? = some p →
        let src := getTile p.src s
        (routeDir src.place.w src.place.h p = none → overtakes s.packets n p = false →
          exec (.s2tPacketHop n) s = .next (deliver n p s))
        ∧ ∀ d x y, routeDir src.place.w src.place.h p = some d → neighbour src.place.w src.place.h p.x p.y d = some (x, y) →
          linkStopped s src p x y = false →
          exec (.s2tPacketHop n) s = .next { s with packets := s.packets.set n { p with x := x, y := y } })

/-- R285, R286, R291: a waiting board job whose edges are satisfied is armed on the next flit to reach its tile; one that is done or has missed
its window, once every byte it captured is written, writes its card, its header version where done, and its sync update, and leaves. -/
def Obligations.BoardJobsArmAndComplete : Prop :=
  ∀ (s : State) (n : Nat) (j : BJob), s.tile.eng.bq[n]? = some j →
    (j.st = .waiting → edgesClear s.tile.eng j.serial j.fp = true →
        exec (.boardArm n) s =
          .next (onEng (fun e => { e with bq := e.bq.set n { j with st := armState s.flume s.cur s.tile.place.vd j } }) s))
      ∧ (hasStaged j s.tile.eng = true → exec (.boardComplete n) s = .next s)
      ∧ ∀ status version lap badtile, hasStaged j s.tile.eng = false → j.st = .over status version lap badtile → status.getLsbD 0 = true ∨ status.getLsbD 3 = true →
        let s2 := if status.getLsbD 0 && bcHv j.card then onMem (spadStore (bcHdr j.card + 6) 2 version.toNat) s else s
        let s3 := onEng (fun e => { e with bq := e.bq.eraseIdx n }) (onMem (writeCard j.cardAddr status version lap badtile) s2)
        exec (.boardComplete n) s = .next (if bcSe j.card then onMem (syncAdd (bcSync j.card) (256 * bcLength j.card)) s3 else s3)

/-- R266 to R268, R274, R278, R279, R478, R503: in a cycle with a lane step the position advances by one and after the last a new lap begins; without one it
stands. A half that may be published, with the access sets then open, governs from its lap, or at once through a forced boundary while the lap
has no pace or no length. That outside Active none with a pace is published is the model's choice (log entry 90): R478 does not say what the Yarder
publishes; the order in which a tile's staged flit drains and the next arrive is log entry 95. -/
def Obligations.FlumeSteps : Prop :=
  ∀ (s : State) (from_ : Nat) (m : LapHalf), s.flume.laps ≠ [] →
    (∃ u, exec .laneStep s = .next u ∧ u.tile.mem = (laneTile s.flume s.mem s.ticks s.cur s.tile).mem
        ∧ (laneStepDue s.flume = false → u.flume.steps = s.flume.steps ∧ u.flume.pos = s.flume.pos ∧ topLap u.flume = topLap s.flume)
        ∧ (laneStepDue s.flume = true → u.flume.steps = s.flume.steps + 1
          ∧ (s.flume.pos + 1 ≠ topLen s.flume → u.flume.pos = s.flume.pos + 1 ∧ topLap u.flume = topLap s.flume)
          ∧ (s.flume.pos + 1 = topLen s.flume → u.flume.pos = 0 ∧ (topLap u.flume).lap = (topLap s.flume).lap + 1)))
      ∧ (halfOk m = true → namesKept m s = true → s.mod.power = .active → topLen s.flume ≠ 0 → topPace s.flume ≠ 0 →
        (topLap s.flume).lap < from_ →
        exec (.lapMapPublish from_ m) s = .next (flumePins { readRafts m s with flume := publishHalf from_ (withAccess s m) s.flume }))
      ∧ (s.mod.power ≠ .active → m.pace ≠ 0 → exec (.lapMapPublish from_ m) s = .next s)
      ∧ (halfOk m = true → namesKept m s = true → s.mod.power = .active → topLen s.flume = 0 ∨ topPace s.flume = 0 →
        ∃ u, exec (.lapMapPublish from_ m) s = .next u ∧ (topLap u.flume).lap = (topLap s.flume).lap + 1
          ∧ governing u.flume ((topLap s.flume).lap + 1) = withAccess s m)

/-! ## The tile's own steps -/

/-- R16, R49, R68, R69, R77, R80: results that are due land; a tile whose watchdog has run out before a bundle that is no point takes WATCHDOG; a page
that holds the tile is put into a frame, or raises FETCH cause 2 at its first byte of the bundle, as one that cannot be read does (log entry 58);
a fetch above the space, of a page without a map entry or of an absent page raises its cause; a tile asked to halt stops where it is held; an
ended tile with empty queues that has posted is freed. -/
def Obligations.TileSteps : Prop :=
  ∀ (s : State) (p : Pending) (ws : List Word) (is : List Instr) (n : Nat) (a : Word) (e : PageEnt) (bs : List Byte) (s' : State),
    (s.tile.regs.inflight = [p] → isDue p = true →
        exec .resultLanding s = .next (onRegs (fun r => landOne { r with inflight := [] } p) s))
      ∧ (s.tile.ctl.run = .running → s.tile.ctl.gacc = none → s.tile.ctl.bubble = false → s.tile.ctl.deferred = [] →
        s.tile.ctl.fillLeft = 0 → fetchBundle s.tile s.tile.ctl.pc = .ok ws → decodeBundle ws = .ok is →
        s.tile.place.ppmax ≤ s.tile.ctl.wdog → isPoint (bundleOps ws 0 is) = false ∨ boundaryInPhase s = true →
        exec .watchdog s = .next (takeFault (watchdogFault s) s))
      ∧ (s.tile.ctl.run = .running → missingPage s = some (n, a) → pageEnt s.tile n = some e →
        (pageBytes s.tile.place.vd s.tile.place.image e s = (some bs, s') →
          let f : Frame := { digest := s.tile.place.digest, page := n, words := pageWords bs }
          exec .overlayPageIn s = .next (if Config.shake256 bs = e.hash then
            onCtl (fun c => { c with frames := placeFrame f.digest (heldPages s'.tile (f :: c.frames) a 4) f c.frames }) s'
            else takeFault (fetchFault 2 (firstOnPage a n)) s'))
        ∧ (pageBytes s.tile.place.vd s.tile.place.image e s = (none, s') →
          exec .overlayPageIn s = .next (takeFault (fetchFault 2 (firstOnPage a n)) s')))
      ∧ (let t := cycleStart s
         let pc := t.tile.ctl.pc
         s.tile.ctl.run = .running → t.tile.ctl.run = .running → t.tile.ctl.deferred = [] → t.tile.ctl.gacc = none → t.tile.ctl.bubble = false →
         innermost t.tile.ctl = none →
         (0xFFFFF < pc.toNat → exec .bundleIssue s = .next (takeFault (fetchFault 0 pc) t)
            ∧ (takeFault (fetchFault 0 pc) t).tile.ctl.fltaddr = pc ∧ (takeFault (fetchFault 0 pc) t).tile.ctl.pc = pc &&& 0xFFFFF)
          ∧ (pc.toNat ≤ 0xFFFFF → frameOf t.tile (pc.toNat / 4096) = none →
            (pageEnt t.tile (pc.toNat / 4096) = none → exec .bundleIssue s = .next (takeFault (fetchFault 1 pc) t))
            ∧ ∀ e, pageEnt t.tile (pc.toNat / 4096) = some e → e.state = 0 → exec .bundleIssue s = .next (takeFault (fetchFault 3 pc) t)))
      ∧ (s.tile.ctl.run = .running → mayHalt s = true → s.tile.ctl.deferred = [] → s.tile.ctl.gacc.isSome = true →
        ∃ u, exec .tileHalt s = .next u ∧ u.tile.ctl.run = .stopped ∧ u.tile.ctl.haltReq = false ∧ u.tile.eng.mon = none
          ∧ u.tile.ctl.pc = s.tile.ctl.pc ∧ u.tile.mem = s.tile.mem ∧ u.tile.regs = drainResults s.tile.regs)
      ∧ (s.tile.ctl.run = .ended → queuesEmpty s.tile.eng = true → s.tile.place.posted = true →
        exec .tileFree s = .next (freeDrained (leaveIfFree (leaveIfEnded (markFree s)))))

/-- R41 to R45, R63, R68: when a bundle is fetched at the program counter and decodes, and nothing of R77, R80, R82 or R84 intervenes, a step of the tile
is the issue of its syllables, on the state that the cycle's start has brought, with the pages fetched from marked as used and the banks its accesses
take kept from the engines (log entry 94), and the body of a LOOP passed by a false guard noted as ordinary code (log entry 81); the turn is over, and
BUNDLE_ISSUE alone does the same. Of a bundle that nothing holds and that raises no
fault, every syllable whose guard holds takes effect in slot order, each on what the earlier left (log entry 7) and on the operands at issue. A bundle of
one syllable that raises no ILLEGAL is that syllable's own meaning. -/
def Obligations.AStepRunsTheDecodedBundle : Prop :=
  ∀ (s : State) (p : Nat) (rest : List Turn) (ws : List Word) (is : List Instr), s.agenda = .issue p :: rest → p < 512 → s.mod.power ≠ .fatal →
    let s1 := focusOn p s
    let s2 := cycleStart s1
    let s3 := notePages (fetchedPages s2.tile s2.tile.ctl.pc ws.length) s2
    let ops := bundleOps ws 0 is
    let s4 := takeBanks (banksTaken ops s3) s3
    s1.tile.ctl.run = .running → s2.tile.ctl.run = .running → s2.tile.ctl.deferred = [] → s2.tile.ctl.gacc = none →
    s2.tile.ctl.bubble = false → refill s2.tile = none → fetchBundle s2.tile s2.tile.ctl.pc = .ok ws → decodeBundle ws = .ok is →
    mayHalt s3 = false → s3.tile.ctl.wdog < s3.tile.place.ppmax → needsFill is s3.tile.ctl = false →
    (exec .bundleIssue s1 = .next (notePlain is s3 (issueOps ops s4)) ∧ step s = .next { notePlain is s3 (issueOps ops s4) with agenda := rest })
      ∧ (interlocked s4.tile.regs = false → isHeld ops s4 = false → s4.tile.ctl.bankLeft.getD (bankHold ((guarded ops s4).flatMap (·.access s4))) = 0 →
        (∀ o ∈ guarded ops s4, o.fault5 s4 = none ∧ o.fault6 s4 = none) →
        ∀ o1 o2, guarded ops s4 = [o1, o2] →
          issueOps ops s4 = endCycle (isPoint ops) s4 (o2.post s4 (o1.post s4 (advance s4 (o2.eff s4 (o1.eff s4 s4))))))
      ∧ ∀ w i o, ws = [w] → is = [i] → slotOp i = some o →
        (o.on s4 = true → ∀ f, o.fault5 s4 = some f ∨ o.fault6 s4 = some f → f.code ≠ 0x01) → exec i s4 = .next (issueOps ops s4)

/-- Log entry 2, with R226, R442, R447: a turn of a routine runs the micro-op of its slot, a turn of an interface its oldest command, an event its step,
each on the tile the turn names; after a fatal error no turn but VD 0's reset does anything. With no turn left the clocks go on: CYCLE counts a
compute cycle, TIME a tick every 15 of them, or every 7.5 halved, or every step while the compute clock stands (log entry 47); ALIGN compares the TIMEs of two
compute cycles, and the budget of a running gang counts one (R28, R29, R331, R394, R482). Where recovery has accepted an image, the module resets then (R488, log
entry 43): the accepted image and what flash holds stay, and the start of the module comes first. -/
def Obligations.TurnsAndClocks : Prop :=
  ∀ (s : State) (p : Nat) (t : Turn) (rest : List Turn) (i : Instr) (vd : BitVec 8) (c : Cmd) (cs : List Cmd) (mc : MCallSnap) (r : MRun) (n : Nat),
    (s.mod.power ≠ .fatal →
      (s.agenda = .micro p :: rest → p < 512 → runCall (focusOn p s).tile.eng = some (mc, r) →
        decodeMicro (smGet 0 (focusOn p s).tile.mem.rstore r.upc) = some i → step s = keepAgenda rest (exec i (focusOn p s)))
      ∧ (s.agenda = .serve vd :: rest → (getVd vd s).cmdq = c :: cs → step s = keepAgenda rest (exec (commandInstr vd c) s))
      ∧ (s.agenda = .event p i :: rest → p < 512 → step s = keepAgenda rest (exec i (focusOn p s)))
      ∧ (s.agenda = .health n :: rest → step s = keepAgenda rest (exec (.healthRecord n) s)))
      ∧ (s.mod.power = .fatal → s.agenda = t :: rest → t ≠ .event 0 (.functionLevelReset 0) → step s = .next { s with agenda := rest })
      ∧ (s.agenda = [] → s.mod.power = .recovery → s.mod.rstat = .accepted → ∃ u, step s = .next u ∧ u.mod.power = .starting
        ∧ u.mod.fw = s.mod.fw ∧ u.mod.blob = s.mod.blob ∧ u.mem.flash = s.mem.flash ∧ u.mem.lines = [] ∧ u.agenda.head? = some (.event 0 .moduleStart)
        ∧ ∀ vd, (getVd vd u).tstate = .unlocked)
      ∧ (s.agenda = [] → ¬(s.mod.power = .recovery ∧ s.mod.rstat = .accepted) → ∃ u, step s = .next u ∧ u.mem.dmem = s.mem.dmem ∧ u.mem.hmem = s.mem.hmem ∧ u.flume = s.flume
        ∧ (s.mod.power = .fatal → u.tile.mem = s.tile.mem ∧ u.mem = s.mem)
        ∧ (clockRuns s.mod = false → u.mod.cycle = s.mod.cycle ∧ u.mod.time = s.mod.time + 1 ∧ u.mod.prevTime = s.mod.prevTime)
        ∧ (clockRuns s.mod = true → u.mod.cycle = s.mod.cycle + 1 ∧ u.mod.prevTime = s.mod.cycTime ∧ u.mod.cycTime = u.mod.time
          ∧ ((getBind n u).state = .running → (getBind n u).runc = (getBind n s).runc + 1)
          ∧ (let n := s.mod.sub + if s.mod.div then 4 else 2
             (n < 30 → u.mod.time = s.mod.time ∧ u.mod.sub = n) ∧ (30 ≤ n → u.mod.time = s.mod.time + 1 ∧ u.mod.sub = n - 30))))

/-! ## Translation, storage and records -/

/-- R366 to R372, R374, R376, R378, R379, R470 to R472, R476, R478: a miss is walked and its entry filled; a descriptor completes, once the accesses through
what it drops are performed, by dropping every entry of its target that overlaps its range, and its token is written; a current page-in and a
current page-out end as the Skidder's moves end, and a transfer that is no longer current is counted in STALE with flash unchanged; a cold page
begins to move out under write-block, with its place on flash reserved, unless the storage queue is full, flash has no room, a scope group table or a part of
LPDDR6 that belongs to no device lies there, or the module is in Doldrums; it is cold once its context's age has passed since a cluster last filled a
translation of it, and where none has, since the definition (log entry 107). -/
def Obligations.TranslationSteps : Prop :=
  ∀ (s s' : State) (c : Nat) (vd : BitVec 8) (va : Word) (write : Bool) (e : TlbEnt) (pa : Nat) (leaf : Word) (x : InvWait)
    (xs : List InvWait) (k : Skid) (n ctx : Nat) (cx : Session),
    (s.mod.power ≠ .doldrums → va.toNat < 0xFFFFC0000000 → mayRun (getVd vd s) = true →
        ((getCluster c s).tlb.find? fun e => e.vd == vd && e.base ≤ va.toNat && decide (va.toNat < e.base + e.size)) = none →
        walk vd va.toNat s = (.leaf e pa leaf, s') → e.res ≠ 2 →
        exec (.pageWalk c vd va write) s = .next (tlbFill c e s') ∧ (getCluster c (tlbFill c e s')).tlb.head? = some e)
      ∧ ((getVd vd s).invq = x :: xs →
        let through := accessThrough (invTarget x.desc) (invRange x.desc).1 (invRange x.desc).2 s
        let t := (sysWrite (invTarget x.desc) (invDone x.desc) (toBytes 8 x.desc.w3.toNat) true
            (invApply x.desc (modVd vd (fun v => { v with invq := xs }) s))).2
        (through = true → exec (.invalidationComplete vd) s = .next s)
          ∧ (through = false → (getVd (invTarget x.desc) t).snaphold = (getVd (invTarget x.desc) s).snaphold →
            exec (.invalidationComplete vd) s = .next t)
          ∧ (invKind x.desc = 0 → ∀ c, ∀ e ∈ (getCluster c (invApply x.desc s)).tlb, e.vd = invTarget x.desc → 2 ^ 48 ≤ e.base ∨ e.base + e.size = 0)
          ∧ (invKind x.desc = 1 → ∀ c, ∀ e ∈ (getCluster c (invApply x.desc s)).tlb, e.vd = invTarget x.desc →
              invHi x.desc ≤ e.base ∨ e.base + e.size ≤ invLo x.desc))
      ∧ ((getVd vd s).skid[n]? = some k →
        let through := accessThrough vd k.va (k.va + k.size) s
        (skidCurrent (getVd vd s) k = true → k.into = true → exec (.skidderTransferEnd vd n) s = .next (finishPageIn vd k s))
          ∧ (k.into = false → through = true → exec (.skidderTransferEnd vd n) s = .next s)
          ∧ (skidCurrent (getVd vd s) k = true → k.into = false → through = false →
            exec (.skidderTransferEnd vd n) s = .next (finishPageOut vd k s))
          ∧ (skidCurrent (getVd vd s) k = false → k.into = true ∨ through = false → ∃ u, exec (.skidderTransferEnd vd n) s = .next u
            ∧ (getVd vd u).stale = (getVd vd s).stale + 1 ∧ u.mem.flash = s.mem.flash))
      ∧ (((getVd vd s).skid.find? fun k => k.into && skidCurrent (getVd vd s) k && decide (k.va ≤ va.toNat ∧ va.toNat < k.va + k.size)) = some k →
        exec (.flashPageIn vd va) s = .next (finishPageIn vd k s))
      ∧ (((getVd vd s).sess.find? fun y => y.id.toNat == ctx && decide (y.base ≤ va.toNat ∧ va.toNat < y.base + y.bytes)) = some cx →
        (ringFull vd 3 1 s = true ∨ s.mod.power = .doldrums → exec (.coldPageOut vd ctx va) s = .next s)
        ∧ (pageCold (getVd vd s) cx e.base e.size s.mod.time = true → (getVd vd s).tstate ≠ .error → ringFull vd 3 1 s = false → s.mod.power ≠ .doldrums →
        walk vd va.toNat s = (.leaf e pa leaf, s') → e.res = 0 → e.size ≤ 65536 → (getVd vd s).skid.any (·.leafPa == pa) = false →
        let n := handleFor e.size s'
        4096 * n + e.size ≤ flashBytes → meetsScopes s' e.addr e.size = false → ownable e.addr e.size = true →
        exec (.coldPageOut vd ctx va) s = .next (modVd vd (fun v => { v with skid := v.skid ++
            [{ va := e.base, pa := e.addr, size := e.size, into := false, leafPa := pa, leaf := leaf, gen := cx.gen, bybind := false
               ctx := some cx.id, handle := n }] })
          (onMemSys (fun m => { m with nextHandle := n + e.size / 4096 })
            (dropRange vd e.base (e.base + e.size) (devWrite vd pa (toBytes 8 (leafWb leaf true).toNat) s'))))))

/-- R396, R397, R466, R467, R471, R489: a record is written at its ring's prod slot where there is room, is counted as lost where it may be, and otherwise
waits; a snapshot that is due, once the atomics past their port are performed (log entry 65), takes the next number, or is counted as skipped while two are unreleased; a record that a full queue drops, a page moved
in, a threshold or a health record, is queued, or dropped with overrun counted; a health record that is due is queued so for VD 0. At which step a health
record is posted, and so what its TIME field holds, is log entry 45. -/
def Obligations.RecordsAndSnapshots : Prop :=
  ∀ (s : State) (vd : BitVec 8) (q : BitVec 2) (r : Rec) (rs : List Rec) (unit : Nat),
    let v := getVd vd s
    let e := v.eq[q.toNat]'q.isLt
    (v.recs[q.toNat]'q.isLt = r :: rs → v.tstate ≠ .error → ringSet e = true →
        (ringUsed (ringHeader e) s + r.slots.length ≤ 2 ^ ringK e →
          exec (.eventRecordPost vd q) s = .next (recordGone vd q r (ringPut (ringHeader e) (ringK e) r.slots s)))
        ∧ (2 ^ ringK e < ringUsed (ringHeader e) s + r.slots.length →
          (r.drops = false → exec (.eventRecordPost vd q) s = .next s)
          ∧ (r.drops = true → exec (.eventRecordPost vd q) s =
            .next (hostWrite (ringHeader e + 12) 4 ((readB s.mem.hmem (ringHeader e + 12) 4 + 1) % 2 ^ 32) (recordGone vd q r s)))))
      ∧ (v.recs[q.toNat]'q.isLt = r :: rs → v.tstate ≠ .error → ringSet e = false →
        exec (.eventRecordPost vd q) s = .next (modVd vd (fun v => { v with eqdrop := v.eqdrop + 1 }) (recordGone vd q r s)))
      ∧ (atomicOut vd s = true → exec (.snapshot vd) s = .next s)
      ∧ (snapDue v s.mod.time = true → v.tstate ≠ .error → atomicOut vd s = false →
        (2 ≤ v.snaps.length → ∃ u, exec (.snapshot vd) s = .next u ∧ (getVd vd u).snapskip = v.snapskip + 1 ∧ (getVd vd u).snaps = v.snaps)
        ∧ (v.snaps.length < 2 → ∃ u, exec (.snapshot vd) s = .next u ∧ (getVd vd u).snapNo = v.snapNo + 1
          ∧ (getVd vd u).snaps = v.snaps ++ [{ num := v.snapNo + 1, copies := [] }] ∧ (getVd vd u).dirty = []
          ∧ (getVd vd u).snapAt = s.mod.time))
      ∧ (s.mod.healthDue.contains unit = false → exec (.healthRecord unit) s = .next s)
      ∧ (s.mod.healthDue.contains unit = true → ∃ u, exec (.healthRecord unit) s = .next u ∧ u.mod.healthDue.contains unit = false
        ∧ (smGet (0, 0) u.mod.health unit).1 = (smGet (0, 0) u.mod.health unit).2
        ∧ (ringFull 0 3 1 s = true → (getVd 0 u).recs = (getVd 0 s).recs ∧ let h := ringHeader (getVd 0 s).eq[3]
          u.mem = (hostWrite (h + 12) 4 ((readB s.mem.hmem (h + 12) 4 + 1) % 2 ^ 32) s).mem)
        ∧ (ringFull 0 3 1 s = false → ∃ w b, (getVd 0 u).recs[3] = (getVd 0 s).recs[3] ++ [w] ∧ w.drops = true
          ∧ w.slots = [b] ∧ b.extractLsb' 0 8 = 0x40 ∧ b.extractLsb' 192 64 = s.mod.time ∧ b.extractLsb' 112 16 = BitVec.ofNat 16 unit))
      ∧ ∀ (n : Fin 4) (x : BitVec 256),
        let d := queueOrDrop vd n x s
        let h := ringHeader v.eq[n]
        (ringFull vd n 1 s = true → d = hostWrite (h + 12) 4 ((readB s.mem.hmem (h + 12) 4 + 1) % 2 ^ 32) s)
          ∧ (ringFull vd n 1 s = false → (getVd vd d).recs[n] = v.recs[n] ++ [{ slots := [x], drops := true }] ∧ d.mem = s.mem)

/-! ## Gangs -/

/-- R386, R388 to R394, R419, R423: the Yarder binds a ready job that it may choose to an empty slot; a bound record whose region is free, and whose raft ids no published half renames, starts, every
tile running from address 0 with the registers of a launch; a gang is halted for a ready job of higher priority only: at once where the Flume is
idle, else at the next lap boundary or in time for the earliest deadline of those jobs, an earlier plan never put off; a slice that is over and that nobody wants is renewed, otherwise the gang halts,
under la at a lap boundary; a span of waiting ages its job. The round robin among equals, the place of a scope group
table, the wait for a raft's name and the rectangle made of several, for one ready job and for each of several, are log entries 29, 32, 88 and 92. -/
def Obligations.GangsAreBoundStartedAndHalted : Prop :=
  ∀ (s s1 s2 : State) (slot : Nat) (vd : BitVec 8) (stream : BitVec 16) (c0 r0 : BitVec 3) (st : StreamSt) (q : Ready) (j : Job)
    (i : Image) (bs : List Byte),
    let b := getBind slot s
    let halts (u : State) : Prop := (getBind slot u).state = .halting ∧ (getBind slot u).halt = true
        ∧ ∀ p ∈ gangTiles b, (getTile p s).ctl.run = .running → (getTile p u).ctl.haltReq = true
    (mayRun (getVd vd s) = true → (getVd vd s).streams.find? (·.num == stream) = some st → readyOf vd st s = some q → q.slot = none → headJob st = some j →
        imageOf vd j.image s = some i → inGrid c0.toNat r0.toNat q.w q.h = true → powered s.mod = true → admitted s q = true →
        mayChoose s q = true → slot < 64 → b.state = .empty →
        ∃ u, exec (.yarderBind slot vd stream c0 r0) s = .next u ∧ u.mod.power = .active
          ∧ getBind slot u = newBind vd st j i c0.toNat r0.toNat (activate s) ∧ u.mod.chosen = s.mod.chosen + 1)
      ∧ (b.state = .bound → b.resume = false → s.mod.power = .active → mayRun (getVd b.vd s) = true → regionFree b s = true →
        imageOf b.vd b.image s = some i → namesStand s.flume b.vd i = true → startCause b i s = (none, s1) → sysRead b.vd b.mbox 512 s1 = (some bs, s2) →
        (getVd b.vd (firstTotal b s2)).snaphold = (getVd b.vd s2).snaphold →
        ∃ u, exec (.gangStart slot) s = .next u ∧ (getBind slot u).state = .running ∧ (getBind slot u).start = u.mod.time
          ∧ (getBind slot u).runc = 0
          ∧ ∀ k, k < 8 * b.w * b.h → let t := getTile (tileOf b k) u
            t.ctl.run = .running ∧ t.ctl.pc = 0 ∧ t.regs = {} ∧ t.place.slot = some slot)
      ∧ (∀ qs, b.state = .running → preemptors slot s = qs → qs ≠ [] →
        let p := planHalts s qs b
        let now := topLen s.flume = 0 ∨ ∃ d, p.haltBy = some d ∧ d ≤ s.mod.time.toNat
        (∀ x, x ∈ qs ↔ x ∈ readyJobs s ∧ preempts s b x = true) ∧ (∀ x ∈ qs, b.prio < x.prio)
          ∧ (∀ x ∈ qs, ∀ d, x.due = some d → ∃ d', p.haltBy = some d' ∧ d' ≤ latestHalt s b d)
          ∧ (b.planned = false → qs = [q] → p.due = q.due ∧ p.haltBy = q.due.map (latestHalt s b))
          ∧ (∀ d, b.planned = true → b.haltBy = some d → ∃ d', p.haltBy = some d' ∧ d' ≤ d)
          ∧ ∃ u, exec (.haltRequest slot) s = .next u ∧ (getBind slot u).due = p.due ∧ (now → halts u)
            ∧ (¬now → (getBind slot u).state = .running ∧ (getBind slot u).planned = true ∧ (getBind slot u).haltBy = p.haltBy))
      ∧ (b.state = .running → preemptors slot s = [] →
        (∀ d, b.haltBy = some d → d ≤ s.mod.time.toNat → ∃ u, exec (.haltRequest slot) s = .next u ∧ halts u)
        ∧ ((∀ d, b.haltBy = some d → s.mod.time.toNat < d) → exec (.haltRequest slot) s = .next s))
      ∧ (b.state = .running → sliceOver b s.mod.time = true →
        (wanted (sliceDone slot s) slot b b.base = none → exec (.sliceEnd slot) s = .next (sliceRenewed slot s))
        ∧ (wanted (sliceDone slot s) slot b b.base = some q → ∃ u, exec (.sliceEnd slot) s = .next u ∧ (getBind slot u).due = q.due
          ∧ (b.la = true ∧ topLen s.flume ≠ 0 → (getBind slot u).state = .running ∧ (getBind slot u).planned = true)
          ∧ (b.la = false ∨ topLen s.flume = 0 → halts u)))
      ∧ ((getVd vd s).streams.find? (·.num == stream) = some st → readyOf vd st s = some q → q.slot = none → headJob st = some j →
        j.agedAt.toNat + qSlice (getVd vd s) ≤ s.mod.time.toNat →
        exec (.priorityAgeing vd stream) s = .next (modJob vd stream j.gen (agedJob j (qSlice (getVd vd s))) s))

/-- R100, R388, R419, R424, R431, R433, R434, R436, R438: a gang that has stopped, its traps posted (log entry 69), leaves where all its clusters
have ended, is marked for a discard where one chooses it, and otherwise for a save, by its own remaining allowance and no other (log entry 54); a save whose tiles have drained releases its pins, writes
its records and frees the clusters; a discard whose engines have stopped makes the record bound again; a resume whose header and records pass
their checks restores the gang, and one whose tag is wrong is refused with cause 4. -/
def Obligations.GangsAreSavedDiscardedAndResumed : Prop :=
  ∀ (s s1 s2 s3 s4 : State) (slot : Nat) (r : Option Int) (i : Image) (hdr bs x : List Byte) (recs : List (List Byte)),
    let b := getBind slot s
    let c := clusterOf (tileAt b 0 0)
    let hints := saveHints slot b
    (b.state = .halting → b.decided = false → (∀ p ∈ gangTiles b, (getTile p s).ctl.run ≠ .running ∧ (getTile p s).ctl.trapped = none) →
        let cs := choices slot s
        let s2 := lapNoted slot s
        let r := allowance b s.mod.time
        (cs.all (·.2 == .drain) = true → (∃ p ∈ gangTiles b, (getTile p s).ctl.run ≠ .free) →
            exec (.gangStopped slot r) s = .next (modBind slot (fun b => { b with state := .leaving, halt := false }) s2))
          ∧ (cs.all (·.2 == .drain) = false → cs.any (·.2 == .discard) = true →
            exec (.gangStopped slot r) s = .next (modBind slot (fun b => { b with decided := true, discard := true }) s2))
          ∧ (cs.all (·.2 == .drain) = false → cs.any (·.2 == .discard) = false →
            ∃ u, exec (.gangStopped slot r) s = .next u ∧ (getBind slot u).decided = true
              ∧ (getBind slot u).ended = (cs.filter (·.2 == .drain)).flatMap (·.1))
          ∧ ∀ r', r' ≠ r → exec (.gangStopped slot r') s = .next s)
      ∧ (b.state = .halting → b.decided = false → (∃ p ∈ gangTiles b, (getTile p s).ctl.run = .running ∨ (getTile p s).ctl.trapped.isSome = true) →
        exec (.gangStopped slot r) s = .next s)
      ∧ (b.state = .halting → b.saveBad = false → b.decided = true → b.discard = false → b.ended = [] →
        s1 = overTiles ((upTo (8 * b.w * b.h)).map (tileOf b)) recordCopies s →
        (∀ k, k < 8 * b.w * b.h → drainedTile s1 (tileOf b k) = true) →
        s2 = releasePins slot (overTiles ((upTo (8 * b.w * b.h)).map (tileOf b)) (settle b.cp) s1) → saveAll hints b s2 = .done x s3 →
        ∃ u, exec (.contextSave slot) s = .next u ∧ (getBind slot u).state = .saved ∧ (getBind slot u).resume = true
          ∧ ∀ k, k < 8 * b.w * b.h → (getTile (tileOf b k) u).place.slot ≠ some slot)
      ∧ (b.state = .halting → b.decided = true → b.discard = true →
        s1 = (heldTiles slot s).foldl (fun s p => unlinkRecs b.vd p s) (overTiles (heldTiles slot s) discardTile s) →
        (∀ p ∈ heldTiles slot s, enginesStopped s1 p = true) →
        ∃ u, exec (.gangDiscard slot) s = .next u ∧ (getBind slot u).state = .bound ∧ (getBind slot u).resume = false
          ∧ ∀ p ∈ gangTiles b, (getTile p u).place.slot ≠ some slot)
      ∧ (b.state = .bound → b.resume = true → s.mod.power = .active → mayRun (getVd b.vd s) = true → regionFree b s = true →
        imageOf b.vd b.image s = some i → readPieces c hints 16 b.save [] s = .done hdr s1 →
        let h := ofBytes (hdr.take 32)
        hdrW h = b.w → hdrH h = b.h → shapeAdmitted (getVd b.vd s1) b.w b.h = true → field h 7 0 = 1 → field h 63 56 = b.vd.toNat →
        field h 127 96 = b.image.toNat → readRecords hints b (field h 49 40) (upTo (8 * b.w * b.h)) [] s1 = .ok (some recs, s2) →
        (tagOk hdr recs.flatten = false → exec (.gangResume slot) s = .next (refuseResume slot b 4 s2))
          ∧ (tagOk hdr recs.flatten = true → readPieces c hints 2 b.mbox [] s2 = .done bs s4 →
            exec (.gangResume slot) s = .next (restoreGang slot b i (mailWords bs) recs s4)))

/-! ## Commands -/

/-- R318, R398, R404, R447 to R450, R455, R467: PUBLISH answers what the Landing's checks say and keeps an accepted image, with its scope group table built;
a range that does not translate comes before a length that step 1 refuses. RETIRE, OPEN, CLOSE, SUBMIT, MBOXW and JPOST act on their image,
stream or job and are answered with status 0; MBOXW and JPOST wait while their write is held for lack of a snapshot pool page. An opcode of no
command is answered with status 1. -/
def Obligations.ImageStreamAndJobCommands : Prop :=
  ∀ (vd : BitVec 8) (c : Cmd) (s t u w : State) (bs : List Byte) (st : StreamSt) (j : Job) (k : Nat),
    let v := getVd vd t
    (Heard vd c [allOnes64, allOnes64] false s t → v.quota.raw ≠ 0 → 0 < c.q3.toNat →
        (sysOk vd c.q2.toNat c.q3.toNat true false t = (false, w) → exec (.publish vd c) s = .next (answered vd c 1 0 w))
        ∧ (sysOk vd c.q2.toNat c.q3.toNat true false t = (true, w) →
          (2 ^ 28 < c.q3.toNat → exec (.publish vd c) s = .next (answered vd c 5 0 w))
          ∧ (c.q3.toNat ≤ 2 ^ 28 → sysRead vd c.q2.toNat c.q3.toNat w = (some bs, u) →
            exec (.publish vd c) s = .next (match landing v v.nextImage (scopePlace u) c.q2.toNat bs with
              | .error e => answered vd c e.1 e.2 u
              | .ok i => if quotaAdmits v i then
                  answered vd c 0 i.handle.toNat
                    (modVd vd (fun v => { v with images := v.images ++ [i], nextImage := v.nextImage + 1 }) (buildScopes i bs u))
                else answered vd c 3 0 u))))
      ∧ (Heard vd c [0xFFFFFFFF] false s t → (v.images.any fun i => i.handle == c.q2.extractLsb' 0 32 && !i.retired) = true →
        exec (.retire vd c) s = .next (answered vd c 0 0 (modVd vd (retireIn (c.q2.extractLsb' 0 32)) t)))
      ∧ (Heard vd c [0x7FFFF] false s t → v.quota.raw ≠ 0 → v.streams.any (·.num == cmdStream c) = false →
        field c.q2.toNat 18 16 ≤ qPmax v → (v.streams.filter (! ·.closed)).length < qStreams v →
        exec (.openStream vd c) s = .next (answered vd c 0 0 (modVd vd (fun v => { v with streams := v.streams ++
          [{ num := cmdStream c, prio := field c.q2.toNat 18 16 }] }) t)))
      ∧ (Heard vd c [0xFFFF] false s t → openStreamOf v (cmdStream c) = some st → st.jobs = [] →
        exec (.closeStream vd c) s = .next (answered vd c 0 0 (modVd vd (closeIn (cmdStream c)) t)))
      ∧ (Heard vd c [0xFFFFFFFF0007FFFF, allOnes64, allOnes64, allOnes64, 0xFFFFFFFF] false s t →
        c.q3.toNat % 32 = 0 → c.q4.toNat % 64 = 0 → c.q5.toNat % 4096 = 0 → c.q3.toNat < 2 ^ 48 → c.q4.toNat < 2 ^ 48 → c.q5.toNat < 2 ^ 48 →
        openStreamOf v (cmdStream c) = some st → (v.images.any fun i => i.handle == c.q2.extractLsb' 32 32 && !i.retired) = true →
        exec (.submit vd c) s = .next (answered vd c 0 v.genCtr.toNat (modVd vd (submitTo (cmdStream c) t.mod.time (newJob v.genCtr c st.prio)) t)))
      ∧ (Heard vd c [0x3FFFFFFFFF, allOnes64] false s t → knownJob v c = some j → j.slot = some k →
        let n := c.q2.extractLsb' 32 6
        let u := (mailWrite vd k n c.q3 t).2
        exec (.mboxw vd c) s = .next (if (getVd vd u).snaphold = v.snaphold then answered vd c 0 0 (mailCopied k n c.q3 u)
          else holdCmd vd c none t))
      ∧ (Heard vd c [0xFFFFFFFF] false s t → knownJob v c = some j →
        (jcbUpdate (jobJcb vd (cmdStream c) j) 0 1 t = .done u → exec (.jpost vd c) s = .next (answered vd c 0 0 u))
        ∧ (jcbUpdate (jobJcb vd (cmdStream c) j) 0 1 t = .held u → exec (.jpost vd c) s = .next (holdCmd vd c none u)))
      ∧ ((getVd vd s).tstate ≠ .error → sysOk vd (cmdDone c) 16 false true s = (true, t) → cmdResult vd c t = none →
        exec (.unknownOp vd c) s = .next (answered vd c 1 0 t))

/-- R70, R72, R388, R420, R436, R467 to R469: the three replies to a saved gang; MAPPAGE and RELOAD of overlay pages; session contexts defined and
removed; snapshots read and released. The order of a command's refusals is log entry 33. -/
def Obligations.ReplyPageAndContextCommands : Prop :=
  ∀ (vd : BitVec 8) (c : Cmd) (s t u w : State) (j : Job) (k : Nat) (bs : List Byte) (e : PageEnt) (i : Image),
    let v := getVd vd t
    let b := getBind k t
    let page := field c.q2.toNat 39 32
    (knownJob v c = some j → j.slot = some k →
        (Heard vd c replyMasks false s t → b.state = .saved →
          (b.resumable = true → b.await = true → exec (.replyResume vd c) s = .next (answered vd c 0 0
            (modBind k (fun b => { b with await := false, reply := some (c.q3, c.q4), agedAt := t.mod.time }) t)))
          ∧ exec (.replyRestart vd c) s = .next (answered vd c 0 0 (activate (modBind k (forRestart b.kept) t)))
          ∧ (endJob vd (cmdStream c) j t = some w → exec (.replyEnd vd c) s = .next (answered vd c 0 0 (modBind k (fun _ => {}) w))))
        ∧ (Heard vd c [0xFFFFFFFFFF, allOnes64] false s t → b.pages.find? (·.page == page) = some e → e.state = 0 →
          sysRead vd c.q3.toNat 4096 t = (some bs, u) →
          exec (.mappage vd c) s = .next (if Config.shake256 bs = e.hash then answered vd c 0 0 (onPages k (mapEnt page c.q3.toNat) u)
            else answered vd c 5 3 u))
        ∧ (Heard vd c [0xFFFFFFFFFF, allOnes64, allOnes64] false s t → imageOf vd b.image t = some i → 0 < c.q4.toNat → c.q4.toNat ≤ 2 ^ 28 →
          sysOk vd c.q3.toNat c.q4.toNat true false t = (true, w) → sysRead vd c.q3.toNat c.q4.toNat w = (some bs, u) →
          ∃ status value y, exec (.reload vd c) s = .next (answered vd c status value y)
            ∧ (∀ x, landing (getVd vd u) i.handle i.scopeAt c.q3.toNat bs = .error x → status = x.1 ∧ value = x.2 ∧ y = u)
            ∧ ∀ ni, landing (getVd vd u) i.handle i.scopeAt c.q3.toNat bs = .ok ni →
              (reloadDiffers i ni b.pages page = none → (ni.pages.any (·.page == page)) = true → status = 0 ∧ (getBind k y).digest = ni.digest)
              ∧ (i.head ≠ ni.head → status = 5 ∧ value = 0 ∧ y = u)))
      ∧ (Heard vd c sessionMasks false s t → c.q3.toNat % 65536 = 0 → c.q4.toNat % 65536 = 0 → c.q4.toNat ≠ 0 →
        c.q3.toNat + c.q4.toNat ≤ 0xFFFFC0000000 → v.sess = [] → 0 < qSessions v → deviceResident vd c.q3.toNat c.q4.toNat t = (true, u) →
        exec (.sessionDefine vd c) s = .next (answered vd c 0 0 (modVd vd (defineIn t.mod.time c) u)))
      ∧ (Heard vd c sessionMasks false s t → v.sess.any (·.id == c.q2.extractLsb' 0 32) = true →
        exec (.sessionRemove vd c) s =
          .next (answered vd c 0 0 (modVd vd (fun v => { v with sess := v.sess.filter (·.id != c.q2.extractLsb' 0 32) }) t)))
      ∧ (Heard vd c [0xFFFFFFFF, allOnes64, allOnes64] false s t → c.q3.toNat % 4096 = 0 → c.q3.toNat < 2 ^ 48 →
        v.snaps.any (·.num == field c.q2.toNat 31 0) = true → granuleAt vd (field c.q2.toNat 31 0) c.q3.toNat t = (some bs, u) →
        sysWrite vd c.q4.toNat bs true u = (true, w) → exec (.snapread vd c) s =
          .next (if (getVd vd w).snaphold = (getVd vd u).snaphold then answered vd c 0 0 w else holdCmd vd c none u))
      ∧ (Heard vd c [0xFFFFFFFF] false s t → v.snaps.any (·.num == field c.q2.toNat 31 0) = true →
        v.cmdBusy = [] → ∃ y, exec (.snaprel vd c) s = .next (answered vd c 0 0 y)
          ∧ (getVd vd y).snaps = v.snaps.filter fun x => decide (field c.q2.toNat 31 0 < x.num))

/-- R279, R375, R437, R442, R443, R449, R450, R473: the commands of VD 0. QUOTA that leaves every gang admitted sets the record and drops the target's
translations; one that does not first evicts the gangs concerned. ENROLL, POOL, PAIR and ACCESS set their field of an enabled target that is
neither locked nor running, and ACCESS publishes the access sets anew; SLOTS and DUMP write what they name. A QUOTA that waits for evictions is log entry 34, the
status of a target that is not enabled log entry 71. -/
def Obligations.ManagementCommands : Prop :=
  ∀ (c : Cmd) (s t u : State),
    let g := cmdTarget c
    let v := getVd g t
    let heard (masks : List (BitVec 64)) : Prop := Heard 0 c masks true s t
    ((v.enabled = false → (heard (recordMasks 0xFF) → exec (.quota 0 c) s = .next (answered 0 c 1 0 t))
        ∧ (heard (recordMasks 0x3FF) → exec (.enroll 0 c) s = .next (answered 0 c 1 0 t))
        ∧ (heard [0xFF, allOnes64, allOnes64] → exec (.pool 0 c) s = .next (answered 0 c 1 0 t))
        ∧ (heard [0xFF, 0x1FFFF] → exec (.accessOpen 0 c) s = .next (answered 0 c 1 0 t) ∧ exec (.accessClose 0 c) s = .next (answered 0 c 1 0 t))))
      ∧ (v.enabled = true → heard (recordMasks 0xFF) → quotaOk (cmdRecord c) = true → frozen v = false →
        (overQuota g { v with quota := { raw := cmdRecord c } } t = [] → exec (.quota 0 c) s =
          .next (answered 0 c 0 0 (dropAll g (modVd g (fun v => { v with quota := { raw := cmdRecord c } }) t))))
        ∧ (∀ k ks, overQuota g { v with quota := { raw := cmdRecord c } } t = k :: ks →
          exec (.quota 0 c) s = .next ((k :: ks).foldl (fun s k => evictGang k s) t)))
      ∧ (v.enabled = true → frozen v = false →
        (heard (recordMasks 0x3FF) → exec (.enroll 0 c) s = .next (answered 0 c 0 0
          (modVd g (fun v => { v with keys := v.keys.set (c.q2.extractLsb' 8 2).toNat (cmdRecord c) (c.q2.extractLsb' 8 2).isLt }) t)))
        ∧ (heard [0xFF, allOnes64, allOnes64] → poolOk g c.q3.toNat c.q4.toNat t = true → exec (.pool 0 c) s =
          .next (answered 0 c 0 0 (modVd g (fun v => { v with poolBase := c.q3.toNat, poolBytes := c.q4.toNat }) t)))
        ∧ (heard [0xFF, 0x1FFFF] →
          exec (.accessClose 0 c) s =
              .next (answered 0 c 0 0 (republish (modVd g (fun v => { v with models := v.models.filter (· != c.q3.extractLsb' 0 16) }) t)))
            ∧ (v.models.contains (c.q3.extractLsb' 0 16) = false → exec (.accessOpen 0 c) s =
              .next (answered 0 c 0 0 (republish (modVd g (fun v => { v with models := v.models ++ [c.q3.extractLsb' 0 16] }) t))))))
      ∧ (let l := c.q2.extractLsb' 0 2
         let p := c.q2.extractLsb' 8 8
         heard [0x1FFFF03] → (getVd p t).enabled = true → frozen (getVd p t) = false → exec (.pair 0 c) s = .next (answered 0 c 0 0
          (modVd p (fun v => { v with pairs := v.pairs.set l.toNat (if c.q2.getLsbD 24 then some (c.q2.extractLsb' 16 8) else none) l.isLt }) t)))
      ∧ (heard [allOnes64] → sysWrite 0 c.q2.toNat (slotTable t) true t = (true, u) → (getVd 0 u).snaphold = (getVd 0 t).snaphold →
        exec (.slots 0 c) s = .next (answered 0 c 0 0 u))
      ∧ (heard [allOnes64, allOnes64, allOnes64] → c.q3.toNat + c.q4.toNat ≤ 2 ^ 31 →
        sysWrite 0 c.q2.toNat (readList t.mem.dmem (254 * 2 ^ 30 + c.q3.toNat) c.q4.toNat) true
          (devTouch 0 (254 * 2 ^ 30 + c.q3.toNat) c.q4.toNat t) = (true, u) → (getVd 0 u).snaphold = (getVd 0 t).snaphold →
        exec (.dump 0 c) s = .next (answered 0 c 0 0 u))

/-! ## Interfaces, attestation, the module and its peers -/

/-- R373, R443, R445 to R447, R450, R461, R462: a register of an enabled interface with a quota reads back its written RW bits, and without one stays as it is
(of VD 0, whose quota starts at zero, log entry 73); a write to a frozen one, to a locked BAR and a
broken IDE stream put a locked or running interface in ERROR with its cause, without gangs and commands; a function-level reset leaves it
unlocked without images and queues; VF_ENABLE enables the functions counted and no others; the window reads and writes the device's space;
a posted descriptor waits, or is refused. Where BAR0 does not answer, and of a function that is not enabled, registers take no write and give no value, and
descriptors are ignored. Where a refusal's answer goes is log entry 38, what a reset or ERROR keeps log entry 39. -/
def Obligations.InterfaceSteps : Prop :=
  ∀ (s t : State) (vd : BitVec 8) (off n : Nat) (x : Word) (bs : List Byte) (d : InvDesc),
    let v := getVd vd s
    ((v.enabled = false ∨ barOpen s.mod = false → s.mod.power ≠ .recovery →
        exec (.interfaceRegisterWrite vd off x) s = .next s ∧ interfaceRead vd off s = none)
      ∧ (v.enabled = true → barOpen s.mod = true →
        (vd ≠ 0 → v.quota.raw = 0 → off < 0x80 ∨ 0xC0 ≤ off → exec (.interfaceRegisterWrite vd off x) s = .next s)
        ∧ (vd = 0 ∨ v.quota.raw ≠ 0 → frozen v = false → ∀ p ∈ [(0x10, 0xFFFFFFFFF000), (0x18, 0xFFFF00000000), (0x20, 0xFFFFFFFFFFFFFFDF),
            (0x28, 0xFFFFFFFFFFFFFFDF), (0x30, 0xFFFFFFFFFFFFFFDF), (0x38, 0xFFFFFFFFFFFFFFDF), (0x40, 0xFFFF), (0x48, 0xFFFFFFFF),
            (0x50, 0xFFFFFFFFFFF8), (0x58, 0xFFFFF)], ∃ u, exec (.interfaceRegisterWrite vd p.1 x) s = .next u
          ∧ interfaceRead vd p.1 u = some (x &&& BitVec.ofNat 64 p.2))
        ∧ (vd = 0 ∨ v.quota.raw ≠ 0 → frozen v = true → ∀ off ∈ [0x10, 0x18, 0x20, 0x28, 0x30, 0x38],
          ∃ u, exec (.interfaceRegisterWrite vd off x) s = .next u ∧ (getVd vd u).tstate = .error ∧ (getVd vd u).tcause = 2)
        ∧ (∀ k : Fin 8, k ≠ 7 → exec (.interfaceRegisterWrite vd (0x80 + 8 * k.val) x) s =
          .next (modVd vd (fun v => { v with cmdw := v.cmdw.set k x }) s))
        ∧ (v.tstate ≠ .error → v.cmdq.length < 16 → ∃ u, exec (.interfaceRegisterWrite vd 0xB8 x) s = .next u
          ∧ (getVd vd u).cmdq = v.cmdq ++ [windowCmd (v.cmdw.set 7 x)])))
      ∧ (frozen v = true → ∀ p ∈ [(Instr.lockedBarConfigWrite vd, (1 : BitVec 8)), (.ideIntegrityFailure vd, 3)],
        ∃ u, exec p.1 s = .next u ∧ (getVd vd u).tstate = .error ∧ (getVd vd u).tcause = p.2 ∧ (getVd vd u).cmdq = []
          ∧ ∀ k, (getBind k u).state = .empty ∨ (getBind k u).vd ≠ vd)
      ∧ (¬(vd = 0 ∧ s.mod.power = .fatal) → ∃ u, exec (.functionLevelReset vd) s = .next u ∧ (getVd vd u).tstate = .unlocked
        ∧ (getVd vd u).images = [] ∧ (getVd vd u).eq = Vector.replicate 4 {} ∧ (getVd vd u).storageKey = v.storageKey + 1)
      ∧ (n ≤ 255 → barOpen s.mod = true → ∃ u, exec (.vfEnable n) s = .next u ∧ u.mod.numVFs = n
        ∧ ∀ g : BitVec 8, g ≠ 0 → (getVd g u).enabled = decide (g.toNat ≤ n))
      ∧ (barOpen s.mod = false → exec (.vfEnable n) s = .next s)
      ∧ (let a := (getVd vd (wake s)).wbase.toNat + off
         (barOpen s.mod = true → windowOpen (getVd vd (wake s)) off n = true → sysRead vd a n (wake s) = (some bs, t) →
          exec (.windowRead vd off n) s = .next (answer (.windowData vd bs) t))
         ∧ (barOpen s.mod = true → windowOpen (getVd vd (wake s)) off bs.length = true → sysOk vd a bs.length false true (wake s) = (true, t) →
          exec (.windowWrite vd off bs) s = .next (if (sysWrite vd a bs false t).1 then (sysWrite vd a bs false t).2
            else countWerr vd (sysWrite vd a bs false t).2)))
      ∧ (∀ p ∈ [(Instr.invalidateAll vd d, 0), (.invalidateRange vd d, 1), (.counterFlush vd d, 2)], invKind d = p.2 →
        (barOpen s.mod = false ∨ v.enabled = false → exec p.1 s = .next s) ∧ (barOpen s.mod = true → v.enabled = true →
        (getVd vd (wake s)).tstate ≠ .error →
        (invBad vd d = false → sysOk (invTarget d) (invDone d) 8 false true (wake s) = (true, t) →
          exec p.1 s = .next (modVd vd (fun v => { v with invq := v.invq ++ [{ desc := d, issuer := vd }] }) t))
        ∧ (invBad vd d = true → ∃ u, exec p.1 s = .next u ∧ u.doe.replies = s.doe.replies ++ [.invalRefused vd])))

/-- R443, R457 to R460, R463 to R465: what TDISP and SPDM requests are answered with; a lock and a start move the interface, a stop returns it to unlocked;
with the signature algorithm negotiated, a challenge, a key exchange and measurements are answered with a device signature of 29,792 bytes over
the messages so far. No message is answered between a module reset and the enumeration of function 0 (R487). The codes of the selected algorithms and the form of the prefix are log entry 46, the bytes of a response and of the
certificate chain log entry 4; the place of what an interface report holds is log entries 39 and 74. -/
def Obligations.AttestationSteps : Prop :=
  ∀ (s : State) (r : SpdmReq) (keys : List Byte),
    let w := wake s
    let v := getVd r.vd w
    (s.mod.power ≠ .starting →
      (r.session = true → s.doe.session = true →
          (v.enabled = true →
            exec (.ideKm r keys) s = .next (answer (.ideKeysSet r.vd) (modVd r.vd (fun v => { v with ideKeys := keys }) w)))
          ∧ (v.enabled = false → exec (.ideKm r keys) s = .next (answer .spdmError w))
          ∧ (r.vd ≠ 0 → v.enabled = true →
            exec (.getTdispVersion r) s = .next (answer (.tdispVersion 1 0) w)
            ∧ exec (.getTdispCapabilities r) s = .next (answer .tdispCapabilities w)
            ∧ exec (.getDeviceInterfaceState r) s = .next (answer (.tdispState r.vd (tstateCode v.tstate)) w)
            ∧ (v.tstate = .unlocked → lockRefused r.vd w = false → exec (.lockInterfaceRequest r) s =
              .next (answer (.lockAccepted r.vd) (modVd r.vd (fun v => { v with tstate := .locked }) w)))
            ∧ (frozen v = true → exec (.getDeviceInterfaceReport r) s = .next (answer (.report r.vd (interfaceReport r.vd w)) w))
            ∧ (v.tstate = .locked → exec (.startInterfaceRequest r) s =
              .next (answer (.started r.vd) (modVd r.vd (fun v => { v with tstate := .run }) w)))
            ∧ (v.tstate ≠ .unlocked → ∃ u, exec (.stopInterfaceRequest r) s = .next (answer (.stopped r.vd) u)
              ∧ (getVd r.vd u).tstate = .unlocked ∧ (getVd r.vd u).images = [] ∧ (getVd r.vd u).storageKey = v.storageKey + 1)))
        ∧ (∃ u, exec (.getVersion r) s = .next (answer (.version 0x12) u) ∧ u.doe.versioned = true ∧ u.doe.negotiated = false ∧ u.doe.session = false)
        ∧ (s.doe.versioned = true → ∃ u, exec (.getCapabilities r) s = .next (answer .capabilities u) ∧ u.doe.capable = true)
        ∧ (s.doe.capable = true →
          (∃ u, exec (.negotiateAlgorithms r) s = .next (answer (algorithms r.extAsym) u) ∧ u.doe.negotiated = true ∧ u.doe.asym = r.extAsym)
          ∧ (1 ≤ r.index → r.index ≤ 5 →
            let block := (r.index, measurement r.vd w r.index)
            let log := s.doe.measured ++ exchange r (toBytes 1 block.1 ++ toBytes 2 block.2.length ++ block.2)
            (r.signature = false → exec (.getMeasurements r) s =
              .next (answer (.measurements [block] none) (onDoe (fun d => { d with measured := log }) w)))
            ∧ (r.signature = true → s.doe.asym = true → exec (.getMeasurements r) s =
              .next (answer (.measurements [block] (some (deviceSign "responder-measurements signing" (s.doe.transcript ++ log))))
                (onDoe (fun d => { d with measured := [] }) w)))
            ∧ (r.signature = true → s.doe.asym = false → exec (.getMeasurements r) s = .next (answer .spdmError w))))
        ∧ (s.doe.negotiated = true → s.doe.asym = true →
          exec (.challenge r) s = .next (answer (.challengeAuth (chainDigest w)
              (deviceSign "responder-challenge_auth signing" (s.doe.transcript ++ exchange r (chainBytes w)))) w)
          ∧ ∃ u, exec (.keyExchange r) s = .next (answer (.keyExchangeRsp
                (deviceSign "responder-key_exchange_rsp signing" (s.doe.transcript ++ chainBytes w ++ exchange r []))) u)
            ∧ u.doe.session = true)
        ∧ (s.doe.negotiated = false ∨ s.doe.asym = false →
          exec (.challenge r) s = .next (answer .spdmError w) ∧ exec (.keyExchange r) s = .next (answer .spdmError w)))
      ∧ (s.mod.power = .starting → ∀ i ∈ ([.ideKm r keys, .getTdispVersion r, .getTdispCapabilities r, .lockInterfaceRequest r, .getDeviceInterfaceReport r,
            .getDeviceInterfaceState r, .startInterfaceRequest r, .stopInterfaceRequest r, .getVersion r, .getCapabilities r, .negotiateAlgorithms r,
            .getMeasurements r, .challenge r, .keyExchange r] : List Instr), exec i s = .next s)
      ∧ ∀ context m, (deviceSign context m).length = 29792

/-- R442, R473, R475, R478 to R484, R487, R488: the module starts to Calm or to recovery; Calm and Doldrums are entered after their intervals, and
Doldrums is left by a wake, which also ends an entry to it that is under way; the compute clock is halved and restored, no change within 10,000 ticks of the last and never restored while hot, stopped and restarted halved;
recovery takes its image and verifies it, and its registers read as they stand, RLEN as it was written (what no length of an image does, and a write while
one is verified, is log entry 43); a fatal error stops every tile; a link trains, goes down, and
carries a peer's reads, writes and atomics to the paired device. The later of the two TIMEs at a training is log entry 11; what verifies a blob and a
firmware image is log entry 4, the forced boundary by which Calm stops the Flume log entry 41, the temperature log entry 42. -/
def Obligations.ModuleAndPeerSteps : Prop :=
  ∀ (s t : State) (x : Word) (l : BitVec 2) (r vd : BitVec 8) (va : Word) (n : Nat) (bs : List Byte) (op : AmoOp) (y : Word),
    let m := s.mod
    (m.power = .starting → ∃ u, exec .moduleStart s = .next u ∧
        if Config.blobVerify m.blob && Config.firmwareVerify m.blob m.fw then u.mod.power = .calm ∧ u.mod.cycle = 0 ∧ u.mod.time = 0
        else u.mod.power = .recovery ∧ u.mod.rstat = .waiting)
      ∧ (m.power = .active → anyHeld s = false → calmTicks m ≤ (m.time - m.idleSince).toNat →
        ∃ u, exec .calmEntry s = .next u ∧ u.mod.power = .calm ∧ (topLen u.flume = 0 ∨ topPace u.flume = 0))
      ∧ (m.power = .calm → quiet s = true → doldrumsTicks m ≤ (m.time - m.calmSince).toNat →
        ∃ u, exec .doldrumsEntry s = .next u
          ∧ (m.entering = false → u.mod.entering = true ∧ ∀ y ∈ u.mem.lines, y.dirty0 = false ∧ y.dirty1 = false)
          ∧ (m.entering = true → u.mod.power = .doldrums ∧ u.mem.lines = [] ∧ u.mem.dmem = s.mem.dmem))
      ∧ (m.power = .doldrums ∨ m.entering = true → ∃ u, exec .wakeEvent s = .next u ∧ u.mod.power = .calm ∧ u.mod.entering = false
        ∧ u.mod.calmSince = m.time ∧ u.mem = s.mem)
      ∧ (m.power ≠ .doldrums → m.entering = false → exec .wakeEvent s = .next s)
      ∧ (m.div = false → mayChange m = true → ∃ u, exec .throttleEngage s = .next u ∧ u.mod.div = true
        ∧ u.mod.events = m.events + 1 ∧ u.mod.changed = some m.time)
      ∧ (mayChange m = false → ∀ i ∈ [Instr.throttleEngage, .throttleRelease], ∃ u, exec i s = .next u ∧ u.mod.div = m.div)
      ∧ (m.hot = true → ∃ u, exec .throttleRelease s = .next u ∧ u.mod.div = m.div)
      ∧ (m.div = true → m.stopped = false → m.hot = false → mayChange m = true →
        ∃ u, exec .throttleRelease s = .next u ∧ u.mod.div = false ∧ u.mod.hot = false ∧ u.mod.changed = some m.time)
      ∧ (∃ u, exec .clockStop s = .next u ∧ u.mod.stopped = true ∧ u.mod.hot = true
        ∧ (s.tile.place.slot.isSome = true → u.tile.place.stopSeen = true))
      ∧ (m.stopped = true → m.div = true ∨ mayChange m = true → ∃ u, exec .clockRestart s = .next u ∧ u.mod.stopped = false ∧ u.mod.div = true
        ∧ u.mod.events = (if m.div then m.events else m.events + 1))
      ∧ (m.div = false → mayChange m = false → exec .clockRestart s = .next s)
      ∧ (m.power = .recovery →
        (∃ u, exec (.rlen x) s = .next u ∧ u.mod.rlen = x ∧ interfaceRead 0 8 u = some x
          ∧ (m.rstat = .verifying ∨ m.rstat = .accepted → u.mod.rbuf = m.rbuf ∧ u.mod.rstat = m.rstat)
          ∧ (m.rstat ≠ .verifying → m.rstat ≠ .accepted → u.mod.rbuf = []
            ∧ u.mod.rstat = if x.toNat % 8 = 0 ∧ x.toNat ≤ 2 ^ 26 then .receiving else .waiting))
        ∧ (∀ p ∈ [(RStat.waiting, (0 : Word)), (.receiving, 1), (.verifying, 2), (.refused, 3), (.accepted, 4)],
          m.rstat = p.1 → interfaceRead 0 0 s = some p.2)
        ∧ (∀ off, off ≠ 0 ∧ off ≠ 8 → interfaceRead 0 off s = some 0)
        ∧ (∀ off, vd ≠ 0 → interfaceRead vd off s = none)
        ∧ (m.rstat = .receiving → (m.rbuf.length < m.rlen.toNat → ∃ u, exec (.rdata x) s = .next u ∧ u.mod.rbuf = m.rbuf ++ toBytes 8 x.toNat)
          ∧ ∃ u, exec (.rgo 1) s = .next u ∧ u.mod.rstat = .verifying)
        ∧ (m.rstat = .verifying → ∃ u, exec .recoveryVerifyDone s = .next u ∧
          if Config.firmwareVerify m.blob m.rbuf then u.mod.fw = m.rbuf ∧ u.mod.rstat = .accepted ∧ u.mod.power = .recovery
          else u.mod.fw = m.fw ∧ u.mod.rstat = .refused))
      ∧ (∃ u, exec .fatalError s = .next u ∧ u.mod.power = .fatal ∧ u.tile.ctl.run ≠ .running ∧ ∀ p ∈ u.others, p.2.ctl.run ≠ .running)
      ∧ (∃ u, exec (.chinookLinkTraining l x) s = .next u ∧ (u.links[l.toNat]'l.isLt) = { up := true, peerTime := x }
        ∧ u.mod.time.toNat = max m.time.toNat x.toNat)
      ∧ (∃ u, exec (.chinookLinkDown l) s = .next u ∧ (u.links[l.toNat]'l.isLt).up = false)
      ∧ ((s.links[l.toNat]'l.isLt).up = true → pairedWith l r (wake s) = some vd → (getVd vd (wake s)).tstate ≠ .error →
        (sysRead vd va.toNat n (wake s) = (some bs, t) → exec (.peerAccess l r va n .read) s = .next (answer (.peerData l bs) t))
        ∧ (sysOk vd va.toNat bs.length false true (wake s) = (true, t) →
          exec (.peerAccess l r va bs.length (.write bs)) s =
            .next (answer (if (sysWrite vd va.toNat bs false t).1 then .peerData l [] else .peerRefused l) (sysWrite vd va.toNat bs false t).2))
        ∧ (let place (f : Change) : Prop := sysPart vd va.toNat n true true false f (wake s) = (some bs, t)
           n = 4 ∨ n = 8 → va.toNat % n = 0 →
           (op = .swap ∨ op = .add → place (fun old => some (toBytes n (amoValue op (8 * n) (ofBytes old) (x.toNat % 256 ^ n)))) →
              exec (.peerAccess l r va n (.amo op x)) s = .next (answer (.peerData l bs) t))
            ∧ (place (fun old => if ofBytes old = y.toNat % 256 ^ n then some (toBytes n (x.toNat % 256 ^ n)) else none) →
              exec (.peerAccess l r va n (.acas y x)) s = .next (answer (.peerData l bs) t))))
      ∧ ((s.links[l.toNat]'l.isLt).up = false → exec (.peerAccess l r va n .read) s = .next (answer (.peerRefused l) (wake s)))

/-! ## Frames -/

/-- R43, R49: a syllable whose result goes to a register leaves every register file, the memories, the engines, the place and the launch state of its tile,
every other tile and all that is outside the tiles as they are until its result lands; its one result in flight is the one of its rule, for its
own destination. The program counter, the loop levels with RBASE, and the latches of its sources may change. -/
def Obligations.ResultSyllablesChangeNothingElse : Prop :=
  ∀ (s : State) (i : Instr) (h : Hdr) (u t : State),
    scalarRule s i = some (h, u) ∨ pairRule s i = some (h, u) ∨ laneRule s i = some (h, u)
      ∨ (vectorRule s i = some (h, u) ∧ storesTile i = false) →
    s.tile.regs.inflight = [] → exec i s = .next t →
    files t.tile.regs = files s.tile.regs ∧ t.tile.mem = s.tile.mem ∧ t.tile.eng = s.tile.eng ∧ t.tile.place = s.tile.place
      ∧ keptCtl t.tile.ctl = keptCtl s.tile.ctl ∧ t.others = s.others ∧ t.cur = s.cur ∧ t.mem = s.mem ∧ t.binds = s.binds ∧ t.vds = s.vds
      ∧ t.clusters = s.clusters ∧ t.flume = s.flume ∧ t.mod = s.mod ∧ t.packets = s.packets ∧ t.doe = s.doe ∧ t.links = s.links
      ∧ t.agenda = s.agenda
      ∧ (t.tile.regs.inflight.map (·.res) = u.tile.regs.inflight.map (·.res) ∨ t.tile.regs.inflight = [])
      ∧ (innermost s.tile.ctl = none → t.tile.regs.rbVb = s.tile.regs.rbVb ∧ t.tile.regs.rbPb = s.tile.regs.rbPb)

/-- R27, R43, R116, R205 to R207, R210, R211: STP, STS, SWINIT, SWADD, VSTP, VST, VSTS and VSCAT change no byte of scratchpad or spill memory outside those
they store to, and neither the register files nor the other memories; their addresses are those their meanings use. No syllable but the storing
ones, TLD, MZR and MWR changes a memory of its tile, whether it issues, is held or faults. -/
def Obligations.StoresChangeOnlyTheirBytes : Prop :=
  (∀ (s t : State) (i : Instr), storesTile i = true → (storedSpad s i ≠ [] ∨ (storedSpill i).isSome = true ∨ (vmemRule s i).isSome = true) →
      s.tile.regs.inflight = [] → exec i s = .next t →
      (∀ a, Outside (storedSpad s i) a → smGet 0 t.tile.mem.spad a = smGet 0 s.tile.mem.spad a)
        ∧ (∀ a, (∀ r, storedSpill i = some r → a < r.1 ∨ r.1 + r.2 ≤ a) → smGet 0 t.tile.mem.spill a = smGet 0 s.tile.mem.spill a)
        ∧ t.tile.mem.cpart = s.tile.mem.cpart ∧ t.tile.mem.tstore = s.tile.mem.tstore ∧ t.tile.mem.thdr = s.tile.mem.thdr
        ∧ t.tile.mem.rstore = s.tile.mem.rstore ∧ t.tile.mem.rentry = s.tile.mem.rentry ∧ t.tile.mem.acc = s.tile.mem.acc
        ∧ t.tile.mem.aovf = s.tile.mem.aovf ∧ files t.tile.regs = files s.tile.regs ∧ t.mem = s.mem)
    ∧ ∀ (s t : State) (i : Instr) (o : SlotOp), slotOp i = some o → storesTile i = false → exec i s = .next t → t.tile.mem = s.tile.mem

/-- Log entry 1: every syllable keeps the canonical form of its tile's memories. -/
def Obligations.SyllablesKeepMemoriesCanonical : Prop :=
  ∀ (s t : State) (i : Instr) (o : SlotOp), slotOp i = some o → tileMemWf s.tile.mem = true → exec i s = .next t →
    tileMemWf t.tile.mem = true

/-- R6: `n` bytes stored little-endian read back as they were stored, byte by byte, and no other byte changes; so does a list of
bytes. -/
def Obligations.StoredBytesReadBack : Prop :=
  ∀ (m : SMap Byte) (a n v : Nat) (bs : List Byte), Memory.wf m = true →
    readB (writeB a n v m) a n = v % 256 ^ n
      ∧ (∀ k, k < n → smGet 0 (writeB a n v m) (a + k) = BitVec.ofNat 8 (v / 256 ^ k))
      ∧ (∀ b, b < a ∨ a + n ≤ b → smGet 0 (writeB a n v m) b = smGet 0 m b)
      ∧ readList (writeList a bs m) a bs.length = bs
      ∧ (∀ b, b < a ∨ a + bs.length ≤ b → smGet 0 (writeList a bs m) b = smGet 0 m b)
      ∧ ofBytes (readList m a n) = readB m a n ∧ ofBytes (toBytes n v) = v % 256 ^ n

/-! ## Reset and the run of the machine -/

/-- R28, R29, R37, R269, R487: what the spec states of the machine right after its reset: CYCLE, TIME and LAP are zero, the Flume is idle, no bind record is
held, every tile is free, and the start of the module is what comes first. The model's own choices beside it: general registers of a tile before
any launch are zero (log entry 6), memories are in canonical form (log entry 1), and the agenda is sound (log entry 2). -/
def Obligations.ResetState : Prop :=
  let s := State.reset
  s.mod.cycle = 0 ∧ s.mod.time = 0 ∧ (∀ p, lapOf s.flume p = 0) ∧ topLen s.flume = 0 ∧ (∀ k, (getBind k s).state = .empty)
    ∧ (∀ p, (getTile p s).ctl.run = .free ∧ (getTile p s).regs.g = Vector.replicate 64 0 ∧ (getTile p s).mem.acc = [])
    ∧ s.mod.power = .starting ∧ s.agenda = [.event 0 .moduleStart] ∧ Sound s ∧ tileMemWf s.tile.mem = true
    ∧ (∀ vd, (getVd vd s).enabled = decide (vd = 0) ∧ (getVd vd s).tstate = .unlocked)

/-- Log entry 2, R12: while every turn names a tile of the die the machine never stops: each step answers a next state, whose turns name tiles again. -/
def Obligations.EveryStepGoesOn : Prop :=
  ∀ s : State, Sound s → ∃ t, step s = .next t ∧ Sound t
end

