-- ==== Sys2Proof/Laws/Issue.lean ====
section
/-! SUPPORT. What the issue of a syllable alone does: it completes when nothing is in its way, passes when its guard is
false, and otherwise is held or takes a fault (02_encoding.md R40, R43; 16_preemption.md R415). -/

namespace Sys2Proof.Laws

open Sys2Proof.Machine Sys2Proof.Safety

theorem guarded_one_on {o : SlotOp} {s : State} (h : readP s.tile o.hdr.guard = true) : guarded [o] s = [o] := by
  simp [guarded, SlotOp.on, h]

theorem guarded_one_off {o : SlotOp} {s : State} (h : readP s.tile o.hdr.guard = false) : guarded [o] s = [] := by
  simp [guarded, SlotOp.on, h]

/-- A syllable whose guard holds, with no fault and no hold, takes effect and its cycle ends. -/
theorem run_of_ready {o : SlotOp} {s : State} (r : Ready o.hdr (o.access s) s) (f5 : o.fault5 s = none) (w : o.wait s = false)
    (f6 : o.fault6 s = none) (g : o.again s = false := by rfl) :
    o.run s = .next (endCycle (o.hdr.pp || o.point) s (o.post s (advance s (o.eff s s)))) := by
  have hf : o.fpHeld s = false := r.free
  have hg := guarded_one_on r.guard
  have hn : bankCycle [o] 0 s = endCycle (o.hdr.pp || o.point) s (o.post s (advance s (o.eff s s))) := by
    simp [bankCycle, issueNow, hg, firstOf, firstFault, f6, g, isPoint]
  have hb := r.banks
  cases hl : s.tile.ctl.bankLeft with
  | some n =>
    obtain rfl : n = 0 := by simpa [hl] using hb
    simp [SlotOp.run, issueOps, r.settled, hl, hn]
  | none =>
    replace hb : bankHold (o.access s) = 0 := by simpa [hl] using hb
    simp [SlotOp.run, issueOps, r.settled, hl, hg, firstOf, firstFault, f5, isHeld, hf, w, hb, hn]

/-- The same of a syllable whose effect is `t` and that has no later part. -/
theorem run_of_plain {o : SlotOp} {s t : State} (r : Ready o.hdr (o.access s) s) (e : o.eff s s = t) (f5 : o.fault5 s = none)
    (w : o.wait s = false) (f6 : o.fault6 s = none) (p : ∀ t, o.post s t = t) (g : o.again s = false := by rfl) : o.run s = .next (issued o.hdr o.point s t) := by
  rw [run_of_ready r f5 w f6 g, p, e]
  rfl

/-- A syllable whose guard is false only passes: its bundle's cycle is counted and the program counter moves on (R40). -/
theorem run_of_off {o : SlotOp} {s : State} (h : readP s.tile o.hdr.guard = false) (i : interlocked s.tile.regs = false)
    (b : s.tile.ctl.bankLeft = none) : o.run s = .next (issued o.hdr o.point s s) := by
  have hb : bankHold [] = 0 := by decide
  simp [SlotOp.run, issueOps, bankCycle, issueNow, isHeld, guarded_one_off h, i, b, firstOf, firstFault, hb, isPoint, issued]

/-- Every outcome of a syllable is a next state. -/
theorem run_next (o : SlotOp) (s : State) : o.run s = .next (issueOps [o] s) := rfl

/-! What a bundle notes of a body that runs as ordinary code is all that `notePlain` changes (03_issue.md R84). -/

@[simp] theorem notePlain_pc (is : List Instr) (s u : State) : (notePlain is s u).tile.ctl.pc = u.tile.ctl.pc := rfl
@[simp] theorem notePlain_run (is : List Instr) (s u : State) : (notePlain is s u).tile.ctl.run = u.tile.ctl.run := rfl
@[simp] theorem notePlain_regs (is : List Instr) (s u : State) : (notePlain is s u).tile.regs = u.tile.regs := rfl
@[simp] theorem notePlain_mem (is : List Instr) (s u : State) : (notePlain is s u).tile.mem = u.tile.mem := rfl
@[simp] theorem notePlain_eng (is : List Instr) (s u : State) : (notePlain is s u).tile.eng = u.tile.eng := rfl
@[simp] theorem notePlain_agenda (is : List Instr) (s u : State) : (notePlain is s u).agenda = u.agenda := rfl

end Sys2Proof.Laws
end

