-- ==== Sys2Proof/Laws/Exec.lean ====
section
/-! SUPPORT. The dispatch table: a syllable runs as its slot's operation, and every instruction answers a next state. -/

namespace Sys2Proof.Laws

open Sys2Proof.Machine Sys2Proof.Safety

/-- The meaning of a syllable is the run of its slot's operation. -/
theorem exec_syllable {i : Instr} {o : SlotOp} (h : slotOp i = some o) (s : State) : exec i s = o.run s := by
  cases i <;> first | (cases h; rfl) | (exact absurd h (by intro h; cases h))

/-- No instruction stops the machine. -/
theorem exec_next (i : Instr) (s : State) : ∃ t, exec i s = .next t := by
  cases i <;> exact ⟨_, rfl⟩

end Sys2Proof.Laws
end

