-- ==== Sys2Proof/Laws/State.lean ====
section
/-! SUPPORT. One lemma per field for each named update of the state, each by `rfl`, so that no proof unfolds a record update. -/

namespace Sys2Proof.Laws

open Sys2Proof.Machine

variable (s : State)

/-! ## The tile in focus -/

@[simp] theorem onTile_cur (f : Tile → Tile) : (onTile f s).cur = s.cur := rfl
@[simp] theorem onTile_tile (f : Tile → Tile) : (onTile f s).tile = f s.tile := rfl
@[simp] theorem onTile_others (f : Tile → Tile) : (onTile f s).others = s.others := rfl
@[simp] theorem onTile_binds (f : Tile → Tile) : (onTile f s).binds = s.binds := rfl
@[simp] theorem onTile_clusters (f : Tile → Tile) : (onTile f s).clusters = s.clusters := rfl
@[simp] theorem onTile_mem (f : Tile → Tile) : (onTile f s).mem = s.mem := rfl
@[simp] theorem onTile_flume (f : Tile → Tile) : (onTile f s).flume = s.flume := rfl
@[simp] theorem onTile_vds (f : Tile → Tile) : (onTile f s).vds = s.vds := rfl
@[simp] theorem onTile_mod (f : Tile → Tile) : (onTile f s).mod = s.mod := rfl
@[simp] theorem onTile_links (f : Tile → Tile) : (onTile f s).links = s.links := rfl
@[simp] theorem onTile_packets (f : Tile → Tile) : (onTile f s).packets = s.packets := rfl
@[simp] theorem onTile_doe (f : Tile → Tile) : (onTile f s).doe = s.doe := rfl
@[simp] theorem onTile_agenda (f : Tile → Tile) : (onTile f s).agenda = s.agenda := rfl
@[simp] theorem onTile_fresh (f : Tile → Tile) : (onTile f s).fresh = s.fresh := rfl
@[simp] theorem onTile_ticks (f : Tile → Tile) : (onTile f s).ticks = s.ticks := rfl
@[simp] theorem onRegs_cur (f : Regs → Regs) : (onRegs f s).cur = s.cur := rfl
@[simp] theorem onRegs_tile_regs (f : Regs → Regs) : (onRegs f s).tile.regs = f s.tile.regs := rfl
@[simp] theorem onRegs_tile_ctl (f : Regs → Regs) : (onRegs f s).tile.ctl = s.tile.ctl := rfl
@[simp] theorem onRegs_tile_mem (f : Regs → Regs) : (onRegs f s).tile.mem = s.tile.mem := rfl
@[simp] theorem onRegs_tile_eng (f : Regs → Regs) : (onRegs f s).tile.eng = s.tile.eng := rfl
@[simp] theorem onRegs_tile_place (f : Regs → Regs) : (onRegs f s).tile.place = s.tile.place := rfl
@[simp] theorem onRegs_others (f : Regs → Regs) : (onRegs f s).others = s.others := rfl
@[simp] theorem onRegs_binds (f : Regs → Regs) : (onRegs f s).binds = s.binds := rfl
@[simp] theorem onRegs_clusters (f : Regs → Regs) : (onRegs f s).clusters = s.clusters := rfl
@[simp] theorem onRegs_mem (f : Regs → Regs) : (onRegs f s).mem = s.mem := rfl
@[simp] theorem onRegs_flume (f : Regs → Regs) : (onRegs f s).flume = s.flume := rfl
@[simp] theorem onRegs_vds (f : Regs → Regs) : (onRegs f s).vds = s.vds := rfl
@[simp] theorem onRegs_mod (f : Regs → Regs) : (onRegs f s).mod = s.mod := rfl
@[simp] theorem onRegs_links (f : Regs → Regs) : (onRegs f s).links = s.links := rfl
@[simp] theorem onRegs_packets (f : Regs → Regs) : (onRegs f s).packets = s.packets := rfl
@[simp] theorem onRegs_doe (f : Regs → Regs) : (onRegs f s).doe = s.doe := rfl
@[simp] theorem onRegs_agenda (f : Regs → Regs) : (onRegs f s).agenda = s.agenda := rfl
@[simp] theorem onRegs_fresh (f : Regs → Regs) : (onRegs f s).fresh = s.fresh := rfl
@[simp] theorem onRegs_ticks (f : Regs → Regs) : (onRegs f s).ticks = s.ticks := rfl
@[simp] theorem onCtl_cur (f : Ctl → Ctl) : (onCtl f s).cur = s.cur := rfl
@[simp] theorem onCtl_tile_regs (f : Ctl → Ctl) : (onCtl f s).tile.regs = s.tile.regs := rfl
@[simp] theorem onCtl_tile_ctl (f : Ctl → Ctl) : (onCtl f s).tile.ctl = f s.tile.ctl := rfl
@[simp] theorem onCtl_tile_mem (f : Ctl → Ctl) : (onCtl f s).tile.mem = s.tile.mem := rfl
@[simp] theorem onCtl_tile_eng (f : Ctl → Ctl) : (onCtl f s).tile.eng = s.tile.eng := rfl
@[simp] theorem onCtl_tile_place (f : Ctl → Ctl) : (onCtl f s).tile.place = s.tile.place := rfl
@[simp] theorem onCtl_others (f : Ctl → Ctl) : (onCtl f s).others = s.others := rfl
@[simp] theorem onCtl_binds (f : Ctl → Ctl) : (onCtl f s).binds = s.binds := rfl
@[simp] theorem onCtl_clusters (f : Ctl → Ctl) : (onCtl f s).clusters = s.clusters := rfl
@[simp] theorem onCtl_mem (f : Ctl → Ctl) : (onCtl f s).mem = s.mem := rfl
@[simp] theorem onCtl_flume (f : Ctl → Ctl) : (onCtl f s).flume = s.flume := rfl
@[simp] theorem onCtl_vds (f : Ctl → Ctl) : (onCtl f s).vds = s.vds := rfl
@[simp] theorem onCtl_mod (f : Ctl → Ctl) : (onCtl f s).mod = s.mod := rfl
@[simp] theorem onCtl_links (f : Ctl → Ctl) : (onCtl f s).links = s.links := rfl
@[simp] theorem onCtl_packets (f : Ctl → Ctl) : (onCtl f s).packets = s.packets := rfl
@[simp] theorem onCtl_doe (f : Ctl → Ctl) : (onCtl f s).doe = s.doe := rfl
@[simp] theorem onCtl_agenda (f : Ctl → Ctl) : (onCtl f s).agenda = s.agenda := rfl
@[simp] theorem onCtl_fresh (f : Ctl → Ctl) : (onCtl f s).fresh = s.fresh := rfl
@[simp] theorem onCtl_ticks (f : Ctl → Ctl) : (onCtl f s).ticks = s.ticks := rfl
@[simp] theorem onMem_cur (f : TMem → TMem) : (onMem f s).cur = s.cur := rfl
@[simp] theorem onMem_tile_regs (f : TMem → TMem) : (onMem f s).tile.regs = s.tile.regs := rfl
@[simp] theorem onMem_tile_ctl (f : TMem → TMem) : (onMem f s).tile.ctl = s.tile.ctl := rfl
@[simp] theorem onMem_tile_mem (f : TMem → TMem) : (onMem f s).tile.mem = f s.tile.mem := rfl
@[simp] theorem onMem_tile_eng (f : TMem → TMem) : (onMem f s).tile.eng = s.tile.eng := rfl
@[simp] theorem onMem_tile_place (f : TMem → TMem) : (onMem f s).tile.place = s.tile.place := rfl
@[simp] theorem onMem_others (f : TMem → TMem) : (onMem f s).others = s.others := rfl
@[simp] theorem onMem_binds (f : TMem → TMem) : (onMem f s).binds = s.binds := rfl
@[simp] theorem onMem_clusters (f : TMem → TMem) : (onMem f s).clusters = s.clusters := rfl
@[simp] theorem onMem_mem (f : TMem → TMem) : (onMem f s).mem = s.mem := rfl
@[simp] theorem onMem_flume (f : TMem → TMem) : (onMem f s).flume = s.flume := rfl
@[simp] theorem onMem_vds (f : TMem → TMem) : (onMem f s).vds = s.vds := rfl
@[simp] theorem onMem_mod (f : TMem → TMem) : (onMem f s).mod = s.mod := rfl
@[simp] theorem onMem_links (f : TMem → TMem) : (onMem f s).links = s.links := rfl
@[simp] theorem onMem_packets (f : TMem → TMem) : (onMem f s).packets = s.packets := rfl
@[simp] theorem onMem_doe (f : TMem → TMem) : (onMem f s).doe = s.doe := rfl
@[simp] theorem onMem_agenda (f : TMem → TMem) : (onMem f s).agenda = s.agenda := rfl
@[simp] theorem onMem_fresh (f : TMem → TMem) : (onMem f s).fresh = s.fresh := rfl
@[simp] theorem onMem_ticks (f : TMem → TMem) : (onMem f s).ticks = s.ticks := rfl
@[simp] theorem onEng_cur (f : Eng → Eng) : (onEng f s).cur = s.cur := rfl
@[simp] theorem onEng_tile_regs (f : Eng → Eng) : (onEng f s).tile.regs = s.tile.regs := rfl
@[simp] theorem onEng_tile_ctl (f : Eng → Eng) : (onEng f s).tile.ctl = s.tile.ctl := rfl
@[simp] theorem onEng_tile_mem (f : Eng → Eng) : (onEng f s).tile.mem = s.tile.mem := rfl
@[simp] theorem onEng_tile_eng (f : Eng → Eng) : (onEng f s).tile.eng = f s.tile.eng := rfl
@[simp] theorem onEng_tile_place (f : Eng → Eng) : (onEng f s).tile.place = s.tile.place := rfl
@[simp] theorem onEng_others (f : Eng → Eng) : (onEng f s).others = s.others := rfl
@[simp] theorem onEng_binds (f : Eng → Eng) : (onEng f s).binds = s.binds := rfl
@[simp] theorem onEng_clusters (f : Eng → Eng) : (onEng f s).clusters = s.clusters := rfl
@[simp] theorem onEng_mem (f : Eng → Eng) : (onEng f s).mem = s.mem := rfl
@[simp] theorem onEng_flume (f : Eng → Eng) : (onEng f s).flume = s.flume := rfl
@[simp] theorem onEng_vds (f : Eng → Eng) : (onEng f s).vds = s.vds := rfl
@[simp] theorem onEng_mod (f : Eng → Eng) : (onEng f s).mod = s.mod := rfl
@[simp] theorem onEng_links (f : Eng → Eng) : (onEng f s).links = s.links := rfl
@[simp] theorem onEng_packets (f : Eng → Eng) : (onEng f s).packets = s.packets := rfl
@[simp] theorem onEng_doe (f : Eng → Eng) : (onEng f s).doe = s.doe := rfl
@[simp] theorem onEng_agenda (f : Eng → Eng) : (onEng f s).agenda = s.agenda := rfl
@[simp] theorem onEng_fresh (f : Eng → Eng) : (onEng f s).fresh = s.fresh := rfl
@[simp] theorem onEng_ticks (f : Eng → Eng) : (onEng f s).ticks = s.ticks := rfl
@[simp] theorem onPlace_cur (f : Place → Place) : (onPlace f s).cur = s.cur := rfl
@[simp] theorem onPlace_tile_regs (f : Place → Place) : (onPlace f s).tile.regs = s.tile.regs := rfl
@[simp] theorem onPlace_tile_ctl (f : Place → Place) : (onPlace f s).tile.ctl = s.tile.ctl := rfl
@[simp] theorem onPlace_tile_mem (f : Place → Place) : (onPlace f s).tile.mem = s.tile.mem := rfl
@[simp] theorem onPlace_tile_eng (f : Place → Place) : (onPlace f s).tile.eng = s.tile.eng := rfl
@[simp] theorem onPlace_tile_place (f : Place → Place) : (onPlace f s).tile.place = f s.tile.place := rfl
@[simp] theorem onPlace_others (f : Place → Place) : (onPlace f s).others = s.others := rfl
@[simp] theorem onPlace_binds (f : Place → Place) : (onPlace f s).binds = s.binds := rfl
@[simp] theorem onPlace_clusters (f : Place → Place) : (onPlace f s).clusters = s.clusters := rfl
@[simp] theorem onPlace_mem (f : Place → Place) : (onPlace f s).mem = s.mem := rfl
@[simp] theorem onPlace_flume (f : Place → Place) : (onPlace f s).flume = s.flume := rfl
@[simp] theorem onPlace_vds (f : Place → Place) : (onPlace f s).vds = s.vds := rfl
@[simp] theorem onPlace_mod (f : Place → Place) : (onPlace f s).mod = s.mod := rfl
@[simp] theorem onPlace_links (f : Place → Place) : (onPlace f s).links = s.links := rfl
@[simp] theorem onPlace_packets (f : Place → Place) : (onPlace f s).packets = s.packets := rfl
@[simp] theorem onPlace_doe (f : Place → Place) : (onPlace f s).doe = s.doe := rfl
@[simp] theorem onPlace_agenda (f : Place → Place) : (onPlace f s).agenda = s.agenda := rfl
@[simp] theorem onPlace_fresh (f : Place → Place) : (onPlace f s).fresh = s.fresh := rfl
@[simp] theorem onPlace_ticks (f : Place → Place) : (onPlace f s).ticks = s.ticks := rfl

/-! ## The module, device memory, virtual devices, bind records, clusters -/

@[simp] theorem onMod_cur (f : Mod → Mod) : (onMod f s).cur = s.cur := rfl
@[simp] theorem onMod_tile (f : Mod → Mod) : (onMod f s).tile = s.tile := rfl
@[simp] theorem onMod_others (f : Mod → Mod) : (onMod f s).others = s.others := rfl
@[simp] theorem onMod_binds (f : Mod → Mod) : (onMod f s).binds = s.binds := rfl
@[simp] theorem onMod_clusters (f : Mod → Mod) : (onMod f s).clusters = s.clusters := rfl
@[simp] theorem onMod_mem (f : Mod → Mod) : (onMod f s).mem = s.mem := rfl
@[simp] theorem onMod_flume (f : Mod → Mod) : (onMod f s).flume = s.flume := rfl
@[simp] theorem onMod_vds (f : Mod → Mod) : (onMod f s).vds = s.vds := rfl
@[simp] theorem onMod_mod (f : Mod → Mod) : (onMod f s).mod = f s.mod := rfl
@[simp] theorem onMod_links (f : Mod → Mod) : (onMod f s).links = s.links := rfl
@[simp] theorem onMod_packets (f : Mod → Mod) : (onMod f s).packets = s.packets := rfl
@[simp] theorem onMod_doe (f : Mod → Mod) : (onMod f s).doe = s.doe := rfl
@[simp] theorem onMod_agenda (f : Mod → Mod) : (onMod f s).agenda = s.agenda := rfl
@[simp] theorem onMod_fresh (f : Mod → Mod) : (onMod f s).fresh = s.fresh := rfl
@[simp] theorem onMod_ticks (f : Mod → Mod) : (onMod f s).ticks = s.ticks := rfl
@[simp] theorem onMemSys_cur (f : MemSys → MemSys) : (onMemSys f s).cur = s.cur := rfl
@[simp] theorem onMemSys_tile (f : MemSys → MemSys) : (onMemSys f s).tile = s.tile := rfl
@[simp] theorem onMemSys_others (f : MemSys → MemSys) : (onMemSys f s).others = s.others := rfl
@[simp] theorem onMemSys_binds (f : MemSys → MemSys) : (onMemSys f s).binds = s.binds := rfl
@[simp] theorem onMemSys_clusters (f : MemSys → MemSys) : (onMemSys f s).clusters = s.clusters := rfl
@[simp] theorem onMemSys_mem (f : MemSys → MemSys) : (onMemSys f s).mem = f s.mem := rfl
@[simp] theorem onMemSys_flume (f : MemSys → MemSys) : (onMemSys f s).flume = s.flume := rfl
@[simp] theorem onMemSys_vds (f : MemSys → MemSys) : (onMemSys f s).vds = s.vds := rfl
@[simp] theorem onMemSys_mod (f : MemSys → MemSys) : (onMemSys f s).mod = s.mod := rfl
@[simp] theorem onMemSys_links (f : MemSys → MemSys) : (onMemSys f s).links = s.links := rfl
@[simp] theorem onMemSys_packets (f : MemSys → MemSys) : (onMemSys f s).packets = s.packets := rfl
@[simp] theorem onMemSys_doe (f : MemSys → MemSys) : (onMemSys f s).doe = s.doe := rfl
@[simp] theorem onMemSys_agenda (f : MemSys → MemSys) : (onMemSys f s).agenda = s.agenda := rfl
@[simp] theorem onMemSys_fresh (f : MemSys → MemSys) : (onMemSys f s).fresh = s.fresh := rfl
@[simp] theorem onMemSys_ticks (f : MemSys → MemSys) : (onMemSys f s).ticks = s.ticks := rfl
@[simp] theorem modVd_cur (v : BitVec 8) (f : VDev → VDev) : (modVd v f s).cur = s.cur := rfl
@[simp] theorem modVd_tile (v : BitVec 8) (f : VDev → VDev) : (modVd v f s).tile = s.tile := rfl
@[simp] theorem modVd_others (v : BitVec 8) (f : VDev → VDev) : (modVd v f s).others = s.others := rfl
@[simp] theorem modVd_binds (v : BitVec 8) (f : VDev → VDev) : (modVd v f s).binds = s.binds := rfl
@[simp] theorem modVd_clusters (v : BitVec 8) (f : VDev → VDev) : (modVd v f s).clusters = s.clusters := rfl
@[simp] theorem modVd_mem (v : BitVec 8) (f : VDev → VDev) : (modVd v f s).mem = s.mem := rfl
@[simp] theorem modVd_flume (v : BitVec 8) (f : VDev → VDev) : (modVd v f s).flume = s.flume := rfl
@[simp] theorem modVd_vds (v : BitVec 8) (f : VDev → VDev) : (modVd v f s).vds = smSet v.toNat (f (getVd v s)) s.vds := rfl
@[simp] theorem modVd_mod (v : BitVec 8) (f : VDev → VDev) : (modVd v f s).mod = s.mod := rfl
@[simp] theorem modVd_links (v : BitVec 8) (f : VDev → VDev) : (modVd v f s).links = s.links := rfl
@[simp] theorem modVd_packets (v : BitVec 8) (f : VDev → VDev) : (modVd v f s).packets = s.packets := rfl
@[simp] theorem modVd_doe (v : BitVec 8) (f : VDev → VDev) : (modVd v f s).doe = s.doe := rfl
@[simp] theorem modVd_agenda (v : BitVec 8) (f : VDev → VDev) : (modVd v f s).agenda = s.agenda := rfl
@[simp] theorem modVd_fresh (v : BitVec 8) (f : VDev → VDev) : (modVd v f s).fresh = s.fresh := rfl
@[simp] theorem modVd_ticks (v : BitVec 8) (f : VDev → VDev) : (modVd v f s).ticks = s.ticks := rfl
@[simp] theorem modBind_cur (b : Nat) (f : Bind → Bind) : (modBind b f s).cur = s.cur := rfl
@[simp] theorem modBind_tile (b : Nat) (f : Bind → Bind) : (modBind b f s).tile = s.tile := rfl
@[simp] theorem modBind_others (b : Nat) (f : Bind → Bind) : (modBind b f s).others = s.others := rfl
@[simp] theorem modBind_binds (b : Nat) (f : Bind → Bind) : (modBind b f s).binds = smSet b (f (getBind b s)) s.binds := rfl
@[simp] theorem modBind_clusters (b : Nat) (f : Bind → Bind) : (modBind b f s).clusters = s.clusters := rfl
@[simp] theorem modBind_mem (b : Nat) (f : Bind → Bind) : (modBind b f s).mem = s.mem := rfl
@[simp] theorem modBind_flume (b : Nat) (f : Bind → Bind) : (modBind b f s).flume = s.flume := rfl
@[simp] theorem modBind_vds (b : Nat) (f : Bind → Bind) : (modBind b f s).vds = s.vds := rfl
@[simp] theorem modBind_mod (b : Nat) (f : Bind → Bind) : (modBind b f s).mod = s.mod := rfl
@[simp] theorem modBind_links (b : Nat) (f : Bind → Bind) : (modBind b f s).links = s.links := rfl
@[simp] theorem modBind_packets (b : Nat) (f : Bind → Bind) : (modBind b f s).packets = s.packets := rfl
@[simp] theorem modBind_doe (b : Nat) (f : Bind → Bind) : (modBind b f s).doe = s.doe := rfl
@[simp] theorem modBind_agenda (b : Nat) (f : Bind → Bind) : (modBind b f s).agenda = s.agenda := rfl
@[simp] theorem modBind_fresh (b : Nat) (f : Bind → Bind) : (modBind b f s).fresh = s.fresh := rfl
@[simp] theorem modBind_ticks (b : Nat) (f : Bind → Bind) : (modBind b f s).ticks = s.ticks := rfl
@[simp] theorem modCluster_cur (c : Nat) (f : Cluster → Cluster) : (modCluster c f s).cur = s.cur := rfl
@[simp] theorem modCluster_tile (c : Nat) (f : Cluster → Cluster) : (modCluster c f s).tile = s.tile := rfl
@[simp] theorem modCluster_others (c : Nat) (f : Cluster → Cluster) : (modCluster c f s).others = s.others := rfl
@[simp] theorem modCluster_binds (c : Nat) (f : Cluster → Cluster) : (modCluster c f s).binds = s.binds := rfl
@[simp] theorem modCluster_clusters (c : Nat) (f : Cluster → Cluster) : (modCluster c f s).clusters = smSet c (f (getCluster c s)) s.clusters := rfl
@[simp] theorem modCluster_mem (c : Nat) (f : Cluster → Cluster) : (modCluster c f s).mem = s.mem := rfl
@[simp] theorem modCluster_flume (c : Nat) (f : Cluster → Cluster) : (modCluster c f s).flume = s.flume := rfl
@[simp] theorem modCluster_vds (c : Nat) (f : Cluster → Cluster) : (modCluster c f s).vds = s.vds := rfl
@[simp] theorem modCluster_mod (c : Nat) (f : Cluster → Cluster) : (modCluster c f s).mod = s.mod := rfl
@[simp] theorem modCluster_links (c : Nat) (f : Cluster → Cluster) : (modCluster c f s).links = s.links := rfl
@[simp] theorem modCluster_packets (c : Nat) (f : Cluster → Cluster) : (modCluster c f s).packets = s.packets := rfl
@[simp] theorem modCluster_doe (c : Nat) (f : Cluster → Cluster) : (modCluster c f s).doe = s.doe := rfl
@[simp] theorem modCluster_agenda (c : Nat) (f : Cluster → Cluster) : (modCluster c f s).agenda = s.agenda := rfl
@[simp] theorem modCluster_fresh (c : Nat) (f : Cluster → Cluster) : (modCluster c f s).fresh = s.fresh := rfl
@[simp] theorem modCluster_ticks (c : Nat) (f : Cluster → Cluster) : (modCluster c f s).ticks = s.ticks := rfl

/-! ## Results entering flight, records queued -/

@[simp] theorem pushAt_cur (a b c : Nat) (x : BitVec 5) (r : Result) : (pushAt a b c x r s).cur = s.cur := rfl
@[simp] theorem pushAt_tile_ctl (a b c : Nat) (x : BitVec 5) (r : Result) : (pushAt a b c x r s).tile.ctl = s.tile.ctl := rfl
@[simp] theorem pushAt_tile_mem (a b c : Nat) (x : BitVec 5) (r : Result) : (pushAt a b c x r s).tile.mem = s.tile.mem := rfl
@[simp] theorem pushAt_tile_eng (a b c : Nat) (x : BitVec 5) (r : Result) : (pushAt a b c x r s).tile.eng = s.tile.eng := rfl
@[simp] theorem pushAt_tile_place (a b c : Nat) (x : BitVec 5) (r : Result) : (pushAt a b c x r s).tile.place = s.tile.place := rfl
@[simp] theorem pushAt_others (a b c : Nat) (x : BitVec 5) (r : Result) : (pushAt a b c x r s).others = s.others := rfl
@[simp] theorem pushAt_binds (a b c : Nat) (x : BitVec 5) (r : Result) : (pushAt a b c x r s).binds = s.binds := rfl
@[simp] theorem pushAt_clusters (a b c : Nat) (x : BitVec 5) (r : Result) : (pushAt a b c x r s).clusters = s.clusters := rfl
@[simp] theorem pushAt_mem (a b c : Nat) (x : BitVec 5) (r : Result) : (pushAt a b c x r s).mem = s.mem := rfl
@[simp] theorem pushAt_flume (a b c : Nat) (x : BitVec 5) (r : Result) : (pushAt a b c x r s).flume = s.flume := rfl
@[simp] theorem pushAt_vds (a b c : Nat) (x : BitVec 5) (r : Result) : (pushAt a b c x r s).vds = s.vds := rfl
@[simp] theorem pushAt_mod (a b c : Nat) (x : BitVec 5) (r : Result) : (pushAt a b c x r s).mod = s.mod := rfl
@[simp] theorem pushAt_links (a b c : Nat) (x : BitVec 5) (r : Result) : (pushAt a b c x r s).links = s.links := rfl
@[simp] theorem pushAt_packets (a b c : Nat) (x : BitVec 5) (r : Result) : (pushAt a b c x r s).packets = s.packets := rfl
@[simp] theorem pushAt_doe (a b c : Nat) (x : BitVec 5) (r : Result) : (pushAt a b c x r s).doe = s.doe := rfl
@[simp] theorem pushAt_agenda (a b c : Nat) (x : BitVec 5) (r : Result) : (pushAt a b c x r s).agenda = s.agenda := rfl
@[simp] theorem pushAt_fresh (a b c : Nat) (x : BitVec 5) (r : Result) : (pushAt a b c x r s).fresh = s.fresh := rfl
@[simp] theorem pushAt_ticks (a b c : Nat) (x : BitVec 5) (r : Result) : (pushAt a b c x r s).ticks = s.ticks := rfl
@[simp] theorem queueRec_cur (v : BitVec 8) (q : Fin 4) (r : Rec) : (queueRec v q r s).cur = s.cur := rfl
@[simp] theorem queueRec_tile (v : BitVec 8) (q : Fin 4) (r : Rec) : (queueRec v q r s).tile = s.tile := rfl
@[simp] theorem queueRec_others (v : BitVec 8) (q : Fin 4) (r : Rec) : (queueRec v q r s).others = s.others := rfl
@[simp] theorem queueRec_binds (v : BitVec 8) (q : Fin 4) (r : Rec) : (queueRec v q r s).binds = s.binds := rfl
@[simp] theorem queueRec_clusters (v : BitVec 8) (q : Fin 4) (r : Rec) : (queueRec v q r s).clusters = s.clusters := rfl
@[simp] theorem queueRec_mem (v : BitVec 8) (q : Fin 4) (r : Rec) : (queueRec v q r s).mem = s.mem := rfl
@[simp] theorem queueRec_flume (v : BitVec 8) (q : Fin 4) (r : Rec) : (queueRec v q r s).flume = s.flume := rfl
@[simp] theorem queueRec_mod (v : BitVec 8) (q : Fin 4) (r : Rec) : (queueRec v q r s).mod = s.mod := rfl
@[simp] theorem queueRec_links (v : BitVec 8) (q : Fin 4) (r : Rec) : (queueRec v q r s).links = s.links := rfl
@[simp] theorem queueRec_packets (v : BitVec 8) (q : Fin 4) (r : Rec) : (queueRec v q r s).packets = s.packets := rfl
@[simp] theorem queueRec_doe (v : BitVec 8) (q : Fin 4) (r : Rec) : (queueRec v q r s).doe = s.doe := rfl
@[simp] theorem queueRec_agenda (v : BitVec 8) (q : Fin 4) (r : Rec) : (queueRec v q r s).agenda = s.agenda := rfl
@[simp] theorem queueRec_fresh (v : BitVec 8) (q : Fin 4) (r : Rec) : (queueRec v q r s).fresh = s.fresh := rfl
@[simp] theorem queueRec_ticks (v : BitVec 8) (q : Fin 4) (r : Rec) : (queueRec v q r s).ticks = s.ticks := rfl

end Sys2Proof.Laws
end

