-- ==== Sys2Proof/Laws/Faults.lean ====
section
/-! SUPPORT. What taking a fault, a held cycle, the end of an issue cycle and the issue of a syllable can do (16_preemption.md R412 to R419;
03_issue.md R24 to R26, R74, R80, R85). -/

namespace Sys2Proof.Laws

open Sys2Proof.Machine Sys2Proof.Safety

/-! ## Changes to listed tiles -/

/-- A change to a tile that keeps a property of the tile in focus, and what lies outside the tiles. -/
theorem overTiles_tile {β : Type} (g : Tile → β) {f : Tile → Tile} (hf : ∀ t, g (f t) = g t) (ps : List Nat) (s : State) :
    g (overTiles ps f s).tile = g s.tile := by
  induction ps generalizing s with
  | nil => rfl
  | cons p ps ih =>
    rw [show overTiles (p :: ps) f s = overTiles ps f (modTile p f s) from rfl, ih]
    unfold modTile setTile getTile
    split <;> simp_all

theorem overTiles_frame {β : Type} (g : State → β) (h1 : ∀ (s : State) t, g { s with tile := t } = g s)
    (h2 : ∀ (s : State) m, g { s with others := m } = g s) (f : Tile → Tile) (ps : List Nat) (s : State) :
    g (overTiles ps f s) = g s := by
  induction ps generalizing s with
  | nil => rfl
  | cons p ps ih =>
    rw [show overTiles (p :: ps) f s = overTiles ps f (modTile p f s) from rfl, ih]
    unfold modTile setTile
    split
    · exact h1 s _
    · exact h2 s _

theorem modBindOf_tile (o : Tile) (f : Bind → Bind) (s : State) : (modBindOf o f s).tile = s.tile := by
  unfold modBindOf; split <;> rfl

theorem modBindOf_mem (o : Tile) (f : Bind → Bind) (s : State) : (modBindOf o f s).mem = s.mem := by
  unfold modBindOf; split <;> rfl

theorem modBindOf_others (o : Tile) (f : Bind → Bind) (s : State) : (modBindOf o f s).others = s.others := by
  unfold modBindOf; split <;> rfl

theorem modBindOf_cur (o : Tile) (f : Bind → Bind) (s : State) : (modBindOf o f s).cur = s.cur := by
  unfold modBindOf; split <;> rfl

theorem modTile_tile {β : Type} (g : Tile → β) {f : Tile → Tile} (hf : ∀ t, g (f t) = g t) (p : Nat) (s : State) :
    g (modTile p f s).tile = g s.tile := by
  unfold modTile setTile getTile
  split <;> simp_all

theorem modTile_mem (f : Tile → Tile) (p : Nat) (s : State) : (modTile p f s).mem = s.mem := by
  unfold modTile setTile
  split <;> rfl

theorem modTile_cur (f : Tile → Tile) (p : Nat) (s : State) : (modTile p f s).cur = s.cur := by
  unfold modTile setTile
  split <;> rfl

/-! ## Taking faults -/

/-- A record of a fault leaves what control state and halting do not touch. -/
theorem recordFault_tile {β : Type} (g : Tile → β) (hc : ∀ (t : Tile) (c : Ctl), g { t with ctl := c } = g t) (p : Nat) (s : State)
    (f : TFault) : g (recordFault p s f).tile = g s.tile := by
  simp only [recordFault, modBindOf_tile]
  exact modTile_tile g (fun t => hc t _) p _

theorem recordFault_mem (p : Nat) (s : State) (f : TFault) : (recordFault p s f).mem = s.mem := by
  simp only [recordFault, modBindOf_mem, modTile_mem, queueRec_mem]

theorem recordFault_cur (p : Nat) (s : State) (f : TFault) : (recordFault p s f).cur = s.cur := by
  simp only [recordFault, modBindOf_cur, modTile_cur, queueRec_cur]

/-- What the faults given leave of the tile in focus and of memory. -/
theorem recordFaults_tile {β : Type} (g : Tile → β) (hc : ∀ (t : Tile) (c : Ctl), g { t with ctl := c } = g t) (p : Nat)
    (fs : List TFault) (s : State) : g (fs.foldl (recordFault p) s).tile = g s.tile := by
  induction fs generalizing s with
  | nil => rfl
  | cons f fs ih => rw [List.foldl_cons, ih, recordFault_tile g hc]

theorem recordFaults_mem (p : Nat) (fs : List TFault) (s : State) : (fs.foldl (recordFault p) s).mem = s.mem := by
  induction fs generalizing s with
  | nil => rfl
  | cons f fs ih => rw [List.foldl_cons, ih, recordFault_mem]

theorem recordFaults_cur (p : Nat) (fs : List TFault) (s : State) : (fs.foldl (recordFault p) s).cur = s.cur := by
  induction fs generalizing s with
  | nil => rfl
  | cons f fs ih => rw [List.foldl_cons, ih, recordFault_cur]

theorem recordPendings_tile {β : Type} (g : Tile → β) (hc : ∀ (t : Tile) (c : Ctl), g { t with ctl := c } = g t) (ps : List Nat)
    (s : State) : g (ps.foldl recordPending s).tile = g s.tile := by
  induction ps generalizing s with
  | nil => rfl
  | cons p ps ih => rw [List.foldl_cons, ih, recordPending, recordFaults_tile g hc]

theorem recordPendings_mem (ps : List Nat) (s : State) : (ps.foldl recordPending s).mem = s.mem := by
  induction ps generalizing s with
  | nil => rfl
  | cons p ps ih => rw [List.foldl_cons, ih, recordPending, recordFaults_mem]

/-- What halting the others leaves of the tile in focus and of memory. -/
theorem haltOthers_tile {β : Type} (g : Tile → β) (hc : ∀ (t : Tile) (c : Ctl), g { t with ctl := c } = g t)
    (ha : ∀ t : Tile, g (stopTile t) = g t) (s : State) : g (haltOthers s).tile = g s.tile := by
  unfold haltOthers
  simp only
  split
  · rw [overTiles_tile g ha, recordPendings_tile g hc]
  · refine overTiles_tile g (fun t => ?_) _ s
    split
    · exact hc t _
    · rfl

theorem haltOthers_mem (s : State) : (haltOthers s).mem = s.mem := by
  unfold haltOthers
  simp only
  split
  · rw [overTiles_frame State.mem (fun _ _ => rfl) (fun _ _ => rfl), recordPendings_mem]
  · exact overTiles_frame State.mem (fun _ _ => rfl) (fun _ _ => rfl) _ _ _

theorem stopTile_mem (t : Tile) : (stopTile t).mem = t.mem := by
  unfold stopTile; split <;> rfl

/-- Taking faults changes no memory of the tile. -/
theorem takeFaults_tile_mem (fs : List TFault) (s : State) : (takeFaults fs s).tile.mem = s.tile.mem := by
  unfold takeFaults
  split
  · rfl
  · rw [onTile_tile, stopTile_mem, haltOthers_tile Tile.mem (fun _ _ => rfl) stopTile_mem, recordFaults_tile Tile.mem fun _ _ => rfl]

/-- Nor does it change a byte of device, host, flash or peer memory. -/
theorem takeFaults_mem (fs : List TFault) (s : State) : (takeFaults fs s).mem = s.mem := by
  unfold takeFaults
  split
  · rfl
  · rw [onTile_mem, haltOthers_mem, recordFaults_mem]

theorem takeFault_tile_mem (f : TFault) (s : State) : (takeFault f s).tile.mem = s.tile.mem := by
  rw [takeFault, onCtl_tile_mem, takeFaults_tile_mem]

theorem takeFault_mem (f : TFault) (s : State) : (takeFault f s).mem = s.mem := by
  rw [takeFault, onCtl_mem, takeFaults_mem]

/-- The tile then no longer issues. -/
theorem takeFault_stops (f : TFault) (s : State) : (takeFault f s).tile.ctl.run ≠ .running := by
  have h : ∀ t : Tile, (stopTile t).ctl.run ≠ .running := fun t => by
    unfold stopTile
    split
    · simp [abandonPhase, haltTile]
    · assumption
  have hn : (takeFault f s).tile.ctl.run = (takeFaults (deferredOrder s.tile.ctl.deferred ++ [f]) s).tile.ctl.run := by
    simp only [takeFault, onCtl_tile_ctl, narrowPc]
    split <;> rfl
  rw [hn, takeFaults, if_neg (by simp), onTile_tile]
  exact h _

/-- A recorded fault marks its tile, with nothing deferred. -/
theorem recordFault_marks (s : State) (f : TFault) :
    (recordFault s.cur s f).tile.ctl.faulted = true ∧ (recordFault s.cur s f).tile.ctl.deferred = [] := by
  simp only [recordFault, modBindOf_tile]
  constructor <;> simp [modTile, setTile, getTile]

/-! ## Held cycles, the program counter, the end of a cycle -/

theorem heldCounted_tile_mem (s : State) : (heldCounted s).tile.mem = s.tile.mem := rfl
theorem heldHaltable_tile_mem (s : State) : (heldHaltable s).tile.mem = s.tile.mem := rfl
theorem endCycle_tile_mem (p : Bool) (i s : State) : (endCycle p i s).tile.mem = s.tile.mem := rfl
theorem endCycle_mem (p : Bool) (i s : State) : (endCycle p i s).mem = s.mem := rfl
theorem endCycle_tile_eng (p : Bool) (i s : State) : (endCycle p i s).tile.eng = s.tile.eng := rfl
theorem endCycle_tile_place (p : Bool) (i s : State) : (endCycle p i s).tile.place = s.tile.place := rfl

/-- What the iteration end does not touch. -/
theorem iterationEnd_frame {β : Type} (g : State → β) (hc : ∀ f s, g (onCtl f s) = g s) (hr : ∀ s, g (onRegs rotateBase s) = g s)
    (t0 : Tile) (pc next : Word) (n : Nat) (s : State) : g (iterationEnd t0 pc next n s) = g s := by
  induction n generalizing s with
  | zero => exact hc _ s
  | succ n ih =>
    simp only [iterationEnd]
    split
    · exact hc _ s
    · split
      · split
        · rw [hc]; split
          · exact hr s
          · rfl
        · rw [ih, hc]; split
          · exact hr s
          · rfl
      · exact hc _ s

/-- The program counter's move leaves everything but the control state and RBASE. -/
theorem advance_frame {β : Type} (g : State → β) (hc : ∀ f s, g (onCtl f s) = g s) (hr : ∀ s, g (onRegs rotateBase s) = g s)
    (i s : State) : g (advance i s) = g s := by
  unfold advance
  split
  · rfl
  · exact iterationEnd_frame g hc hr _ _ _ _ _

theorem advance_tile_mem (i s : State) : (advance i s).tile.mem = s.tile.mem :=
  advance_frame (·.tile.mem) (fun _ _ => rfl) (fun _ => rfl) i s
theorem advance_mem (i s : State) : (advance i s).mem = s.mem := advance_frame State.mem (fun _ _ => rfl) (fun _ => rfl) i s
theorem advance_tile_eng (i s : State) : (advance i s).tile.eng = s.tile.eng :=
  advance_frame (·.tile.eng) (fun _ _ => rfl) (fun _ => rfl) i s
theorem advance_tile_place (i s : State) : (advance i s).tile.place = s.tile.place :=
  advance_frame (·.tile.place) (fun _ _ => rfl) (fun _ => rfl) i s

/-! ## The issue of a syllable -/

/-- The state after a syllable has taken effect and its cycle has ended. -/
def performedBy (o : SlotOp) (s : State) : State := endCycle (o.hdr.pp || o.point) s (o.post s (advance s (o.eff s s)))

/-- What a held cycle of a syllable alone notes. -/
theorem noteHold_one {o : SlotOp} {s : State} (h : o.on s = true) (w : o.fpHeld s = true ∨ o.wait s = true) :
    noteHold [o] s = if o.fpHeld s then o.reach s else o.held (o.reach s) := by
  have ha : guarded [o] s = [o] := by simp [guarded, h]
  by_cases hf : o.fpHeld s = true
  · simp [noteHold, ha, hf]
  · simp [noteHold, ha, hf, w.resolve_left hf]

/-- A syllable alone that only its bank conflicts still hold. -/
theorem bankCycle_one (o : SlotOp) (n : Nat) (s : State) :
    bankCycle [o] n s = heldCounted (onCtl (fun c => { c with bankLeft := some (n - 1) }) s)
      ∨ (o.on s = true ∧ o.again s = true ∧ n = 0
        ∧ bankCycle [o] n s = heldHaltable (noteHold [o] (onCtl (fun c => { c with bankLeft := none }) s)))
      ∨ (∃ f, o.on s = true ∧ o.fault6 s = some f ∧ bankCycle [o] n s = takeFault f s)
      ∨ (o.on s = false ∧ bankCycle [o] n s = endCycle (o.hdr.pp || o.point) s (advance s s))
      ∨ (o.on s = true ∧ bankCycle [o] n s = performedBy o s) := by
  by_cases hn : n = 0
  · subst hn
    by_cases hon : o.on s = true
    · have ha : guarded [o] s = [o] := by simp [guarded, hon]
      by_cases hg : o.again s = true
      · exact .inr (.inl ⟨hon, hg, rfl, by simp [bankCycle, ha, hg]⟩)
      cases h6 : o.fault6 s with
      | some f => exact .inr (.inr (.inl ⟨f, hon, rfl, by simp [bankCycle, ha, firstOf, firstFault, h6, hg]⟩))
      | none =>
        exact .inr (.inr (.inr (.inr
          ⟨hon, by simp [bankCycle, ha, firstOf, firstFault, h6, hg, issueNow, performedBy, isPoint]⟩)))
    · have ha : guarded [o] s = [] := by simp [guarded, hon]
      exact .inr (.inr (.inr (.inl ⟨by simpa using hon, by simp [bankCycle, ha, firstOf, firstFault, issueNow, isPoint]⟩)))
  · exact .inl (by simp [bankCycle, hn])

/-- A syllable alone is held by the interlock, takes a fault of step 5, is held by a footprint or its own wait, or only bank conflicts are left. -/
theorem issue_steps (o : SlotOp) (s : State) :
    issueOps [o] s = heldCounted s
      ∨ (∃ f, o.on s = true ∧ o.fault5 s = some f ∧ issueOps [o] s = takeFault f (o.judge s))
      ∨ (o.on s = true ∧ (o.fpHeld s = true ∨ o.wait s = true) ∧ issueOps [o] s = heldHaltable (noteHold [o] s))
      ∨ ∃ n, issueOps [o] s = bankCycle [o] n s := by
  by_cases hi : interlocked s.tile.regs = true
  · exact .inl (by simp [issueOps, hi])
  · cases hl : s.tile.ctl.bankLeft with
    | some n => exact .inr (.inr (.inr ⟨n, by simp [issueOps, hi, hl]⟩))
    | none =>
      by_cases hon : o.on s = true
      · have ha : guarded [o] s = [o] := by simp [guarded, hon]
        cases h5 : o.fault5 s with
        | some f => exact .inr (.inl ⟨f, hon, rfl, by simp [issueOps, hi, hl, ha, firstOf, firstFault, h5, judged]⟩)
        | none =>
          by_cases hw : o.fpHeld s = true ∨ o.wait s = true
          · exact .inr (.inr (.inl ⟨hon, hw, by simp [issueOps, hi, hl, isHeld, ha, firstOf, firstFault, h5, hw]⟩))
          · exact .inr (.inr (.inr ⟨_, by simp only [not_or] at hw; simp [issueOps, hi, hl, isHeld, ha, firstOf, firstFault, h5, hw]; rfl⟩))
      · have ha : guarded [o] s = [] := by simp [guarded, hon]
        exact .inr (.inr (.inr ⟨_, by simp [issueOps, hi, hl, isHeld, ha, firstOf, firstFault]; rfl⟩))

/-- EVERYTHING A SYLLABLE ALONE CAN DO: it is held by the interlock, by a footprint or its own wait, again after its bank conflicts, or by a
bank conflict; it takes a fault, of step 5 once its check has acted or of step 6; it passes with its guard false; or it takes effect. -/
theorem issue_cases (o : SlotOp) (s : State) :
    issueOps [o] s = heldCounted s
      ∨ (∃ f, o.on s = true ∧ o.fault5 s = some f ∧ issueOps [o] s = takeFault f (o.judge s))
      ∨ (∃ f, o.on s = true ∧ o.fault6 s = some f ∧ issueOps [o] s = takeFault f s)
      ∨ (o.on s = true ∧ (o.fpHeld s = true ∨ o.wait s = true) ∧ issueOps [o] s = heldHaltable (noteHold [o] s))
      ∨ (o.on s = true ∧ o.again s = true
        ∧ issueOps [o] s = heldHaltable (noteHold [o] (onCtl (fun c => { c with bankLeft := none }) s)))
      ∨ (∃ n, issueOps [o] s = heldCounted (onCtl (fun c => { c with bankLeft := some n }) s))
      ∨ (o.on s = false ∧ issueOps [o] s = endCycle (o.hdr.pp || o.point) s (advance s s))
      ∨ (o.on s = true ∧ issueOps [o] s = performedBy o s) := by
  rcases issue_steps o s with h | ⟨f, hon, h5, h⟩ | h | ⟨n, h⟩
  · exact .inl h
  · exact .inr (.inl ⟨f, hon, h5, h⟩)
  · exact .inr (.inr (.inr (.inl h)))
  · rw [h]
    rcases bankCycle_one o n s with b | ⟨hon, g, _, b⟩ | ⟨f, hon, h6, b⟩ | b | b
    · exact .inr (.inr (.inr (.inr (.inr (.inl ⟨_, b⟩)))))
    · exact .inr (.inr (.inr (.inr (.inl ⟨hon, g, b⟩))))
    · exact .inr (.inr (.inl ⟨f, hon, h6, b⟩))
    · exact .inr (.inr (.inr (.inr (.inr (.inr (.inl b))))))
    · exact .inr (.inr (.inr (.inr (.inr (.inr (.inr b))))))

end Sys2Proof.Laws
end

