-- ==== Sys2Proof/Laws/Gangs.lean ====
section
/-! SUPPORT. What the halts that the Yarder plans for several ready jobs come to (15_tiles_time.md R391). -/

namespace Sys2Proof.Laws

open Sys2Proof.Machine

theorem sooner_left (d : Nat) (y : Option Nat) : ∃ d', sooner (some d) y = some d' ∧ d' ≤ d := by
  cases y <;> simp [sooner]

theorem sooner_right (d : Nat) (y : Option Nat) : ∃ d', sooner y (some d) = some d' ∧ d' ≤ d := by
  cases y <;> simp [sooner]

@[simp] theorem planHalt_planned (s : State) (q : Machine.Ready) (b : Bind) : (planHalt s q b).planned = true := by
  unfold planHalt; split <;> simp_all

@[simp] theorem planHalt_state (s : State) (q : Machine.Ready) (b : Bind) : (planHalt s q b).state = b.state := by
  unfold planHalt; split <;> rfl

@[simp] theorem latestHalt_planHalt (s : State) (q : Machine.Ready) (b : Bind) (d : Nat) : latestHalt s (planHalt s q b) d = latestHalt s b d := by
  unfold latestHalt planHalt; split <;> rfl

/-- A planned halt serves its job in time. -/
theorem planHalt_serves (s : State) (q : Machine.Ready) (b : Bind) (d : Nat) (h : q.due = some d) :
    ∃ d', (planHalt s q b).haltBy = some d' ∧ d' ≤ latestHalt s b d := by
  unfold planHalt
  split
  · simpa [h] using sooner_right _ _
  · simp [h]

/-- Planning for more jobs puts no planned halt off. -/
theorem planHalts_keep (s : State) (qs : List Machine.Ready) (b : Bind) (d : Nat) (hp : b.planned = true) (h : b.haltBy = some d) :
    ∃ d', (planHalts s qs b).haltBy = some d' ∧ d' ≤ d := by
  unfold planHalts
  induction qs generalizing b d with
  | nil => exact ⟨d, h, Nat.le_refl _⟩
  | cons q qs ih =>
    obtain ⟨d1, e1, l1⟩ := sooner_left d (q.due.map (latestHalt s b))
    obtain ⟨d2, e2, l2⟩ := ih (planHalt s q b) d1 (by simp) (by simp [planHalt, hp, h, e1])
    exact ⟨d2, e2, by omega⟩

theorem planHalts_planned (s : State) (qs : List Machine.Ready) (b : Bind) : (planHalts s qs b).planned = (b.planned || !qs.isEmpty) := by
  unfold planHalts
  induction qs generalizing b with
  | nil => simp
  | cons q qs ih => rw [List.foldl, ih]; simp

@[simp] theorem planHalts_state (s : State) (qs : List Machine.Ready) (b : Bind) : (planHalts s qs b).state = b.state := by
  unfold planHalts
  induction qs generalizing b with
  | nil => rfl
  | cons q qs ih => rw [List.foldl, ih]; simp

end Sys2Proof.Laws
end

