-- ==== Sys2Proof/Laws/Memory.lean ====
section
/-! SUPPORT. The canonical form of the sparse tables: every operation on bytes, poison marks, table entries, slots and accumulators keeps
it, and memory has it at reset (log entry 1). -/

namespace Sys2Proof.Laws

open Sys2Proof.Machine Sys2Proof.Safety

variable {α : Type}

/-- Every listed key is above `k`. -/
def Above (k : Nat) (m : SMap α) : Prop := ∀ x ∈ m, k < x.1

theorem smSet_above {j k : Nat} {v : α} {m : SMap α} (hj : j < k) (h : Above j m) : Above j (smSet k v m) := by
  induction m with
  | nil => simp [smSet, Above, hj]
  | cons x t ih =>
    obtain ⟨k', v'⟩ := x
    simp only [Above, List.mem_cons, forall_eq_or_imp] at h
    unfold smSet
    split
    · simp only [Above, List.mem_cons, forall_eq_or_imp]; exact ⟨hj, h.1, h.2⟩
    · split
      · simp only [Above, List.mem_cons, forall_eq_or_imp]; exact ⟨hj, h.2⟩
      · simp only [Above, List.mem_cons, forall_eq_or_imp]; exact ⟨h.1, ih h.2⟩

theorem smDel_above {j k : Nat} {m : SMap α} (h : Above j m) : Above j (smDel k m) := by
  induction m with
  | nil => simp [smDel, Above]
  | cons x t ih =>
    obtain ⟨k', v'⟩ := x
    simp only [Above, List.mem_cons, forall_eq_or_imp] at h
    unfold smDel
    split
    · exact h.2
    · simp only [Above, List.mem_cons, forall_eq_or_imp]; exact ⟨h.1, ih h.2⟩

variable [DecidableEq α] {d : α}

/-- The canonical form, one entry at a time. -/
theorem smWf_cons {k : Nat} {v : α} {t : SMap α} : smWf d ((k, v) :: t) = true ↔ v ≠ d ∧ Above k t ∧ smWf d t = true := by
  induction t generalizing k v with
  | nil => simp [smWf, Above]
  | cons x t ih =>
    obtain ⟨k', v'⟩ := x
    simp only [smWf, Bool.and_eq_true, decide_eq_true_eq, Above, List.mem_cons, forall_eq_or_imp]
    constructor
    · rintro ⟨⟨h1, h2⟩, h3⟩
      exact ⟨h1, ⟨h2, fun y hy => Nat.lt_trans h2 ((ih.mp h3).2.1 y hy)⟩, h3⟩
    · rintro ⟨h1, ⟨h2, -⟩, h3⟩
      exact ⟨⟨h1, h2⟩, h3⟩

theorem smSet_wf {k : Nat} {v : α} {m : SMap α} (hv : v ≠ d) (h : smWf d m = true) : smWf d (smSet k v m) = true := by
  induction m with
  | nil => simp [smSet, smWf, hv]
  | cons x t ih =>
    obtain ⟨k', v'⟩ := x
    obtain ⟨h1, h2, h3⟩ := smWf_cons.mp h
    unfold smSet
    split
    · rename_i hk
      exact smWf_cons.mpr ⟨hv, fun y hy => by
        rcases List.mem_cons.mp hy with rfl | hy
        · exact hk
        · exact Nat.lt_trans hk (h2 y hy), h⟩
    · split
      · rename_i hk; subst hk; exact smWf_cons.mpr ⟨hv, h2, h3⟩
      · rename_i hk hk'; exact smWf_cons.mpr ⟨h1, smSet_above (by omega) h2, ih h3⟩

theorem smDel_wf {k : Nat} {m : SMap α} (h : smWf d m = true) : smWf d (smDel k m) = true := by
  induction m with
  | nil => rfl
  | cons x t ih =>
    obtain ⟨k', v'⟩ := x
    obtain ⟨h1, h2, h3⟩ := smWf_cons.mp h
    unfold smDel
    split
    · exact h3
    · exact smWf_cons.mpr ⟨h1, smDel_above h2, ih h3⟩

/-- One entry put keeps the canonical form. -/
theorem smPut_wf {k : Nat} {v : α} {m : SMap α} (h : smWf d m = true) : smWf d (smPut d k v m) = true := by
  unfold smPut
  split
  · exact smDel_wf h
  · exact smSet_wf ‹_› h

theorem foldl_smPut_wf {β : Type} (key : β → Nat) (val : β → α) (xs : List β) {m : SMap α} (h : smWf d m = true) :
    smWf d (xs.foldl (fun m x => smPut d (key x) (val x) m) m) = true := by
  induction xs generalizing m with
  | nil => exact h
  | cons x xs ih => exact ih (smPut_wf h)

theorem foldl_keeps {β γ : Type} {P : γ → Prop} {f : γ → β → γ} (hf : ∀ m x, P m → P (f m x)) (xs : List β) {m : γ} (h : P m) :
    P (xs.foldl f m) := by
  induction xs generalizing m with
  | nil => exact h
  | cons x xs ih => exact ih (hf m x h)

theorem putB_wf {a : Nat} {b : Byte} {m : SMap Byte} (h : Memory.wf m = true) : Memory.wf (putB a b m) = true := smPut_wf h

theorem writeB_wf {a n v : Nat} {m : SMap Byte} (h : Memory.wf m = true) : Memory.wf (writeB a n v m) = true := by
  induction n generalizing a v m with
  | zero => exact h
  | succ n ih => exact ih (putB_wf h)

theorem writeList_wf {a : Nat} {bs : List Byte} {m : SMap Byte} (h : Memory.wf m = true) : Memory.wf (writeList a bs m) = true := by
  induction bs generalizing a m with
  | nil => exact h
  | cons b bs ih => exact ih (putB_wf h)

theorem unpoison_wf {a n : Nat} {m : SMap Bool} (h : smWf false m = true) : smWf false (unpoison a n m) = true :=
  foldl_smPut_wf _ _ _ h

theorem poisonRange_wf {a n : Nat} {m : SMap Bool} (h : smWf false m = true) : smWf false (poisonRange a n m) = true := by
  unfold poisonRange
  split
  · exact h
  · exact foldl_smPut_wf _ _ _ h

/-! ## The memories of a tile -/

/-- What a tile's memories in canonical form are. -/
theorem tileMemWf_iff {m : TMem} : tileMemWf m = true ↔ Memory.wf m.spad = true ∧ Memory.wf m.cpart = true ∧ Memory.wf m.spill = true
    ∧ smWf false m.poison = true ∧ smWf 0 m.tstore = true ∧ smWf 0 m.rstore = true ∧ smWf 0 m.rentry = true ∧ smWf 0 m.acc = true := by
  simp only [tileMemWf, Bool.and_eq_true]
  tauto

/-- A store to scratchpad keeps the canonical form. -/
theorem spadStore_wf {a n v : Nat} {m : TMem} (h : tileMemWf m = true) : tileMemWf (spadStore a n v m) = true := by
  have h := tileMemWf_iff.mp h
  exact tileMemWf_iff.mpr ⟨writeB_wf h.1, h.2.1, h.2.2.1, unpoison_wf h.2.2.2.1, h.2.2.2.2⟩

theorem spadWrite_wf {a : Nat} {bs : List Byte} {m : TMem} (h : tileMemWf m = true) : tileMemWf (spadWrite a bs m) = true := by
  have h := tileMemWf_iff.mp h
  exact tileMemWf_iff.mpr ⟨writeList_wf h.1, h.2.1, h.2.2.1, unpoison_wf h.2.2.2.1, h.2.2.2.2⟩

/-- So do an update of a sync word, a write of a board card and a slice of accumulators. -/
theorem syncAdd_wf {a n : Nat} {m : TMem} (h : tileMemWf m = true) : tileMemWf (syncAdd a n m) = true := spadStore_wf h

theorem writeCard_wf {a lap badtile : Nat} {st : BitVec 8} {v : BitVec 16} {m : TMem} (h : tileMemWf m = true) :
    tileMemWf (writeCard a st v lap badtile m) = true := spadStore_wf (spadStore_wf h)

theorem writeSlice_wf {k : Nat} {v : VWord} {m : TMem} (h : tileMemWf m = true) : tileMemWf (writeSlice k v m) = true := by
  have h := tileMemWf_iff.mp h
  exact tileMemWf_iff.mpr ⟨h.1, h.2.1, h.2.2.1, h.2.2.2.1, h.2.2.2.2.1, h.2.2.2.2.2.1, h.2.2.2.2.2.2.1, foldl_smPut_wf _ _ _ h.2.2.2.2.2.2.2⟩

/-- The elements of a vector store. -/
theorem storeElems_wf {w : Nat} {v : VWord} {es : List (Nat × Word)} {m : TMem} (h : tileMemWf m = true) :
    tileMemWf (storeElems w v es m) = true := by
  have h := tileMemWf_iff.mp h
  refine tileMemWf_iff.mpr ⟨?_, h.2.1, h.2.2.1, foldl_smPut_wf _ _ _ h.2.2.2.1, h.2.2.2.2⟩
  exact foldl_keeps (P := fun m => Memory.wf m = true) (fun m e hm => writeB_wf hm) _ h.1

/-- The routine store after an MLDR. -/
theorem mldrWrite_wf {a : Nat} {x : Word} {m : TMem} (h : tileMemWf m = true) : tileMemWf (mldrWrite a x m) = true := by
  have h := tileMemWf_iff.mp h
  refine tileMemWf_iff.mpr ⟨h.1, h.2.1, h.2.2.1, h.2.2.2.1, h.2.2.2.2.1, foldl_smPut_wf _ _ _ h.2.2.2.2.2.1, ?_, h.2.2.2.2.2.2.2⟩
  simp only [mldrWrite]
  split
  · exact smPut_wf h.2.2.2.2.2.2.1
  · exact h.2.2.2.2.2.2.1

/-! ## Device memory and reset -/

/-- A write to device memory keeps its canonical form. -/
theorem devStore_wf {pa : Nat} {bs : List Byte} {s : State} (h : Memory.wf s.mem.dmem = true) :
    Memory.wf (devStore pa bs s).mem.dmem = true := by
  unfold devStore
  simp only
  split
  · exact h
  · exact writeList_wf h

/-- A write to host memory keeps its canonical form. -/
theorem hostWrite_wf {a n v : Nat} {s : State} (h : Memory.wf s.mem.hmem = true) : Memory.wf (hostWrite a n v s).mem.hmem = true :=
  writeB_wf h

/-- Memory has the canonical form at reset. -/
theorem reset_memory_wf : tileMemWf State.reset.tile.mem = true ∧ Memory.wf State.reset.mem.dmem = true
    ∧ Memory.wf State.reset.mem.hmem = true := by decide

end Sys2Proof.Laws
end

