-- ==== Sys2Proof/Laws/PerInstr.lean ====
section
/-! SUPPORT. One lemma per instruction for each family of statements about instructions as syntax. -/

open Sys2Proof

/-- A syllable's word and a micro-op's word are encodings of different instructions (02_encoding.md R39; 08_matrix.md R226). -/
def Sys2Proof.Laws.Words.Statement (i : Instr) : Prop := (encodeSyllable i).isSome = true → encodeMicro i = none

theorem Sys2Proof.Laws.Words.bundleIssue : Sys2Proof.Laws.Words.Statement .bundleIssue := fun _ => rfl
theorem Sys2Proof.Laws.Words.resultLanding : Sys2Proof.Laws.Words.Statement .resultLanding := fun _ => rfl
theorem Sys2Proof.Laws.Words.watchdog : Sys2Proof.Laws.Words.Statement .watchdog := fun _ => rfl
theorem Sys2Proof.Laws.Words.overlayPageIn : Sys2Proof.Laws.Words.Statement .overlayPageIn := fun _ => rfl
theorem Sys2Proof.Laws.Words.tileFree : Sys2Proof.Laws.Words.Statement .tileFree := fun _ => rfl
theorem Sys2Proof.Laws.Words.nop : ∀ h, Sys2Proof.Laws.Words.Statement (.nop h) := fun _ _ => rfl
theorem Sys2Proof.Laws.Words.add : ∀ h d a b, Sys2Proof.Laws.Words.Statement (.add h d a b) := fun _ _ _ _ _ => rfl
theorem Sys2Proof.Laws.Words.addi : ∀ h d a imm, Sys2Proof.Laws.Words.Statement (.addi h d a imm) := fun _ _ _ _ _ => rfl
theorem Sys2Proof.Laws.Words.sub : ∀ h d a b, Sys2Proof.Laws.Words.Statement (.sub h d a b) := fun _ _ _ _ _ => rfl
theorem Sys2Proof.Laws.Words.mul : ∀ h d a b, Sys2Proof.Laws.Words.Statement (.mul h d a b) := fun _ _ _ _ _ => rfl
theorem Sys2Proof.Laws.Words.mulh : ∀ h op d a b, Sys2Proof.Laws.Words.Statement (.mulh h op d a b) := fun _ _ _ _ _ _ => rfl
theorem Sys2Proof.Laws.Words.div : ∀ h op d a b, Sys2Proof.Laws.Words.Statement (.div h op d a b) := fun _ _ _ _ _ _ => rfl
theorem Sys2Proof.Laws.Words.and : ∀ h d a b, Sys2Proof.Laws.Words.Statement (.and h d a b) := fun _ _ _ _ _ => rfl
theorem Sys2Proof.Laws.Words.andi : ∀ h d a imm, Sys2Proof.Laws.Words.Statement (.andi h d a imm) := fun _ _ _ _ _ => rfl
theorem Sys2Proof.Laws.Words.or : ∀ h d a b, Sys2Proof.Laws.Words.Statement (.or h d a b) := fun _ _ _ _ _ => rfl
theorem Sys2Proof.Laws.Words.ori : ∀ h d a imm, Sys2Proof.Laws.Words.Statement (.ori h d a imm) := fun _ _ _ _ _ => rfl
theorem Sys2Proof.Laws.Words.xor : ∀ h d a b, Sys2Proof.Laws.Words.Statement (.xor h d a b) := fun _ _ _ _ _ => rfl
theorem Sys2Proof.Laws.Words.xori : ∀ h d a imm, Sys2Proof.Laws.Words.Statement (.xori h d a imm) := fun _ _ _ _ _ => rfl
theorem Sys2Proof.Laws.Words.shl : ∀ h d a b, Sys2Proof.Laws.Words.Statement (.shl h d a b) := fun _ _ _ _ _ => rfl
theorem Sys2Proof.Laws.Words.shr : ∀ h arith d a b, Sys2Proof.Laws.Words.Statement (.shr h arith d a b) := fun _ _ _ _ _ _ => rfl
theorem Sys2Proof.Laws.Words.shli : ∀ h d a n, Sys2Proof.Laws.Words.Statement (.shli h d a n) := fun _ _ _ _ _ => rfl
theorem Sys2Proof.Laws.Words.shri : ∀ h arith d a n, Sys2Proof.Laws.Words.Statement (.shri h arith d a n) := fun _ _ _ _ _ _ => rfl
theorem Sys2Proof.Laws.Words.min : ∀ h unsigned d a b, Sys2Proof.Laws.Words.Statement (.min h unsigned d a b) := fun _ _ _ _ _ _ => rfl
theorem Sys2Proof.Laws.Words.max : ∀ h unsigned d a b, Sys2Proof.Laws.Words.Statement (.max h unsigned d a b) := fun _ _ _ _ _ _ => rfl
theorem Sys2Proof.Laws.Words.clz : ∀ h d a, Sys2Proof.Laws.Words.Statement (.clz h d a) := fun _ _ _ _ => rfl
theorem Sys2Proof.Laws.Words.popc : ∀ h d a, Sys2Proof.Laws.Words.Statement (.popc h d a) := fun _ _ _ _ => rfl
theorem Sys2Proof.Laws.Words.ext : ∀ h signed d a pos len1, Sys2Proof.Laws.Words.Statement (.ext h signed d a pos len1) := fun _ _ _ _ _ _ _ => rfl
theorem Sys2Proof.Laws.Words.ins : ∀ h d a pos len1, Sys2Proof.Laws.Words.Statement (.ins h d a pos len1) := fun _ _ _ _ _ _ => rfl
theorem Sys2Proof.Laws.Words.movi : ∀ h d imm, Sys2Proof.Laws.Words.Statement (.movi h d imm) := fun _ _ _ _ => rfl
theorem Sys2Proof.Laws.Words.movh : ∀ h d a imm, Sys2Proof.Laws.Words.Statement (.movh h d a imm) := fun _ _ _ _ _ => rfl
theorem Sys2Proof.Laws.Words.sel : ∀ h d pn a b, Sys2Proof.Laws.Words.Statement (.sel h d pn a b) := fun _ _ _ _ _ _ => rfl
theorem Sys2Proof.Laws.Words.cmp : ∀ h c pd pe a b, Sys2Proof.Laws.Words.Statement (.cmp h c pd pe a b) := fun _ _ _ _ _ _ _ => rfl
theorem Sys2Proof.Laws.Words.cmpi : ∀ h c pt pc a imm, Sys2Proof.Laws.Words.Statement (.cmpi h c pt pc a imm) := fun _ _ _ _ _ _ _ => rfl
theorem Sys2Proof.Laws.Words.pand : ∀ h op pd pe pa pb, Sys2Proof.Laws.Words.Statement (.pand h op pd pe pa pb) := fun _ _ _ _ _ _ _ => rfl
theorem Sys2Proof.Laws.Words.pset : ∀ h value pd pe, Sys2Proof.Laws.Words.Statement (.pset h value pd pe) := fun _ _ _ _ _ => rfl
theorem Sys2Proof.Laws.Words.lds : ∀ h w d base disp, Sys2Proof.Laws.Words.Statement (.lds h w d base disp) := fun _ _ _ _ _ _ => rfl
theorem Sys2Proof.Laws.Words.sts : ∀ h w src base disp, Sys2Proof.Laws.Words.Statement (.sts h w src base disp) := fun _ _ _ _ _ _ => rfl
theorem Sys2Proof.Laws.Words.ldp : ∀ h w d disp, Sys2Proof.Laws.Words.Statement (.ldp h w d disp) := fun _ _ _ _ _ => rfl
theorem Sys2Proof.Laws.Words.stp : ∀ h w src disp, Sys2Proof.Laws.Words.Statement (.stp h w src disp) := fun _ _ _ _ _ => rfl
theorem Sys2Proof.Laws.Words.ldg : ∀ h w o d base sd, Sys2Proof.Laws.Words.Statement (.ldg h w o d base sd) := fun _ _ _ _ _ _ _ => rfl
theorem Sys2Proof.Laws.Words.ldgComplete : Sys2Proof.Laws.Words.Statement .ldgComplete := fun _ => rfl
theorem Sys2Proof.Laws.Words.stg : ∀ h w o src base sd, Sys2Proof.Laws.Words.Statement (.stg h w o src base sd) := fun _ _ _ _ _ _ _ => rfl
theorem Sys2Proof.Laws.Words.storeQueuePerform : ∀ n, Sys2Proof.Laws.Words.Statement (.storeQueuePerform n) := fun _ _ => rfl
theorem Sys2Proof.Laws.Words.amo : ∀ h op w o sc d base b, Sys2Proof.Laws.Words.Statement (.amo h op w o sc d base b) := fun _ _ _ _ _ _ _ _ _ => rfl
theorem Sys2Proof.Laws.Words.acas : ∀ h w o sc d base b, Sys2Proof.Laws.Words.Statement (.acas h w o sc d base b) := fun _ _ _ _ _ _ _ _ => rfl
theorem Sys2Proof.Laws.Words.red : ∀ h op w o sc base b, Sys2Proof.Laws.Words.Statement (.red h op w o sc base b) := fun _ _ _ _ _ _ _ _ => rfl
theorem Sys2Proof.Laws.Words.fence : ∀ h k sc, Sys2Proof.Laws.Words.Statement (.fence h k sc) := fun _ _ _ _ => rfl
theorem Sys2Proof.Laws.Words.br : ∀ h disp, Sys2Proof.Laws.Words.Statement (.br h disp) := fun _ _ _ => rfl
theorem Sys2Proof.Laws.Words.brt : ∀ h t0 t1 t2 t3 stride1 disp, Sys2Proof.Laws.Words.Statement (.brt h t0 t1 t2 t3 stride1 disp) := fun _ _ _ _ _ _ _ _ => rfl
theorem Sys2Proof.Laws.Words.bri : ∀ h a, Sys2Proof.Laws.Words.Statement (.bri h a) := fun _ _ _ => rfl
theorem Sys2Proof.Laws.Words.call : ∀ h disp, Sys2Proof.Laws.Words.Statement (.call h disp) := fun _ _ _ => rfl
theorem Sys2Proof.Laws.Words.ret : ∀ h, Sys2Proof.Laws.Words.Statement (.ret h) := fun _ _ => rfl
theorem Sys2Proof.Laws.Words.loop : ∀ h level count rotate len1, Sys2Proof.Laws.Words.Statement (.loop h level count rotate len1) := fun _ _ _ _ _ _ => rfl
theorem Sys2Proof.Laws.Words.lbrk : ∀ h level, Sys2Proof.Laws.Words.Statement (.lbrk h level) := fun _ _ _ => rfl
theorem Sys2Proof.Laws.Words.endTask : ∀ h, Sys2Proof.Laws.Words.Statement (.endTask h) := fun _ _ => rfl
theorem Sys2Proof.Laws.Words.waits : ∀ h a b, Sys2Proof.Laws.Words.Statement (.waits h a b) := fun _ _ _ _ => rfl
theorem Sys2Proof.Laws.Words.monitor : ∀ h a, Sys2Proof.Laws.Words.Statement (.monitor h a) := fun _ _ _ => rfl
theorem Sys2Proof.Laws.Words.monitorPollWake : Sys2Proof.Laws.Words.Statement .monitorPollWake := fun _ => rfl
theorem Sys2Proof.Laws.Words.waitm : ∀ h w t a b, Sys2Proof.Laws.Words.Statement (.waitm h w t a b) := fun _ _ _ _ _ _ => rfl
theorem Sys2Proof.Laws.Words.waitmTimeout : Sys2Proof.Laws.Words.Statement .waitmTimeout := fun _ => rfl
theorem Sys2Proof.Laws.Words.mbx : ∀ h d a idx, Sys2Proof.Laws.Words.Statement (.mbx h d a idx) := fun _ _ _ _ _ => rfl
theorem Sys2Proof.Laws.Words.mbxw : ∀ h a idx, Sys2Proof.Laws.Words.Statement (.mbxw h a idx) := fun _ _ _ _ => rfl
theorem Sys2Proof.Laws.Words.next : ∀ h d pe, Sys2Proof.Laws.Words.Statement (.next h d pe) := fun _ _ _ _ => rfl
theorem Sys2Proof.Laws.Words.align : ∀ h peer, Sys2Proof.Laws.Words.Statement (.align h peer) := fun _ _ _ => rfl
theorem Sys2Proof.Laws.Words.bar : ∀ h k e, Sys2Proof.Laws.Words.Statement (.bar h k e) := fun _ _ _ _ => rfl
theorem Sys2Proof.Laws.Words.barrierRelease : ∀ e, Sys2Proof.Laws.Words.Statement (.barrierRelease e) := fun _ _ => rfl
theorem Sys2Proof.Laws.Words.rdsr : ∀ h d idx, Sys2Proof.Laws.Words.Statement (.rdsr h d idx) := fun _ _ _ _ => rfl
theorem Sys2Proof.Laws.Words.wrsr : ∀ h a idx, Sys2Proof.Laws.Words.Statement (.wrsr h a idx) := fun _ _ _ _ => rfl
theorem Sys2Proof.Laws.Words.trap : ∀ h code, Sys2Proof.Laws.Words.Statement (.trap h code) := fun _ _ _ => rfl
theorem Sys2Proof.Laws.Words.yield : ∀ h, Sys2Proof.Laws.Words.Statement (.yield h) := fun _ _ => rfl
theorem Sys2Proof.Laws.Words.jraise : ∀ h a, Sys2Proof.Laws.Words.Statement (.jraise h a) := fun _ _ _ => rfl
theorem Sys2Proof.Laws.Words.jdone : ∀ h, Sys2Proof.Laws.Words.Statement (.jdone h) := fun _ _ => rfl
theorem Sys2Proof.Laws.Words.vadd : ∀ h ty sat m d a b, Sys2Proof.Laws.Words.Statement (.vadd h ty sat m d a b) := fun _ _ _ _ _ _ _ _ => rfl
theorem Sys2Proof.Laws.Words.vsub : ∀ h ty sat m d a b, Sys2Proof.Laws.Words.Statement (.vsub h ty sat m d a b) := fun _ _ _ _ _ _ _ _ => rfl
theorem Sys2Proof.Laws.Words.vmul : ∀ h ty sat m d a b, Sys2Proof.Laws.Words.Statement (.vmul h ty sat m d a b) := fun _ _ _ _ _ _ _ _ => rfl
theorem Sys2Proof.Laws.Words.vmulh : ∀ h ty m d a b, Sys2Proof.Laws.Words.Statement (.vmulh h ty m d a b) := fun _ _ _ _ _ _ _ => rfl
theorem Sys2Proof.Laws.Words.vmin : ∀ h ty m d a b, Sys2Proof.Laws.Words.Statement (.vmin h ty m d a b) := fun _ _ _ _ _ _ _ => rfl
theorem Sys2Proof.Laws.Words.vmax : ∀ h ty m d a b, Sys2Proof.Laws.Words.Statement (.vmax h ty m d a b) := fun _ _ _ _ _ _ _ => rfl
theorem Sys2Proof.Laws.Words.vand : ∀ h ty m d a b, Sys2Proof.Laws.Words.Statement (.vand h ty m d a b) := fun _ _ _ _ _ _ _ => rfl
theorem Sys2Proof.Laws.Words.vor : ∀ h ty m d a b, Sys2Proof.Laws.Words.Statement (.vor h ty m d a b) := fun _ _ _ _ _ _ _ => rfl
theorem Sys2Proof.Laws.Words.vxor : ∀ h ty m d a b, Sys2Proof.Laws.Words.Statement (.vxor h ty m d a b) := fun _ _ _ _ _ _ _ => rfl
theorem Sys2Proof.Laws.Words.vshl : ∀ h ty sat m d a b, Sys2Proof.Laws.Words.Statement (.vshl h ty sat m d a b) := fun _ _ _ _ _ _ _ _ => rfl
theorem Sys2Proof.Laws.Words.vshr : ∀ h ty m d a b, Sys2Proof.Laws.Words.Statement (.vshr h ty m d a b) := fun _ _ _ _ _ _ _ => rfl
theorem Sys2Proof.Laws.Words.vabs : ∀ h ty sat m d a, Sys2Proof.Laws.Words.Statement (.vabs h ty sat m d a) := fun _ _ _ _ _ _ _ => rfl
theorem Sys2Proof.Laws.Words.vcmp : ∀ h c ty k kd a b, Sys2Proof.Laws.Words.Statement (.vcmp h c ty k kd a b) := fun _ _ _ _ _ _ _ _ => rfl
theorem Sys2Proof.Laws.Words.vsel : ∀ h ty k d a b, Sys2Proof.Laws.Words.Statement (.vsel h ty k d a b) := fun _ _ _ _ _ _ _ => rfl
theorem Sys2Proof.Laws.Words.vmov : ∀ h ty m d a, Sys2Proof.Laws.Words.Statement (.vmov h ty m d a) := fun _ _ _ _ _ _ => rfl
theorem Sys2Proof.Laws.Words.vbcast : ∀ h ty m d a, Sys2Proof.Laws.Words.Statement (.vbcast h ty m d a) := fun _ _ _ _ _ _ => rfl
theorem Sys2Proof.Laws.Words.vext : ∀ h ty d a b, Sys2Proof.Laws.Words.Statement (.vext h ty d a b) := fun _ _ _ _ _ _ => rfl
theorem Sys2Proof.Laws.Words.vins : ∀ h ty d a b, Sys2Proof.Laws.Words.Statement (.vins h ty d a b) := fun _ _ _ _ _ _ => rfl
theorem Sys2Proof.Laws.Words.vperm : ∀ h ty two m d a b c, Sys2Proof.Laws.Words.Statement (.vperm h ty two m d a b c) := fun _ _ _ _ _ _ _ _ _ => rfl
theorem Sys2Proof.Laws.Words.vred : ∀ h op ty rnd k d a, Sys2Proof.Laws.Words.Statement (.vred h op ty rnd k d a) := fun _ _ _ _ _ _ _ _ => rfl
theorem Sys2Proof.Laws.Words.vscan : ∀ h op ty rnd k d a, Sys2Proof.Laws.Words.Statement (.vscan h op ty rnd k d a) := fun _ _ _ _ _ _ _ _ => rfl
theorem Sys2Proof.Laws.Words.vfadd : ∀ h ty rnd m d a b, Sys2Proof.Laws.Words.Statement (.vfadd h ty rnd m d a b) := fun _ _ _ _ _ _ _ _ => rfl
theorem Sys2Proof.Laws.Words.vfsub : ∀ h ty rnd m d a b, Sys2Proof.Laws.Words.Statement (.vfsub h ty rnd m d a b) := fun _ _ _ _ _ _ _ _ => rfl
theorem Sys2Proof.Laws.Words.vfmul : ∀ h ty rnd m d a b, Sys2Proof.Laws.Words.Statement (.vfmul h ty rnd m d a b) := fun _ _ _ _ _ _ _ _ => rfl
theorem Sys2Proof.Laws.Words.vfma : ∀ h ty rnd m d a b c, Sys2Proof.Laws.Words.Statement (.vfma h ty rnd m d a b c) := fun _ _ _ _ _ _ _ _ _ => rfl
theorem Sys2Proof.Laws.Words.vfmin : ∀ h ty m d a b, Sys2Proof.Laws.Words.Statement (.vfmin h ty m d a b) := fun _ _ _ _ _ _ _ => rfl
theorem Sys2Proof.Laws.Words.vfmax : ∀ h ty m d a b, Sys2Proof.Laws.Words.Statement (.vfmax h ty m d a b) := fun _ _ _ _ _ _ _ => rfl
theorem Sys2Proof.Laws.Words.vfcmpK : ∀ h c ty k kd a b, Sys2Proof.Laws.Words.Statement (.vfcmpK h c ty k kd a b) := fun _ _ _ _ _ _ _ _ => rfl
theorem Sys2Proof.Laws.Words.vfcmpP : ∀ h c ty k pd pe a b, Sys2Proof.Laws.Words.Statement (.vfcmpP h c ty k pd pe a b) := fun _ _ _ _ _ _ _ _ _ => rfl
theorem Sys2Proof.Laws.Words.vfdiv : ∀ h ty rnd m d a b, Sys2Proof.Laws.Words.Statement (.vfdiv h ty rnd m d a b) := fun _ _ _ _ _ _ _ _ => rfl
theorem Sys2Proof.Laws.Words.vcvt : ∀ h dst src rnd sat m d a, Sys2Proof.Laws.Words.Statement (.vcvt h dst src rnd sat m d a) := fun _ _ _ _ _ _ _ _ _ => rfl
theorem Sys2Proof.Laws.Words.qnt : ∀ h ty rnd m d a b, Sys2Proof.Laws.Words.Statement (.qnt h ty rnd m d a b) := fun _ _ _ _ _ _ _ _ => rfl
theorem Sys2Proof.Laws.Words.scacc : ∀ h ty rnd k adjust d a b c, Sys2Proof.Laws.Words.Statement (.scacc h ty rnd k adjust d a b c) := fun _ _ _ _ _ _ _ _ _ _ => rfl
theorem Sys2Proof.Laws.Words.bsc : ∀ h ty planes1 k d a, Sys2Proof.Laws.Words.Statement (.bsc h ty planes1 k d a) := fun _ _ _ _ _ _ _ => rfl
theorem Sys2Proof.Laws.Words.pln : ∀ h ty planes1 d a, Sys2Proof.Laws.Words.Statement (.pln h ty planes1 d a) := fun _ _ _ _ _ _ => rfl
theorem Sys2Proof.Laws.Words.upl : ∀ h ty planes1 unsigned d a, Sys2Proof.Laws.Words.Statement (.upl h ty planes1 unsigned d a) := fun _ _ _ _ _ _ _ => rfl
theorem Sys2Proof.Laws.Words.tld : ∀ h t base disp, Sys2Proof.Laws.Words.Statement (.tld h t base disp) := fun _ _ _ _ _ => rfl
theorem Sys2Proof.Laws.Words.tli : ∀ h ty rnd sat m t d a, Sys2Proof.Laws.Words.Statement (.tli h ty rnd sat m t d a) := fun _ _ _ _ _ _ _ _ _ => rfl
theorem Sys2Proof.Laws.Words.vld : ∀ h ty k d base disp, Sys2Proof.Laws.Words.Statement (.vld h ty k d base disp) := fun _ _ _ _ _ _ _ => rfl
theorem Sys2Proof.Laws.Words.vst : ∀ h ty k src base disp, Sys2Proof.Laws.Words.Statement (.vst h ty k src base disp) := fun _ _ _ _ _ _ _ => rfl
theorem Sys2Proof.Laws.Words.vlds : ∀ h ty k d base stride disp, Sys2Proof.Laws.Words.Statement (.vlds h ty k d base stride disp) := fun _ _ _ _ _ _ _ _ => rfl
theorem Sys2Proof.Laws.Words.vsts : ∀ h ty k src base stride disp, Sys2Proof.Laws.Words.Statement (.vsts h ty k src base stride disp) := fun _ _ _ _ _ _ _ _ => rfl
theorem Sys2Proof.Laws.Words.vgath : ∀ h ty k d base index disp, Sys2Proof.Laws.Words.Statement (.vgath h ty k d base index disp) := fun _ _ _ _ _ _ _ _ => rfl
theorem Sys2Proof.Laws.Words.vscat : ∀ h ty k src base index disp, Sys2Proof.Laws.Words.Statement (.vscat h ty k src base index disp) := fun _ _ _ _ _ _ _ _ => rfl
theorem Sys2Proof.Laws.Words.vldp : ∀ h d page, Sys2Proof.Laws.Words.Statement (.vldp h d page) := fun _ _ _ _ => rfl
theorem Sys2Proof.Laws.Words.vstp : ∀ h src page, Sys2Proof.Laws.Words.Statement (.vstp h src page) := fun _ _ _ _ => rfl
theorem Sys2Proof.Laws.Words.kop : ∀ h op kd ka kb, Sys2Proof.Laws.Words.Statement (.kop h op kd ka kb) := fun _ _ _ _ _ _ => rfl
theorem Sys2Proof.Laws.Words.vmadd : ∀ h ty sat m d a b c, Sys2Proof.Laws.Words.Statement (.vmadd h ty sat m d a b c) := fun _ _ _ _ _ _ _ _ _ => rfl
theorem Sys2Proof.Laws.Words.vpopc : ∀ h ty m d a, Sys2Proof.Laws.Words.Statement (.vpopc h ty m d a) := fun _ _ _ _ _ _ => rfl
theorem Sys2Proof.Laws.Words.vclz : ∀ h ty m d a, Sys2Proof.Laws.Words.Statement (.vclz h ty m d a) := fun _ _ _ _ _ _ => rfl
theorem Sys2Proof.Laws.Words.vpack : ∀ h ty sat m d a b, Sys2Proof.Laws.Words.Statement (.vpack h ty sat m d a b) := fun _ _ _ _ _ _ _ _ => rfl
theorem Sys2Proof.Laws.Words.vunpk : ∀ h ty hi m d a, Sys2Proof.Laws.Words.Statement (.vunpk h ty hi m d a) := fun _ _ _ _ _ _ _ => rfl
theorem Sys2Proof.Laws.Words.vfrnd : ∀ h ty rnd m d a, Sys2Proof.Laws.Words.Statement (.vfrnd h ty rnd m d a) := fun _ _ _ _ _ _ _ => rfl
theorem Sys2Proof.Laws.Words.mcall : ∀ h routine tag pa1 pb1, Sys2Proof.Laws.Words.Statement (.mcall h routine tag pa1 pb1) := fun _ _ _ _ _ _ => rfl
theorem Sys2Proof.Laws.Words.mcalld : ∀ h routine tag pa1 pb1, Sys2Proof.Laws.Words.Statement (.mcalld h routine tag pa1 pb1) := fun _ _ _ _ _ _ => rfl
theorem Sys2Proof.Laws.Words.mldr : ∀ h a b, Sys2Proof.Laws.Words.Statement (.mldr h a b) := fun _ _ _ _ => rfl
theorem Sys2Proof.Laws.Words.mset : ∀ h mp a, Sys2Proof.Laws.Words.Statement (.mset h mp a) := fun _ _ _ _ => rfl
theorem Sys2Proof.Laws.Words.mget : ∀ h d mp, Sys2Proof.Laws.Words.Statement (.mget h d mp) := fun _ _ _ _ => rfl
theorem Sys2Proof.Laws.Words.mzr : ∀ h, Sys2Proof.Laws.Words.Statement (.mzr h) := fun _ _ => rfl
theorem Sys2Proof.Laws.Words.mrd : ∀ h d a, Sys2Proof.Laws.Words.Statement (.mrd h d a) := fun _ _ _ _ => rfl
theorem Sys2Proof.Laws.Words.mwr : ∀ h a b, Sys2Proof.Laws.Words.Statement (.mwr h a b) := fun _ _ _ _ => rfl
theorem Sys2Proof.Laws.Words.mstat : ∀ h d, Sys2Proof.Laws.Words.Statement (.mstat h d) := fun _ _ _ => rfl
theorem Sys2Proof.Laws.Words.mdrn : ∀ h, Sys2Proof.Laws.Words.Statement (.mdrn h) := fun _ _ => rfl
theorem Sys2Proof.Laws.Words.cpbind : ∀ h a b, Sys2Proof.Laws.Words.Statement (.cpbind h a b) := fun _ _ _ _ => rfl
theorem Sys2Proof.Laws.Words.cpinvLayer : ∀ h a, Sys2Proof.Laws.Words.Statement (.cpinvLayer h a) := fun _ _ _ => rfl
theorem Sys2Proof.Laws.Words.cpinvAll : ∀ h, Sys2Proof.Laws.Words.Statement (.cpinvAll h) := fun _ _ => rfl
theorem Sys2Proof.Laws.Words.cpsav : ∀ h a b, Sys2Proof.Laws.Words.Statement (.cpsav h a b) := fun _ _ _ _ => rfl
theorem Sys2Proof.Laws.Words.cprst : ∀ h a b, Sys2Proof.Laws.Words.Statement (.cprst h a b) := fun _ _ _ _ => rfl
theorem Sys2Proof.Laws.Words.cpqry : ∀ h d a, Sys2Proof.Laws.Words.Statement (.cpqry h d a) := fun _ _ _ _ => rfl
theorem Sys2Proof.Laws.Words.cpy : ∀ h card q, Sys2Proof.Laws.Words.Statement (.cpy h card q) := fun _ _ _ _ => rfl
theorem Sys2Proof.Laws.Words.cpys : ∀ h card aux q, Sys2Proof.Laws.Words.Statement (.cpys h card aux q) := fun _ _ _ _ _ => rfl
theorem Sys2Proof.Laws.Words.board : ∀ h win repair card, Sys2Proof.Laws.Words.Statement (.board h win repair card) := fun _ _ _ _ _ => rfl
theorem Sys2Proof.Laws.Words.lapw : ∀ h aux, Sys2Proof.Laws.Words.Statement (.lapw h aux) := fun _ _ _ => rfl
theorem Sys2Proof.Laws.Words.xmit : ∀ h d vs, Sys2Proof.Laws.Words.Statement (.xmit h d vs) := fun _ _ _ _ => rfl
theorem Sys2Proof.Laws.Words.xsel : ∀ h d vd, Sys2Proof.Laws.Words.Statement (.xsel h d vd) := fun _ _ _ _ => rfl
theorem Sys2Proof.Laws.Words.xmitArrival : Sys2Proof.Laws.Words.Statement .xmitArrival := fun _ => rfl
theorem Sys2Proof.Laws.Words.swinit : ∀ h card aux, Sys2Proof.Laws.Words.Statement (.swinit h card aux) := fun _ _ _ _ => rfl
theorem Sys2Proof.Laws.Words.swadd : ∀ h card aux, Sys2Proof.Laws.Words.Statement (.swadd h card aux) := fun _ _ _ _ => rfl
theorem Sys2Proof.Laws.Words.swrd : ∀ h card aux, Sys2Proof.Laws.Words.Statement (.swrd h card aux) := fun _ _ _ _ => rfl
theorem Sys2Proof.Laws.Words.pref : ∀ h card aux, Sys2Proof.Laws.Words.Statement (.pref h card aux) := fun _ _ _ _ => rfl
theorem Sys2Proof.Laws.Words.slch : ∀ h card aux, Sys2Proof.Laws.Words.Statement (.slch h card aux) := fun _ _ _ _ => rfl
theorem Sys2Proof.Laws.Words.cdrn : ∀ h q, Sys2Proof.Laws.Words.Statement (.cdrn h q) := fun _ _ _ => rfl
theorem Sys2Proof.Laws.Words.cstat : ∀ h d q, Sys2Proof.Laws.Words.Statement (.cstat h d q) := fun _ _ _ _ => rfl
theorem Sys2Proof.Laws.Words.ckill : ∀ h q, Sys2Proof.Laws.Words.Statement (.ckill h q) := fun _ _ _ => rfl
theorem Sys2Proof.Laws.Words.killedJobRelease : ∀ q n, Sys2Proof.Laws.Words.Statement (.killedJobRelease q n) := fun _ _ _ => rfl
theorem Sys2Proof.Laws.Words.copyJobStart : ∀ q, Sys2Proof.Laws.Words.Statement (.copyJobStart q) := fun _ _ => rfl
theorem Sys2Proof.Laws.Words.copyJobComplete : ∀ q n, Sys2Proof.Laws.Words.Statement (.copyJobComplete q n) := fun _ _ _ => rfl
theorem Sys2Proof.Laws.Words.copyJobRunFault : ∀ q n, Sys2Proof.Laws.Words.Statement (.copyJobRunFault q n) := fun _ _ _ => rfl
theorem Sys2Proof.Laws.Words.s2tPacketHop : ∀ n, Sys2Proof.Laws.Words.Statement (.s2tPacketHop n) := fun _ _ => rfl
theorem Sys2Proof.Laws.Words.matrixJobStart : Sys2Proof.Laws.Words.Statement .matrixJobStart := fun _ => rfl
theorem Sys2Proof.Laws.Words.panelLoadArrival : Sys2Proof.Laws.Words.Statement .panelLoadArrival := fun _ => rfl
theorem Sys2Proof.Laws.Words.mldrJob : Sys2Proof.Laws.Words.Statement .mldrJob := fun _ => rfl
theorem Sys2Proof.Laws.Words.cpbindJob : Sys2Proof.Laws.Words.Statement .cpbindJob := fun _ => rfl
theorem Sys2Proof.Laws.Words.cpinvJob : Sys2Proof.Laws.Words.Statement .cpinvJob := fun _ => rfl
theorem Sys2Proof.Laws.Words.cpsavJob : Sys2Proof.Laws.Words.Statement .cpsavJob := fun _ => rfl
theorem Sys2Proof.Laws.Words.cprstJob : Sys2Proof.Laws.Words.Statement .cprstJob := fun _ => rfl
theorem Sys2Proof.Laws.Words.coppiceBroadcastApply : Sys2Proof.Laws.Words.Statement .coppiceBroadcastApply := fun _ => rfl
theorem Sys2Proof.Laws.Words.uopEnd : Sys2Proof.Laws.Words.Statement .uopEnd := fun h => nomatch h
theorem Sys2Proof.Laws.Words.uInit : Sys2Proof.Laws.Words.Statement .uInit := fun h => nomatch h
theorem Sys2Proof.Laws.Words.lda : ∀ b, Sys2Proof.Laws.Words.Statement (.lda b) := fun _ h => nomatch h
theorem Sys2Proof.Laws.Words.ldb : ∀ b, Sys2Proof.Laws.Words.Statement (.ldb b) := fun _ h => nomatch h
theorem Sys2Proof.Laws.Words.pat : ∀ b, Sys2Proof.Laws.Words.Statement (.pat b) := fun _ h => nomatch h
theorem Sys2Proof.Laws.Words.step : ∀ a b p, Sys2Proof.Laws.Words.Statement (.step a b p) := fun _ _ _ h => nomatch h
theorem Sys2Proof.Laws.Words.stepAll : ∀ a b, Sys2Proof.Laws.Words.Statement (.stepAll a b) := fun _ _ h => nomatch h
theorem Sys2Proof.Laws.Words.shacc : Sys2Proof.Laws.Words.Statement .shacc := fun h => nomatch h
theorem Sys2Proof.Laws.Words.padd : ∀ t, Sys2Proof.Laws.Words.Statement (.padd t) := fun _ h => nomatch h
theorem Sys2Proof.Laws.Words.paddImm : ∀ t j, Sys2Proof.Laws.Words.Statement (.paddImm t j) := fun _ _ h => nomatch h
theorem Sys2Proof.Laws.Words.rpt : ∀ c src l, Sys2Proof.Laws.Words.Statement (.rpt c src l) := fun _ _ _ h => nomatch h
theorem Sys2Proof.Laws.Words.zgt : ∀ t, Sys2Proof.Laws.Words.Statement (.zgt t) := fun _ h => nomatch h
theorem Sys2Proof.Laws.Words.yld : Sys2Proof.Laws.Words.Statement .yld := fun h => nomatch h
theorem Sys2Proof.Laws.Words.laneStep : Sys2Proof.Laws.Words.Statement .laneStep := fun _ => rfl
theorem Sys2Proof.Laws.Words.boardArm : ∀ n, Sys2Proof.Laws.Words.Statement (.boardArm n) := fun _ _ => rfl
theorem Sys2Proof.Laws.Words.boardComplete : ∀ n, Sys2Proof.Laws.Words.Statement (.boardComplete n) := fun _ _ => rfl
theorem Sys2Proof.Laws.Words.lapMapPublish : ∀ from_ m, Sys2Proof.Laws.Words.Statement (.lapMapPublish from_ m) := fun _ _ _ => rfl
theorem Sys2Proof.Laws.Words.pageWalk : ∀ cluster vd va write, Sys2Proof.Laws.Words.Statement (.pageWalk cluster vd va write) := fun _ _ _ _ _ => rfl
theorem Sys2Proof.Laws.Words.flashPageIn : ∀ vd va, Sys2Proof.Laws.Words.Statement (.flashPageIn vd va) := fun _ _ _ => rfl
theorem Sys2Proof.Laws.Words.coldPageOut : ∀ vd ctx va, Sys2Proof.Laws.Words.Statement (.coldPageOut vd ctx va) := fun _ _ _ _ => rfl
theorem Sys2Proof.Laws.Words.skidderTransferEnd : ∀ vd n, Sys2Proof.Laws.Words.Statement (.skidderTransferEnd vd n) := fun _ _ _ => rfl
theorem Sys2Proof.Laws.Words.snapshot : ∀ vd, Sys2Proof.Laws.Words.Statement (.snapshot vd) := fun _ _ => rfl
theorem Sys2Proof.Laws.Words.invalidationComplete : ∀ vd, Sys2Proof.Laws.Words.Statement (.invalidationComplete vd) := fun _ _ => rfl
theorem Sys2Proof.Laws.Words.eventRecordPost : ∀ vd q, Sys2Proof.Laws.Words.Statement (.eventRecordPost vd q) := fun _ _ _ => rfl
theorem Sys2Proof.Laws.Words.haltRequest : ∀ slot, Sys2Proof.Laws.Words.Statement (.haltRequest slot) := fun _ _ => rfl
theorem Sys2Proof.Laws.Words.tileHalt : Sys2Proof.Laws.Words.Statement .tileHalt := fun _ => rfl
theorem Sys2Proof.Laws.Words.gangStopped : ∀ slot allowance, Sys2Proof.Laws.Words.Statement (.gangStopped slot allowance) := fun _ _ _ => rfl
theorem Sys2Proof.Laws.Words.contextSave : ∀ slot, Sys2Proof.Laws.Words.Statement (.contextSave slot) := fun _ _ => rfl
theorem Sys2Proof.Laws.Words.gangDiscard : ∀ slot, Sys2Proof.Laws.Words.Statement (.gangDiscard slot) := fun _ _ => rfl
theorem Sys2Proof.Laws.Words.yarderBind : ∀ slot vd stream col0 row0, Sys2Proof.Laws.Words.Statement (.yarderBind slot vd stream col0 row0) := fun _ _ _ _ _ _ => rfl
theorem Sys2Proof.Laws.Words.gangStart : ∀ slot, Sys2Proof.Laws.Words.Statement (.gangStart slot) := fun _ _ => rfl
theorem Sys2Proof.Laws.Words.gangResume : ∀ slot, Sys2Proof.Laws.Words.Statement (.gangResume slot) := fun _ _ => rfl
theorem Sys2Proof.Laws.Words.sliceEnd : ∀ slot, Sys2Proof.Laws.Words.Statement (.sliceEnd slot) := fun _ _ => rfl
theorem Sys2Proof.Laws.Words.priorityAgeing : ∀ vd stream, Sys2Proof.Laws.Words.Statement (.priorityAgeing vd stream) := fun _ _ _ => rfl
theorem Sys2Proof.Laws.Words.publish : ∀ vd c, Sys2Proof.Laws.Words.Statement (.publish vd c) := fun _ _ _ => rfl
theorem Sys2Proof.Laws.Words.retire : ∀ vd c, Sys2Proof.Laws.Words.Statement (.retire vd c) := fun _ _ _ => rfl
theorem Sys2Proof.Laws.Words.openStream : ∀ vd c, Sys2Proof.Laws.Words.Statement (.openStream vd c) := fun _ _ _ => rfl
theorem Sys2Proof.Laws.Words.closeStream : ∀ vd c, Sys2Proof.Laws.Words.Statement (.closeStream vd c) := fun _ _ _ => rfl
theorem Sys2Proof.Laws.Words.submit : ∀ vd c, Sys2Proof.Laws.Words.Statement (.submit vd c) := fun _ _ _ => rfl
theorem Sys2Proof.Laws.Words.mboxw : ∀ vd c, Sys2Proof.Laws.Words.Statement (.mboxw vd c) := fun _ _ _ => rfl
theorem Sys2Proof.Laws.Words.jpost : ∀ vd c, Sys2Proof.Laws.Words.Statement (.jpost vd c) := fun _ _ _ => rfl
theorem Sys2Proof.Laws.Words.replyResume : ∀ vd c, Sys2Proof.Laws.Words.Statement (.replyResume vd c) := fun _ _ _ => rfl
theorem Sys2Proof.Laws.Words.replyRestart : ∀ vd c, Sys2Proof.Laws.Words.Statement (.replyRestart vd c) := fun _ _ _ => rfl
theorem Sys2Proof.Laws.Words.replyEnd : ∀ vd c, Sys2Proof.Laws.Words.Statement (.replyEnd vd c) := fun _ _ _ => rfl
theorem Sys2Proof.Laws.Words.mappage : ∀ vd c, Sys2Proof.Laws.Words.Statement (.mappage vd c) := fun _ _ _ => rfl
theorem Sys2Proof.Laws.Words.reload : ∀ vd c, Sys2Proof.Laws.Words.Statement (.reload vd c) := fun _ _ _ => rfl
theorem Sys2Proof.Laws.Words.sessionDefine : ∀ vd c, Sys2Proof.Laws.Words.Statement (.sessionDefine vd c) := fun _ _ _ => rfl
theorem Sys2Proof.Laws.Words.sessionRemove : ∀ vd c, Sys2Proof.Laws.Words.Statement (.sessionRemove vd c) := fun _ _ _ => rfl
theorem Sys2Proof.Laws.Words.snapread : ∀ vd c, Sys2Proof.Laws.Words.Statement (.snapread vd c) := fun _ _ _ => rfl
theorem Sys2Proof.Laws.Words.snaprel : ∀ vd c, Sys2Proof.Laws.Words.Statement (.snaprel vd c) := fun _ _ _ => rfl
theorem Sys2Proof.Laws.Words.quota : ∀ vd c, Sys2Proof.Laws.Words.Statement (.quota vd c) := fun _ _ _ => rfl
theorem Sys2Proof.Laws.Words.enroll : ∀ vd c, Sys2Proof.Laws.Words.Statement (.enroll vd c) := fun _ _ _ => rfl
theorem Sys2Proof.Laws.Words.pool : ∀ vd c, Sys2Proof.Laws.Words.Statement (.pool vd c) := fun _ _ _ => rfl
theorem Sys2Proof.Laws.Words.slots : ∀ vd c, Sys2Proof.Laws.Words.Statement (.slots vd c) := fun _ _ _ => rfl
theorem Sys2Proof.Laws.Words.dump : ∀ vd c, Sys2Proof.Laws.Words.Statement (.dump vd c) := fun _ _ _ => rfl
theorem Sys2Proof.Laws.Words.pair : ∀ vd c, Sys2Proof.Laws.Words.Statement (.pair vd c) := fun _ _ _ => rfl
theorem Sys2Proof.Laws.Words.accessOpen : ∀ vd c, Sys2Proof.Laws.Words.Statement (.accessOpen vd c) := fun _ _ _ => rfl
theorem Sys2Proof.Laws.Words.accessClose : ∀ vd c, Sys2Proof.Laws.Words.Statement (.accessClose vd c) := fun _ _ _ => rfl
theorem Sys2Proof.Laws.Words.unknownOp : ∀ vd c, Sys2Proof.Laws.Words.Statement (.unknownOp vd c) := fun _ _ _ => rfl
theorem Sys2Proof.Laws.Words.invalidateAll : ∀ vd j, Sys2Proof.Laws.Words.Statement (.invalidateAll vd j) := fun _ _ _ => rfl
theorem Sys2Proof.Laws.Words.invalidateRange : ∀ vd j, Sys2Proof.Laws.Words.Statement (.invalidateRange vd j) := fun _ _ _ => rfl
theorem Sys2Proof.Laws.Words.counterFlush : ∀ vd j, Sys2Proof.Laws.Words.Statement (.counterFlush vd j) := fun _ _ _ => rfl
theorem Sys2Proof.Laws.Words.interfaceRegisterWrite : ∀ vd off v, Sys2Proof.Laws.Words.Statement (.interfaceRegisterWrite vd off v) := fun _ _ _ _ => rfl
theorem Sys2Proof.Laws.Words.lockedBarConfigWrite : ∀ vd, Sys2Proof.Laws.Words.Statement (.lockedBarConfigWrite vd) := fun _ _ => rfl
theorem Sys2Proof.Laws.Words.ideIntegrityFailure : ∀ vd, Sys2Proof.Laws.Words.Statement (.ideIntegrityFailure vd) := fun _ _ => rfl
theorem Sys2Proof.Laws.Words.vfEnable : ∀ n, Sys2Proof.Laws.Words.Statement (.vfEnable n) := fun _ _ => rfl
theorem Sys2Proof.Laws.Words.functionLevelReset : ∀ vd, Sys2Proof.Laws.Words.Statement (.functionLevelReset vd) := fun _ _ => rfl
theorem Sys2Proof.Laws.Words.windowRead : ∀ vd off n, Sys2Proof.Laws.Words.Statement (.windowRead vd off n) := fun _ _ _ _ => rfl
theorem Sys2Proof.Laws.Words.windowWrite : ∀ vd off bytes, Sys2Proof.Laws.Words.Statement (.windowWrite vd off bytes) := fun _ _ _ _ => rfl
theorem Sys2Proof.Laws.Words.getTdispVersion : ∀ r, Sys2Proof.Laws.Words.Statement (.getTdispVersion r) := fun _ _ => rfl
theorem Sys2Proof.Laws.Words.getTdispCapabilities : ∀ r, Sys2Proof.Laws.Words.Statement (.getTdispCapabilities r) := fun _ _ => rfl
theorem Sys2Proof.Laws.Words.lockInterfaceRequest : ∀ r, Sys2Proof.Laws.Words.Statement (.lockInterfaceRequest r) := fun _ _ => rfl
theorem Sys2Proof.Laws.Words.getDeviceInterfaceReport : ∀ r, Sys2Proof.Laws.Words.Statement (.getDeviceInterfaceReport r) := fun _ _ => rfl
theorem Sys2Proof.Laws.Words.getDeviceInterfaceState : ∀ r, Sys2Proof.Laws.Words.Statement (.getDeviceInterfaceState r) := fun _ _ => rfl
theorem Sys2Proof.Laws.Words.startInterfaceRequest : ∀ r, Sys2Proof.Laws.Words.Statement (.startInterfaceRequest r) := fun _ _ => rfl
theorem Sys2Proof.Laws.Words.stopInterfaceRequest : ∀ r, Sys2Proof.Laws.Words.Statement (.stopInterfaceRequest r) := fun _ _ => rfl
theorem Sys2Proof.Laws.Words.ideKm : ∀ r keys, Sys2Proof.Laws.Words.Statement (.ideKm r keys) := fun _ _ _ => rfl
theorem Sys2Proof.Laws.Words.getVersion : ∀ r, Sys2Proof.Laws.Words.Statement (.getVersion r) := fun _ _ => rfl
theorem Sys2Proof.Laws.Words.getCapabilities : ∀ r, Sys2Proof.Laws.Words.Statement (.getCapabilities r) := fun _ _ => rfl
theorem Sys2Proof.Laws.Words.negotiateAlgorithms : ∀ r, Sys2Proof.Laws.Words.Statement (.negotiateAlgorithms r) := fun _ _ => rfl
theorem Sys2Proof.Laws.Words.challenge : ∀ r, Sys2Proof.Laws.Words.Statement (.challenge r) := fun _ _ => rfl
theorem Sys2Proof.Laws.Words.keyExchange : ∀ r, Sys2Proof.Laws.Words.Statement (.keyExchange r) := fun _ _ => rfl
theorem Sys2Proof.Laws.Words.getMeasurements : ∀ r, Sys2Proof.Laws.Words.Statement (.getMeasurements r) := fun _ _ => rfl
theorem Sys2Proof.Laws.Words.peerAccess : ∀ link remote va n a, Sys2Proof.Laws.Words.Statement (.peerAccess link remote va n a) := fun _ _ _ _ _ _ => rfl
theorem Sys2Proof.Laws.Words.chinookLinkTraining : ∀ link peerTime, Sys2Proof.Laws.Words.Statement (.chinookLinkTraining link peerTime) := fun _ _ _ => rfl
theorem Sys2Proof.Laws.Words.chinookLinkDown : ∀ link, Sys2Proof.Laws.Words.Statement (.chinookLinkDown link) := fun _ _ => rfl
theorem Sys2Proof.Laws.Words.calmEntry : Sys2Proof.Laws.Words.Statement .calmEntry := fun _ => rfl
theorem Sys2Proof.Laws.Words.doldrumsEntry : Sys2Proof.Laws.Words.Statement .doldrumsEntry := fun _ => rfl
theorem Sys2Proof.Laws.Words.wakeEvent : Sys2Proof.Laws.Words.Statement .wakeEvent := fun _ => rfl
theorem Sys2Proof.Laws.Words.throttleEngage : Sys2Proof.Laws.Words.Statement .throttleEngage := fun _ => rfl
theorem Sys2Proof.Laws.Words.throttleRelease : Sys2Proof.Laws.Words.Statement .throttleRelease := fun _ => rfl
theorem Sys2Proof.Laws.Words.clockStop : Sys2Proof.Laws.Words.Statement .clockStop := fun _ => rfl
theorem Sys2Proof.Laws.Words.clockRestart : Sys2Proof.Laws.Words.Statement .clockRestart := fun _ => rfl
theorem Sys2Proof.Laws.Words.moduleStart : Sys2Proof.Laws.Words.Statement .moduleStart := fun _ => rfl
theorem Sys2Proof.Laws.Words.rlen : ∀ v, Sys2Proof.Laws.Words.Statement (.rlen v) := fun _ _ => rfl
theorem Sys2Proof.Laws.Words.rdata : ∀ v, Sys2Proof.Laws.Words.Statement (.rdata v) := fun _ _ => rfl
theorem Sys2Proof.Laws.Words.rgo : ∀ v, Sys2Proof.Laws.Words.Statement (.rgo v) := fun _ _ => rfl
theorem Sys2Proof.Laws.Words.recoveryVerifyDone : Sys2Proof.Laws.Words.Statement .recoveryVerifyDone := fun _ => rfl
theorem Sys2Proof.Laws.Words.fatalError : Sys2Proof.Laws.Words.Statement .fatalError := fun _ => rfl
theorem Sys2Proof.Laws.Words.healthRecord : ∀ unit, Sys2Proof.Laws.Words.Statement (.healthRecord unit) := fun _ _ => rfl
theorem Sys2Proof.Laws.Words.pcieCompletionTimeout : Sys2Proof.Laws.Words.Statement .pcieCompletionTimeout := fun _ => rfl
end

