-- ==== Sys2Proof/Tests/Slice0.lean ====
section
/-! SUPPORT. The model's own tests: ill-formed terms that WellFormed refuses; words of every family written out from the spec's encodings;
the spec's worked examples, one step each; and a witness for the hypotheses of every statement. -/

namespace Sys2Proof.Tests.Slice0

open Sys2Proof Sys2Proof.Machine Sys2Proof.Safety

/-! ## Ill-formed terms -/

abbrev H : Hdr := ⟨true, false, 0⟩
abbrev r_ (n : Reg) : Src := ⟨n, false⟩
abbrev K0 : VMask := ⟨0, false⟩

/-- A held source keeps its register field zero (R47). -/
theorem test_wf_held_source : wellFormed (.add H 1 ⟨2, true⟩ (r_ 3)) = false ∧ wellFormed (.add H 1 ⟨0, true⟩ (r_ 3)) = true
    ∧ wellFormed (.vadd H .i16 true K0 4 ⟨5, true⟩ (r_ 1)) = false ∧ wellFormed (.mldr H ⟨1, true⟩ (r_ 2)) = false := by decide
/-- pos + len ≤ 64 (R126). -/
theorem test_wf_field : wellFormed (.ext H false 1 (r_ 2) 60 4) = false ∧ wellFormed (.ext H false 1 (r_ 2) 60 3) = true
    ∧ wellFormed (.ins H 1 (r_ 2) 63 1) = false := by decide
/-- Stores and atomics take no sign-extending width (R135, R205, R348); orders and operations of R344, R348. -/
theorem test_wf_memory : wellFormed (.sts H .s2 1 (r_ 2) 0) = false ∧ wellFormed (.stp H .s4 1 0) = false
    ∧ wellFormed (.ldg H .w8 .rel 1 (r_ 2) (.tile 0)) = false ∧ wellFormed (.stg H .w8 .acq 1 (r_ 2) (.tile 0)) = false
    ∧ wellFormed (.amo H .add .s1 .rlx .tile 1 (r_ 2) 3) = false ∧ wellFormed (.red H .swap .w4 .rlx .tile (r_ 2) 3) = false
    ∧ wellFormed (.waitm H .s1 1 (r_ 2) (r_ 3)) = false := by decide
/-- Element types an instruction does not take (R168). -/
theorem test_wf_types : wellFormed (.vadd H .fp32 false K0 1 (r_ 2) (r_ 3)) = false ∧ wellFormed (.vabs H .u8 false K0 1 (r_ 2)) = false
    ∧ wellFormed (.vsel H .i40 0 1 (r_ 2) (r_ 3)) = false ∧ wellFormed (.vfadd H .i32 .rne K0 1 (r_ 2) (r_ 3)) = false
    ∧ wellFormed (.qnt H .i64 .rne K0 1 (r_ 2) (r_ 3)) = false ∧ wellFormed (.scacc H .fp32 .rne 0 0 1 (r_ 2) (r_ 3) (r_ 4)) = false
    ∧ wellFormed (.vpack H .i64 false K0 1 (r_ 2) (r_ 3)) = false ∧ wellFormed (.vunpk H .i8 false K0 1 (r_ 2)) = false
    ∧ wellFormed (.vgath H .i16 0 1 2 3 0) = false ∧ wellFormed (.tli H .i8 .rne false K0 0 1 (r_ 2)) = false := by decide
/-- Optional operands, rounding, saturation and plane fields where they do not apply (R168, R174, R179, R181, R183). -/
theorem test_wf_fields : wellFormed (.vperm H .i16 false K0 1 (r_ 2) (r_ 3) (r_ 4)) = false
    ∧ wellFormed (.vperm H .i8 true K0 1 (r_ 2) (r_ 3) (r_ 4)) = false ∧ wellFormed (.vred H .add .i32 .rup 0 1 (r_ 2)) = false
    ∧ wellFormed (.vred H .min .fp32 .rup 0 1 (r_ 2)) = false ∧ wellFormed (.vcvt H .i8 .i16 .rtz true K0 1 (r_ 2)) = false
    ∧ wellFormed (.vcvt H .fp32 .i8 .rne true K0 1 (r_ 2)) = false ∧ wellFormed (.bsc H .fp32 0 0 1 (r_ 2)) = false
    ∧ wellFormed (.kop H .not 1 2 3) = false ∧ wellFormed (.rpt 0 9 0) = false := by decide

/-! ## Words written out in the spec's examples -/

/-- 02 R53's bundle. -/
theorem test_decode_add : decodeSyllable 0x11808A30E0000000 = .ok (.add ⟨false, true, 3⟩ 5 (r_ 6) (r_ 7)) := by decide
theorem test_decode_vadd : decodeSyllable 0xA020082800201200 = .ok (.vadd H .i16 true K0 4 (r_ 5) ⟨0, true⟩) := by decide
/-- 04 R130, R134. -/
theorem test_decode_cmpi : decodeSyllable 0x800D883117FFFFFD = .ok (.cmpi H .lt 4 5 (r_ 6) 0x3FFFFFD) := by decide
theorem test_decode_ldp : decodeSyllable 0x800F900280000106 = .ok (.ldp H .s2 8 0x106) := by decide
/-- 03 R82, R96. -/
theorem test_decode_loop : decodeSyllable 0x8016026080000000 = .ok (.loop H 0 9 true 1) := by decide
theorem test_decode_brt : decodeSyllable 0x801410A600000008 = .ok (.brt H 4 5 6 0 0 8) := by decide
/-- 06 R185, 07 R196, R203. -/
theorem test_decode_scacc : decodeSyllable 0xA02FA8AACB80C002 = .ok (.scacc H .i40 .rne 0 2 20 (r_ 21) (r_ 22) (r_ 23)) := by decide
theorem test_decode_vgath : decodeSyllable 0xA0349250F4800000 = .ok (.vgath H .i32 5 9 10 7 0) := by decide
theorem test_decode_waits : decodeSyllable 0x801780A2A0000000 = .ok (.waits H (r_ 20) (r_ 21)) := by decide
/-- 08 R234, 09 R247, R248. -/
theorem test_decode_mcall : decodeSyllable 0xC0400003FE000000 = .ok (.mcall H 0 7 7 7) := by decide
theorem test_decode_cpbind : decodeSyllable 0xC04500A2A0000000 = .ok (.cpbind H (r_ 20) (r_ 21)) := by decide
theorem test_decode_mcalld : decodeSyllable 0xC0408001BE000000 = .ok (.mcalld H 0 3 3 7) := by decide
/-- 10 R283, R298; 11 R311; 12 R329. -/
theorem test_decode_board : decodeSyllable 0xE061180050000000 = .ok (.board H .wait true 12) := by decide
theorem test_decode_lapw : decodeSyllable 0xE061806800000000 = .ok (.lapw H 13) := by decide
theorem test_decode_cpy : decodeSyllable 0xE060180080000000 = .ok (.cpy H 12 1) := by decide
theorem test_decode_cpys : decodeSyllable 0xE060986880000000 = .ok (.cpys H 12 13 1) := by decide
theorem test_decode_xmit : decodeSyllable 0xE2E2140180000000 = .ok (.xmit ⟨true, false, 5⟩ .west 10) := by decide
theorem test_decode_pref : decodeSyllable 0xE0648C3800000000 = .ok (.pref H 6 7) := by decide
/-- 12 R320, R331. -/
theorem test_decode_align : decodeSyllable 0x801A800001000000 = .ok (.align H true) := by decide
theorem test_decode_bar : decodeSyllable 0x801B000000000022 = .ok (.bar H .open_ 2) := by decide
/-- 13 R348, R360, R364. -/
theorem test_decode_amo : decodeSyllable 0x80119049BCA10000 = .ok (.amo H .add .w8 .ar .device 8 (r_ 9) 10) := by decide
theorem test_decode_fence : decodeSyllable 0x801300004C000000 = .ok (.fence H .full .system) := by decide
theorem test_decode_waitm : decodeSyllable 0x801898A2A3000000 = .ok (.waitm H .w8 12 (r_ 20) (r_ 21)) := by decide
theorem test_decode_monitor : decodeSyllable 0x801800A000000000 = .ok (.monitor H (r_ 20)) := by decide
/-- 15 R400, R401, R406, R410. -/
theorem test_decode_mbx : decodeSyllable 0x80190C0000000005 = .ok (.mbx H 6 (r_ 0) 5) := by decide
theorem test_decode_mbxw : decodeSyllable 0x8019803800000002 = .ok (.mbxw H (r_ 7) 2) := by decide
theorem test_decode_jraise : decodeSyllable 0x801E004800000000 = .ok (.jraise H (r_ 9)) := by decide
theorem test_decode_jdone : decodeSyllable 0x801E800000000000 = .ok (.jdone H) := by decide
theorem test_decode_next : decodeSyllable 0x801A100000300000 = .ok (.next H 8 6) := by decide
/-- 08 R226, R232: the routine of the dense scale group. -/
theorem test_decode_micro : decodeMicro 0x08000000 = some .uInit ∧ decodeMicro 0x4800000B = some (.zgt 11)
    ∧ decodeMicro 0x42070000 = some (.rpt 0 8 7) ∧ decodeMicro 0x10000000 = some (.lda 0) ∧ decodeMicro 0x18000000 = some (.ldb 0)
    ∧ decodeMicro 0x28200000 = some (.stepAll 0 0) ∧ decodeMicro 0x30000000 = some .shacc ∧ decodeMicro 0x50000000 = some .yld
    ∧ decodeMicro 0x38000000 = some (.padd .a) ∧ decodeMicro 0x3A000000 = some (.padd .b) ∧ decodeMicro 0x3C000000 = some (.padd .k)
    ∧ decodeMicro 0 = some .uopEnd := by decide
/-- Opcodes of no row, the reserved template bits and a non-zero reserved field are refused. -/
theorem test_decode_refuses : (decodeSyllable 0x803F800000000000).isOk = false ∧ (decodeSyllable 0x801E800000000001).isOk = false
    ∧ (decodeSyllable 0xE061180070000000).isOk = false ∧ decodeMicro 0x58000000 = none ∧ decodeMicro 0x08000001 = none := by decide
/-- An encoder of the same tables gives the words back. -/
theorem test_encode : encodeSyllable (.brt H 4 5 6 0 0 8) = some 0x801410A600000008
    ∧ encodeSyllable (.scacc H .i40 .rne 0 2 20 (r_ 21) (r_ 22) (r_ 23)) = some 0xA02FA8AACB80C002
    ∧ encodeMicro (.rpt 0 8 7) = some 0x42070000 := by decide

/-! ## One step on a small state: the spec's worked examples -/

/-- A tile that runs, alone, in a module whose compute clock runs. -/
def tile0 : Tile := { ctl := { run := .running } }
/-- The machine with that tile in focus, changed by `f`. -/
def on0 (f : Tile → Tile) : State := { State.reset with tile := f tile0, agenda := [], mod := { power := .active } }
def regs0 (f : Regs → Regs) : State := on0 fun t => { t with regs := f t.regs }
def mem0 (f : TMem → TMem) : State := on0 fun t => { t with mem := f t.mem }
def ctl0 (f : Ctl → Ctl) : State := on0 fun t => { t with ctl := f t.ctl }
def eng0 (f : Eng → Eng) : State := on0 fun t => { t with eng := f t.eng }
def place0 (f : Place → Place) : State := on0 fun t => { t with place := f t.place }
/-- General registers set. -/
def gs (l : List (Reg × Word)) (r : Regs) : Regs := l.foldl (fun r p => setG p.1 p.2 r) r
def vs (l : List (Nat × VWord)) (r : Regs) : Regs := l.foldl (fun r p => { r with v := r.v.set! p.1 p.2 }) r
/-- The state an instruction leaves. -/
def after (i : Instr) (s : State) : State :=
  match exec i s with
  | .next t => t
  | _ => s
/-- The registers once every result has landed. -/
def landed (i : Instr) (s : State) : Regs := drainResults (after i s).tile.regs

/-- 04 R128: MOVH keeps the low half. -/
theorem test_movh : (landed (.movh H 20 (r_ 20) 0x12345678) (regs0 (gs [(20, 0x9ABCDEF0)]))).g[20] = 0x123456789ABCDEF0 := by decide
/-- 04 R130: −5 < −3. -/
theorem test_cmpi : (landed (.cmpi H .lt 4 5 (r_ 6) 0x3FFFFFD) (regs0 (gs [(6, -5)]))).p = 0x10 := by decide
/-- 04 R134: bytes 01 80 read as a sign-extended halfword, and an odd displacement raises ALIGN. -/
theorem test_ldp : (landed (.ldp H .s2 8 0x106) (mem0 fun m => { m with spill := writeB 0x104 4 0x80017FFF [] })).g[8] = 0xFFFFFFFFFFFF8001
    ∧ (after (.ldp H .w2 9 0x105) (on0 id)).tile.ctl.fltcode = 0x04 ∧ (after (.ldp H .w2 9 0x105) (on0 id)).tile.ctl.fltaddr = 0x105 := by
  decide
/-- 03 R96: p4 false, p5 and p6 true give index 1; none true gives 4. -/
theorem test_brt : (after (.brt H 4 5 6 0 0 8) (on0 fun t => { t with regs := { t.regs with p := 0x60 }, ctl := { t.ctl with pc := 0x400 } })).tile.ctl.pc = 0x460
    ∧ (after (.brt H 4 5 6 0 0 8) (ctl0 fun c => { c with pc := 0x400 })).tile.ctl.pc = 0x4C0 := by decide
/-- 06 R164: a saturating and a wrapping add of I16 lanes under k2. -/
def laneState : State :=
  regs0 fun r => vs [(5, BitVec.ofNat 2048 (30000 + 2 ^ 16 * 5 + 2 ^ 32 * 0x8AD0 + 2 ^ 48 * 7)),
    (6, BitVec.ofNat 2048 (10000 + 2 ^ 16 + 2 ^ 32 * 0xD8F0 + 2 ^ 48))] { r with k := r.k.set 2 5, v := r.v.set 4 (BitVec.allOnes 2048) }
theorem test_vadd_sat : (landed (.vadd H .i16 true ⟨2, true⟩ 4 (r_ 5) (r_ 6)) laneState).v[4] = BitVec.ofNat 2048 (0x7FFF + 2 ^ 32 * 0x8000) := by
  decide +kernel
theorem test_vadd_merge : ((landed (.vadd H .i16 false ⟨2, false⟩ 4 (r_ 5) (r_ 6)) laneState).v[4]).extractLsb' 0 64 = 0xFFFF63C0FFFF9C40 := by
  decide +kernel
/-- 06 R179: the tree sum of 2^24, 1, 1 and −2^24. -/
theorem test_vred : let r := landed (.vred H .add .fp32 .rne 3 8 (r_ 9)) (regs0 fun r =>
      vs [(9, BitVec.ofNat 2048 (0x4B800000 + 2 ^ 32 * 0x3F800000 + 2 ^ 64 * 0x3F800000 + 2 ^ 96 * 0xCB800000))] { r with k := r.k.set 3 15 })
    r.v[8] = 0x3F800000 ∧ r.fpflags = 1 := by decide +kernel
/-- 06 R184: PLN of 5 and −3, and UPL of two planes of it. -/
theorem test_pln : plnValue .i8 3 (BitVec.ofNat 2048 (5 + 2 ^ 8 * 0xFD)) = BitVec.ofNat 2048 (2 + 2 ^ 256 * 3 + 2 ^ 768 * 3)
    ∧ uplValue .i8 1 false (BitVec.ofNat 2048 (2 + 2 ^ 256 * 3)) = BitVec.ofNat 2048 (1 + 2 ^ 8 * 0xFF) := by decide +kernel
/-- 06 R185: 1,073,741,825 × 2^−6 rounds to 0x4B800000 and raises nx; a scale of −128 leaves lane 1. -/
theorem test_scacc : let r := landed (.scacc H .i40 .rne 0 2 20 (r_ 21) (r_ 22) (r_ 23)) (regs0 fun r =>
      vs [(20, BitVec.ofNat 2048 (2 ^ 32 * 7)), (21, 0x40000001), (22, 0x80FA), (23, 0xFE)] r)
    (r.v[20]).extractLsb' 0 64 = 0x000000074B800000 ∧ r.fpflags = 1 := by decide +kernel
/-- 05 R160: 0.75 / 0.1 rounds once, to 7. -/
theorem test_qnt : ((landed (.qnt H .i8 .rne K0 4 (r_ 5) (r_ 6)) (regs0 fun r => vs [(5, 0x3F400000), (6, 0x3DCCCCCD)] { r with k := r.k.set 1 1 })).v[4]).extractLsb' 0 8 = 7 := by
  decide +kernel
/-- 07 R201: the table of updates. -/
theorem test_sync : let w0 : BitVec 128 := BitVec.ofNat 128 (4096 * 2 ^ 64)
    let w1 := syncUpdate 3000 w0
    let w2 := syncUpdate 3000 w1
    let w3 := syncUpdate 2192 w2
    let w4 := syncUpdate (2 ^ 36) w3
    w1 = BitVec.ofNat 128 (3000 + 4096 * 2 ^ 64) ∧ w2 = BitVec.ofNat 128 (1904 + 4096 * 2 ^ 64 + 2 ^ 100)
      ∧ w3 = BitVec.ofNat 128 (4096 * 2 ^ 64 + 2 * 2 ^ 100) ∧ w4 = BitVec.ofNat 128 (4095 + 4096 * 2 ^ 64 + 2 ^ 100 + 2 ^ 116) := by decide
/-- 05 R157: a step sum that passes 2^39 − 1 is clamped and marks overflow. -/
theorem test_shacc : let m := (shaccMem { upc := 0, sums := [(0, 1000)] } 0 { acc := [(0, 549755813000)] })
    smGet 0 m.1.acc 0 = 549755813887 ∧ m.2 = true := by decide +kernel
/-- 10 R273: CRC-32C of the nine digits, which the standard gives as its check value, and of no bytes. -/
theorem test_crc32c : crc32c [0x31, 0x32, 0x33, 0x34, 0x35, 0x36, 0x37, 0x38, 0x39] = 0xE3069283 ∧ crc32c [] = 0 := by decide +kernel
/-- 14 R369: the example entry's fields. -/
theorem test_pte : let e : Word := 0x00FA00C000046067
    pteV e = true ∧ pteR e = true ∧ pteW e = true ∧ pteWb e = false ∧ pteC e = false ∧ pteAc e = true ∧ pteRes e = 1
      ∧ pteAddr e = 0xC000046000 ∧ pteCount e = 250 ∧ pteBad 3 e = false := by decide
/-- 15 R408, R410: the item at the cursor, and the cursor behind it. -/
theorem test_next : let s := on0 fun t => { t with mem := { t.mem with spad := writeB 0x114 4 0xABCD [] }
                                                   place := { t.place with st := 0x100, schedN := 2, schedPos := 1 } }
    (landed (.next H 8 6) s).g[8] = 0xABCD ∧ (landed (.next H 8 6) s).p.getLsbD 6 = false
      ∧ (after (.next H 8 6) s).tile.place.schedPos = 2 := by decide
/-- 03 R104: an index of no register, and a write to a read-only one. -/
theorem test_privileged_index : (after (.rdsr H 4 0x12) (on0 id)).tile.ctl.fltcode = 0x01 ∧ (after (.wrsr H (r_ 4) 0) (on0 id)).tile.ctl.fltcode = 0x01 := by
  decide

/-! ## Witnesses: states and operands that meet the hypotheses of the statements, clause by clause -/

def readyB (h : Hdr) (xs : List FRange) (s : State) : Bool :=
  readP s.tile h.guard && !interlocked s.tile.regs && !xs.any (timedHeld s.tile.eng) && decide (s.tile.ctl.bankLeft.getD (bankHold xs) = 0)
theorem ready_of {h : Hdr} {xs : List FRange} {s : State} (e : readyB h xs s = true) : Ready h xs s := by
  simp only [readyB, Bool.and_eq_true, Bool.not_eq_true', decide_eq_true_eq] at e
  exact ⟨e.1.1.1, e.1.1.2, e.1.2, e.2⟩

/-- A lone syllable that nothing keeps from issuing (every statement whose only premises are `Ready`). -/
theorem witness_ready : Ready H [] (on0 id) := ready_of (by decide)
theorem witness_ready_access : Ready H [acc 0x1FFFC0 64 true] (on0 id) := ready_of (by decide)

theorem witness_EverySyllableDecodesFromItsWord :
    wellFormed (.add H 5 (r_ 6) (r_ 7)) = true ∧ ∃ w, encodeSyllable (.add H 5 (r_ 6) (r_ 7)) = some w := ⟨by decide, _, rfl⟩
/-- The bundle of 02 R53, in memory at 0. -/
theorem witness_EverySyllableDecodesFromItsWord_bundle :
    let is := [Instr.add ⟨false, true, 3⟩ 5 (r_ 6) (r_ 7), .vadd H .i16 true K0 4 (r_ 5) ⟨0, true⟩]
    let ws : List Word := [0x11808A30E0000000, 0xA020082800201200]
    let get (a : Word) : Fetched := .word (if a = 0 then 0x11808A30E0000000 else 0xA020082800201200)
    is.Forall₂ (fun i w => wellFormed i = true ∧ encodeSyllable i = some w) ws
      ∧ (∃ os, is.Forall₂ (fun i o => slotOp i = some o) os ∧ os.Pairwise (fun a b => a.slot < b.slot) ∧ (os.tail.all fun o => !o.hdr.pp) = true
        ∧ os.map (·.hdr.stop) = List.replicate (os.length - 1) false ++ [true])
      ∧ ∀ k, ∀ h : k < ws.length, get (0 + BitVec.ofNat 64 (8 * k)) = .word ws[k] :=
  ⟨.cons ⟨by decide, by decide⟩ (.cons ⟨by decide, by decide⟩ .nil), ⟨[_, _], .cons rfl (.cons rfl .nil), by decide, by decide, by decide⟩,
    by decide⟩
theorem witness_AWordHasOneMeaning : ∃ i, decodeSyllable 0x801E800000000000 = .ok i := ⟨.jdone H, by decide⟩
theorem witness_EveryMicroOpDecodesFromItsWord : (wellFormed (.rpt 1 8 63) = true ∧ ∃ w, encodeMicro (.rpt 1 8 63) = some w)
    ∧ ∃ i, decodeMicro 0x3B000005 = some i := ⟨⟨by decide, _, rfl⟩, .paddImm .b 5, by decide⟩
theorem witness_FalseGuardMakesASyllablePass : ∃ o, slotOp (.add ⟨true, false, 3⟩ 5 (r_ 6) (r_ 7)) = some o
    ∧ readP (on0 id).tile o.hdr.guard = false ∧ interlocked (on0 id).tile.regs = false ∧ (on0 id).tile.ctl.bankLeft = none :=
  ⟨_, rfl, by decide, by decide, by decide⟩
/-- One bundle and a body at addresses 0 and 8. -/
def frame0 (ws : List Word) : Frame := { digest := 0, page := 0, words := ws.zipIdx.map fun w => (w.2, w.1) }
def nopWord : Word := 0x8000000000000000
/-- A bundle of one undecodable word at the program counter. -/
theorem witness_FalseGuardMakesASyllablePass_decode :
    (let s := ctl0 fun c => { c with frames := [frame0 [0xFFFFFFFFFFFFFFFF]] }
     innermost s.tile.ctl = none ∧ (match fetchBundle s.tile s.tile.ctl.pc with | .ok ws => ws == [0xFFFFFFFFFFFFFFFF] | _ => false) = true)
      ∧ (match decodeBundle [0xFFFFFFFFFFFFFFFF] with | .ok _ => true | _ => false) = false := by decide +kernel
/-- A result declared after 3 cycles that the FK9 has ready one cycle later. -/
def late : Pending := { res := .g 5 7, due := 0, ready := 1, slot := 0, flags := 0 }
/-- A copy job that reads and writes one block each. -/
def job0 : CJob := { card := 0, far := 0, cardAddr := 0, cpys := false, serial := 0, fp := [acc 0x100 64 true, acc 0x200 64 false] }
def withJob (s : State) : State := onEng (fun e => { e with cq := e.cq.set 0 [job0] }) s
theorem witness_HoldsKeepTheBundle : (∃ o, slotOp (.add H 5 (r_ 6) (r_ 7)) = some o
      ∧ interlocked (regs0 fun r => { r with inflight := [late] }).tile.regs = true)
    ∧ (∃ o, slotOp (.vlds H .i32 0 4 5 6 0) = some o
      ∧ o.fault5 (regs0 (gs [(6, 2048)])) = none ∧ o.fpHeld (regs0 (gs [(6, 2048)])) = false ∧ o.wait (regs0 (gs [(6, 2048)])) = false
      ∧ bankHold (o.access (regs0 (gs [(6, 2048)]))) = 63)
    ∧ (∃ o, slotOp (.sts H .w8 1 (r_ 0) 0x238) = some o ∧ o.fault5 (withJob (on0 id)) = none
      ∧ (o.access (withJob (on0 id))).any (timedHeld (withJob (on0 id)).tile.eng) = true)
    ∧ ∃ o, slotOp (.lds H .w8 1 (r_ 0) 0x100) = some o ∧ o.fault5 (withJob (on0 id)) = none
      ∧ (o.access (withJob (on0 id))).any (timedHeld (withJob (on0 id)).tile.eng) = true :=
  ⟨⟨_, rfl, by decide⟩, ⟨_, rfl, by decide +kernel, by decide +kernel, by decide +kernel, by decide +kernel⟩, ⟨_, rfl, by decide, by decide⟩,
    ⟨_, rfl, by decide, by decide⟩⟩
theorem witness_ResultsLandAtTheDeclaredLatency : (on0 id).tile.regs.inflight = [] ∧ (5 : Reg) ≠ 0 ∧ declared (on0 id).tile 1 = 3
    ∧ fk9Cycles 1 ≤ 3 ∧ declared (place0 fun p => { p with lat := p.lat.set 4 3 }).tile 4 = 3 ∧ 3 < fk9Cycles 4
    ∧ isDue { late with ready := 0 } = true
    ∧ (landDue { inflight := [{ late with ready := 0, slot := 2, res := .g 5 8 }, { late with ready := 0 }] }).g[5] = 8 := by decide
theorem witness_ScalarResults : (∃ h t, scalarRule (on0 id) (.div H .s 5 (r_ 6) (r_ 7)) = some (h, t) ∧ Ready h [] (on0 id))
    ∧ ∃ h t, pairRule (on0 id) (.cmp H .ltu 4 5 (r_ 6) (r_ 7)) = some (h, t) ∧ Ready h [] (on0 id) :=
  ⟨⟨_, _, rfl, witness_ready⟩, ⟨_, _, rfl, witness_ready⟩⟩
theorem witness_ScalarArithmeticLaws : (1 : Word) ≠ 0 ∧ ¬((1 : Word) = BitVec.intMin 64 ∧ (1 : Word) = BitVec.allOnes 64)
    ∧ fieldOk 60 3 = true ∧ (on0 id).tile.eng.mq.length ≤ 4 ∧ (queueOf (on0 id).tile 3).length ≤ 16 := by decide
theorem witness_IntegerLaneResults : ∃ h t, laneRule (on0 id) (.vadd H .u8 true K0 4 (r_ 5) (r_ 6)) = some (h, t) ∧ Ready h [] (on0 id) :=
  ⟨_, _, rfl, witness_ready⟩
theorem witness_LanesMergeAndPlanesJoin : 0 < 64 ∧ 64 * 32 ≤ 2048 ∧ 31 < 32 ∧ ElemTy.isInt .i64 = true ∧ 31 < lanesOf (ElemTy.bits .i64) := by decide
theorem witness_VectorResults : ∃ h t, vectorRule (on0 id) (.vfma H .bf16 .rdn K0 4 (r_ 5) (r_ 6) (r_ 7)) = some (h, t) ∧ Ready h [] (on0 id) :=
  ⟨_, _, rfl, witness_ready⟩

/-! ### Numbers -/

theorem value_one (e : Int) : exactly ⟨1, 1, e⟩ = (2 : ℚ) ^ e := by simp [exactly]
/-- An encoding, and exact reals that overflow FP16, are tiny in it, and neither. -/
theorem witness_RoundingIsCorrect : Encoding (fmtOf .fp16) 0xFFFF ∧ exactly ⟨0, 1, 0⟩ = 0
    ∧ (exactly ⟨1, 1, 20⟩ ≠ 0 ∧ Overflows (fmtOf .fp16) .rne (exactly ⟨1, 1, 20⟩))
    ∧ (exactly ⟨1, 1, -20⟩ ≠ 0 ∧ Tiny (fmtOf .fp16) .rtz (exactly ⟨1, 1, -20⟩) ∧ ¬ Overflows (fmtOf .fp16) .rtz (exactly ⟨1, 1, -20⟩))
    ∧ ¬ Tiny (fmtOf .fp16) .rtz (exactly ⟨1, 1, 0⟩) := by
  simp only [value_one, Overflows, Tiny, outward, largest, smallest, Encoding, fmtOf, Fmt.bias, Fmt.emin]
  norm_num [exactly]
  decide
theorem witness_FloatOperationsRoundExactResults : datum (.fin false 1 0) < datum (.fin false 3 0) ∧ isNan (.nan true) = true
    ∧ isNan (.fin true 0 0) = false ∧ Finite (fmtOf .bf16) 0x3F80 := by
  refine ⟨by norm_num [datum], rfl, rfl, ?_⟩
  unfold Safety.Finite Encoding
  decide
/-- A NaN, an infinity, zeros and numbers of each sign; a table and points below, inside and above it; sixteen lanes. -/
theorem witness_ConversionsAndReductions :
    (decodeF fp32 true 0x7F800001 = .nan true ∧ decodeF fp32 true 0xFF800000 = .inf true ∧ decodeF fp32 true 1 = .fin false 0 0
        ∧ decodeF fp32 false 0x3F800000 = .fin false 0x800000 (-23) ∧ decodeF fp32 false 0xBF800000 = .fin true 0x800000 (-23))
      ∧ ElemTy.isFloat .bf16 = true ∧ ElemTy.isInt .u32 = true ∧ Finite (fmtOf .fp16) 0x3C00 ∧ 2 ≤ 8
      ∧ (datum (.fin false 0 0) = 0 ∧ datum (.fin true 3 0) ≠ 0 ∧ (127 : ℚ) * 2 ^ 127 < |datum (.fin true 1 200)|)
      ∧ (let p (v : FVal) : ℚ := (datum v - 0) / 2 ^ (0 : Int)
         p (.fin true 1 0) < 0 ∧ (0 ≤ p (.fin false 1 0) ∧ p (.fin false 1 0) < (2 : ℕ)) ∧ ((2 : ℕ) : ℚ) ≤ p (.fin false 3 0))
      ∧ (List.replicate 16 (none : Option Nat)).length = 2 ^ (3 + 1) := by
  refine ⟨by decide, rfl, rfl, ⟨by unfold Encoding; decide, by decide⟩, by decide, ?_, ?_, by decide⟩
  · norm_num [datum]
  · norm_num [datum]

/-! ### Spill memory, scratchpad, sync words -/

/-- A table of `n` entries whose header is at `a`, the scratchpad block `b` poisoned. -/
def tableAt (a n b : Nat) : State :=
  mem0 fun m => { m with spad := writeB (a + 6) 1 (n - 1) m.spad, poison := [(b, true)] }
def tldB (s : State) (td : BitVec 22) (f : Word → BitVec 128 → Nat → Bool) : Bool :=
  let a := vmemBase s.tile.regs 0 td
  let hd := tldHeader s.tile.mem a.toNat
  f a hd (16 + 8 * tldCount hd)
/-- An aligned spill access; a table that loads; one of each refusal: header misaligned, beyond, poisoned or malformed, entries beyond or
poisoned. -/
theorem witness_SpillAndTableAccesses : (0x3FF8 : BitVec 14).toNat % Width.size .w8 = 0
    ∧ tldB (tableAt 0x10000 7 0) 0x10000 (fun a hd len => readyB H [acc a.toNat (min (tldSpan hd) (progEnd (tableAt 0x10000 7 0).tile - a.toNat)) false] (tableAt 0x10000 7 0) && a.toNat % 64 == 0
        && decide (a.toNat + len ≤ progEnd (tableAt 0x10000 7 0).tile) && (firstPoison (tableAt 0x10000 7 0).tile.mem a.toNat len).isNone && !tldBad hd)
      = true
    ∧ (vmemBase (on0 id).tile.regs 0 1).toNat % 64 ≠ 0
    ∧ (let s := regs0 (gs [(9, 0x200000)])
       (vmemBase s.tile.regs 9 0).toNat % 64 = 0 ∧ progEnd s.tile < (vmemBase s.tile.regs 9 0).toNat + 16)
    ∧ tldB (tableAt 0x10000 7 0x400) 0x10000 (fun a _ _ => firstPoison (tableAt 0x10000 7 0x400).tile.mem a.toNat 16 == some 0x10000) = true
    ∧ (tldBad (BitVec.ofNat 128 (2 ^ 36)) = true ∧ tldBad 0 = false)
    ∧ tldB (tableAt 0x1FFFC0 7 0) 0x1FFFC0 (fun a hd len => readyB H [acc a.toNat (min (tldSpan hd) (progEnd (tableAt 0x1FFFC0 7 0).tile - a.toNat)) false]
        (tableAt 0x1FFFC0 7 0) && (firstPoison (tableAt 0x1FFFC0 7 0).tile.mem a.toNat 16).isNone && !tldBad hd
        && decide (progEnd (tableAt 0x1FFFC0 7 0).tile < a.toNat + len)) = true
    ∧ tldB (tableAt 0x10000 7 0x401) 0x10000 (fun a hd _ => (firstPoison (tableAt 0x10000 7 0x401).tile.mem a.toNat 16).isNone
        && firstPoison (tableAt 0x10000 7 0x401).tile.mem (a.toNat + 16) (8 * tldCount hd) == some 0x10040) = true := by decide +kernel
/-- The last eight bytes of the program area, the block poisoned or not. -/
theorem witness_ScratchpadLoadsAndStores : ∀ b ∈ [0, 0x7FFF],
    let s := mem0 fun m => { m with poison := [(b, true)] }
    let a := spadAddr s.tile.regs (r_ 0) 0x1FFFF8
    a.toNat % 8 = 0 ∧ a.toNat + 8 = progEnd s.tile ∧ readyB H [acc a.toNat 8 false] s = true ∧ readyB H [acc a.toNat 8 true] s = true
      ∧ firstPoison s.tile.mem a.toNat 8 = if b = 0 then none else some 0x1FFFF8 := by decide
def judgedB (h : Hdr) (s : State) : Bool :=
  readP s.tile h.guard && !interlocked s.tile.regs && s.tile.ctl.bankLeft == none
theorem judged_of {h : Hdr} {s : State} (e : judgedB h s = true) : Judged h s := by
  simp only [judgedB, Bool.and_eq_true, Bool.not_eq_true', beq_iff_eq] at e
  exact ⟨e.1.1, e.1.2, e.2⟩
theorem witness_judged : Judged H (on0 id) := judged_of (by decide)
def vmemOk (s : State) (i : Instr) : Bool :=
  match vmemRule s i with
  | some (h, ok, xs, _) => decide (h = H) && ok && readyB H xs s
  | none => false
theorem vmem_of {s : State} {i : Instr} (e : vmemOk s i = true) : ∃ xs t, vmemRule s i = some (H, true, xs, t) ∧ Ready H xs s := by
  unfold vmemOk at e
  split at e
  · rename_i h ok xs t he
    simp only [Bool.and_eq_true, decide_eq_true_eq] at e
    obtain ⟨⟨rfl, rfl⟩, r⟩ := e
    exact ⟨xs, t, he, ready_of r⟩
  · cases e
/-- Two elements of a strided load from `base`, 32-bit. -/
def strided (base stride : Word) : State := regs0 fun r => gs [(10, base), (7, stride)] { r with k := r.k.set 5 3 }
def pair32 : Instr := .vlds H .i32 5 9 10 7 0
theorem witness_MisplacedAccessesFault :
    judgedB H (on0 id) = true
      ∧ (let s := on0 id
         (spadAddr s.tile.regs (r_ 0) 0x1FFFF9).toNat % 2 ≠ 0 ∧ (spadAddr s.tile.regs (r_ 0) 0x200000).toNat % 8 = 0
          ∧ progEnd s.tile < (spadAddr s.tile.regs (r_ 0) 0x200000).toNat + 8
          ∧ (3 : BitVec 14).toNat % Width.size .w2 ≠ 0 ∧ (globalAddr s.tile.regs (r_ 0) (.tile 4)).toNat % Width.size .w8 ≠ 0)
      ∧ (let s := regs0 (gs [(9, 1), (8, 0x200000)])
         (srcSa s.tile.regs (r_ 9)).toNat % Width.size .w4 ≠ 0 ∧ (srcSa s.tile.regs (r_ 9)).toNat % 8 ≠ 0
          ∧ (∀ n ∈ [16, 32, 64], (readG s.tile.regs 9).toNat % n ≠ 0 ∧ (readG s.tile.regs 8).toNat % n = 0
            ∧ progEnd s.tile < (readG s.tile.regs 8).toNat + n))
      ∧ (vmemForm (.vld H .i8 5 9 0 1) = some (H, 1, 1, true) ∧ (vmemStart (on0 id) (.vld H .i8 5 9 0 1)).toNat % 64 ≠ 0)
      ∧ vmemForm pair32 = some (H, 4, 4, true)
      ∧ (vmemElems (strided 0x1FFFFC 4) pair32 = [(0, 0x1FFFFC)] ++ (1, 0x200000) :: []
        ∧ vmemElems (strided 0x1FFFFC 2) pair32 = [(0, 0x1FFFFC)] ++ (1, 0x1FFFFE) :: [])
      ∧ ((0x1FFFFC : Word).toNat % 4 = 0 ∧ (0x1FFFFC : Word).toNat + 4 ≤ progEnd (on0 id).tile ∧ (0x1FFFFE : Word).toNat % 4 ≠ 0
        ∧ progEnd (on0 id).tile < (0x200000 : Word).toNat + 4) := by decide +kernel
theorem witness_VectorLoadsAndStores :
    (let s := regs0 (fun r => gs [(10, 0x2000)] { r with k := r.k.set 5 15 })
     ∀ i ∈ [Instr.vgath H .i32 5 9 10 7 0, .vst H .i32 5 9 10 0], ∃ xs t, vmemRule s i = some (H, true, xs, t) ∧ Ready H xs s)
      ∧ (let s := onMem (fun m => { m with poison := [(0x81, true)] }) (strided 0x2000 64)
         readyB H (elemsAccess 4 false (vmemElems s pair32)) s = true ∧ vmemElems s pair32 = [(0, 0x2000)] ++ (1, 0x2040) :: []
          ∧ (∀ y ∈ vmemElems s pair32, y.2.toNat % 4 = 0 ∧ y.2.toNat + 4 ≤ progEnd s.tile)
          ∧ firstPoison s.tile.mem 0x2000 4 = none ∧ firstPoison s.tile.mem 0x2040 4 = some 0x2040) := by
  refine ⟨?_, by decide +kernel⟩
  intro s i hi
  fin_cases hi <;> exact vmem_of (by decide +kernel)
/-- STS and VLD of one bundle, in different banks. -/
theorem witness_VectorLoadsAndStores_bundle :
    let s := regs0 (fun r => gs [(10, 0x2000)] { r with k := r.k.set 5 15 })
    ∃ o1 o2, slotOp (.sts ⟨false, false, 0⟩ .w8 1 (r_ 0) 0x40) = some o1 ∧ slotOp (.vld H .i32 5 9 10 0) = some o2
      ∧ (vmemRule s (.vld H .i32 5 9 10 0)).isSome = true ∧ isHeld [o1, o2] s = false ∧ firstOf SlotOp.fault5 [o1, o2] s = none
      ∧ firstOf SlotOp.fault6 [o1, o2] s = none ∧ readP s.tile 0 = true ∧ interlocked s.tile.regs = false
      ∧ s.tile.ctl.bankLeft.getD (bankHold (o1.access s ++ o2.access s)) = 0 :=
  ⟨_, _, rfl, rfl, by decide +kernel, by decide +kernel, by decide +kernel, by decide +kernel, by decide +kernel, by decide +kernel, by decide +kernel⟩
theorem witness_SyncWords :
    (let s := regs0 (gs [(5, 0x1FFFF0), (6, 0xFFFFFFFFF), (7, 0x100), (8, 0xFFFF), (9, 0x1000000000)])
     readyB H [acc 0x1FFFF0 16 true] s = true ∧ readyB H [acc 0x100 16 false] s = true ∧ judgedB H s = true
      ∧ (readG s.tile.regs 5).toNat % 16 = 0 ∧ (readG s.tile.regs 5).toNat + 16 = progEnd s.tile ∧ (readG s.tile.regs 6).toNat < 2 ^ 36
      ∧ 2 ^ 36 ≤ (readG s.tile.regs 9).toNat ∧ firstPoison s.tile.mem 0x100 16 = none ∧ s.tile.ctl.bankLeft = none
      ∧ genPassed ((syncAt s.tile.mem 0x100).extractLsb' 100 16) (srcSb s.tile.regs (r_ 8)) = true
      ∧ genPassed ((syncAt s.tile.mem 0x100).extractLsb' 100 16) (srcSb s.tile.regs (r_ 0)) = false)
      ∧ firstPoison { poison := [(4, true)] } 0x100 16 = some 0x100 := by decide

/-! ### Control flow -/

/-- A tile at bundle `pc` of four one-syllable bundles, its levels set by `f`. -/
def loop0 (pc : Word) (f : Vector LoopLevel 6 → Vector LoopLevel 6) : State :=
  ctl0 fun c => { c with pc := pc, frames := [frame0 [nopWord, nopWord, nopWord, nopWord]], loops := f c.loops }
def level0 (n : Nat) : LoopLevel := { active := true, first := 8, len := 2, count := n, rotate := true }
theorem witness_Transfers :
    (∃ t, transferRule (on0 id) (.br H 8) = some (H, true, 64, t))
      ∧ (∃ g t, transferRule (on0 fun t => { t with ctl := { t.ctl with rstack := [0x100] } }) (.ret H) = some (H, true, g, t))
      ∧ (let s := loop0 16 (·.set 2 (level0 3))
         judgedB H s = true ∧ (innermost s.tile.ctl) = some 2 ∧ s.tile.ctl.rstack.length < 8
          ∧ (relTarget s 1 ∉ levelAddrs s.tile s.tile.ctl.loops[2]) ∧ (relTarget s (-1) ∈ levelAddrs s.tile s.tile.ctl.loops[2])
          ∧ brtTarget 0 0 0 0 0 1 s ∉ levelAddrs s.tile s.tile.ctl.loops[2]
          ∧ srcSa s.tile.regs (r_ 0) ∉ levelAddrs s.tile s.tile.ctl.loops[2] ∧ (srcSa s.tile.regs (r_ 0)).toNat % 8 = 0
          ∧ (levelOf s.tile.ctl 5).active = false ∧ (levelOf s.tile.ctl 7).active = false)
      ∧ (let s := onCtl (fun c => { c with rstack := [0] }) (loop0 16 (·.set 2 (level0 3)))
         (innermost s.tile.ctl).isSome = true ∧ s.tile.ctl.rstack ≠ [])
      ∧ (innermost (on0 id).tile.ctl = none ∧ 8 ≤ (ctl0 fun c => { c with rstack := List.replicate 8 0 }).tile.ctl.rstack.length
          ∧ (on0 id).tile.ctl.rstack = []) := ⟨⟨_, rfl⟩, ⟨_, _, rfl⟩, by decide, by decide, by decide⟩
/-- LOOP alone and inside a level, as a level above and within it; and one operand for each of its four refusals. -/
theorem witness_LoopArmsOrSkips :
    (readyB H [] (loop0 0 id) = true ∧ (5 : BitVec 3).toNat ≤ 5 ∧ innermost (loop0 0 id).tile.ctl = none ∧ readG (loop0 0 id).tile.regs 9 = 0
      ∧ (let s := onRegs (gs [(9, 0xFFFFFFFF)]) (loop0 0 id)
         readyB H [] s = true ∧ (readG s.tile.regs 9).toNat < 2 ^ 32 ∧ readG s.tile.regs 9 ≠ 0))
      ∧ (let s := loop0 8 (·.set 2 { level0 3 with len := 3 })
         innermost s.tile.ctl = some 2 ∧ (2 : Fin 6).val < (3 : BitVec 3).toNat ∧ ¬(2 : Fin 6).val < (2 : BitVec 3).toNat
          ∧ (lastOfBody s.tile (1 : BitVec 6).toNat (nextPc s.tile)).toNat ≤ (levelLast s.tile s.tile.ctl.loops[2]).toNat
          ∧ ¬(lastOfBody s.tile (2 : BitVec 6).toNat (nextPc s.tile)).toNat ≤ (levelLast s.tile s.tile.ctl.loops[2]).toNat)
      ∧ 5 < (6 : BitVec 3).toNat ∧ 2 ^ 32 ≤ (0x100000000 : Word).toNat ∧ judgedB H (loop0 0 id) = true := by decide
/-- Iterations left and none; alone, inside a level that goes on, and inside one that ends at the same bundle. -/
theorem witness_IterationEnds :
    (∀ n ∈ [1, 2], let s := loop0 16 (·.set 0 (level0 n))
      innermost s.tile.ctl = some 0 ∧ levelLast s.tile s.tile.ctl.loops[0] = s.tile.ctl.pc)
      ∧ ∀ n ∈ [1, 2], ∀ len ∈ [2, 3], let s := loop0 16 fun ls => (ls.set 0 { level0 n with len := len }).set 1 (level0 1)
        innermost s.tile.ctl = some 1 ∧ levelLast s.tile s.tile.ctl.loops[1] = s.tile.ctl.pc
          ∧ innermost { s.tile.ctl with loops := s.tile.ctl.loops.set 1 { s.tile.ctl.loops[1] with active := false } } = some 0
          ∧ (levelLast s.tile s.tile.ctl.loops[0] = s.tile.ctl.pc ↔ len = 2) := by decide
theorem witness_EndTrapAndYield : readyB H [] (on0 id) = true ∧ inPhase (on0 id) = false
    ∧ (let s := eng0 fun e => { e with phase := some 1 }
       judgedB H s = true ∧ inPhase s = true) := by decide
theorem witness_SpecialRegisters : (∃ v, specialReg (on0 id) 0x11 = some v) ∧ (∃ f, writeSpecial 0x0A 7 = some f)
    ∧ 0x12 ≤ (0x12 : BitVec 8).toNat ∧ (0x0B : BitVec 8) ≠ 0x0A ∧ judgedB H (on0 id) = true ∧ readP (on0 id).tile 3 = false :=
  ⟨⟨_, rfl⟩, ⟨_, rfl⟩, by decide, by decide, by decide, by decide⟩

/-! ### Fabric, global memory, mailboxes -/

/-- A gang of eight running tiles, the focus on the tile at (1, 0), in a phase of the region's entry. -/
def gang0 (f : Tile → Tile) : State :=
  let t (p : Nat) : Tile := f { ctl := { run := .running }, eng := { phase := some 1 }, place := { slot := some 0, x := p % 32, y := p / 32 } }
  { State.reset with
    cur := 1, tile := t 1, others := ((gangTiles {}).filter (· ≠ 1)).map fun p => (p, t p)
    binds := [(0, { state := .running })], agenda := [], mod := { power := .active, cycle := 1000 } }

theorem witness_FabricInstructions : readyB H [] (on0 id) = true ∧ judgedB H (on0 id) = true ∧ inPhase (on0 id) = false
    ∧ alignNow true { on0 id with mod := { power := .active, time := 1024, prevTime := 1023 } } = true ∧ alignNow true (on0 id) = false
    ∧ (on0 id).tile.ctl.barOpen = false ∧ inScope (on0 id).tile 31 (on0 id).tile.place.x (on0 id).tile.place.y = false
    ∧ barFault .plain 0 (on0 id) = none ∧ (ctl0 fun c => { c with barOpen := true }).tile.ctl.barOpen = true ∧ (on0 id).tile.eng.phase = none
    ∧ readyB H [] (gang0 id) = true ∧ judgedB H (gang0 id) = true ∧ (gang0 id).tile.eng.phase = some 1 ∧ farTile (gang0 id) 1 .west = some 0
    ∧ farTile (gang0 id) 1 .north = none := by decide +kernel
/-- Every member of the gang has arrived at its entry 1 with kind `k`, the tile in focus with `k0`. -/
def arrived0 (k0 k : BarKind) : State :=
  let at_ (k : BarKind) (t : Tile) : Tile := { t with eng := { t.eng with epi := [(1, { arrived := some (some k, 992) })] } }
  onTile (at_ k0) (gang0 (at_ k))
theorem witness_BarriersArriveAndRelease :
    (let s := on0 id
     judgedB H s = true ∧ barFault .plain 0 s = none ∧ s.tile.ctl.barOpen = false ∧ (episode s.tile 0).arrived = none)
      ∧ (∀ k ∈ [BarKind.plain, .close_], let s := arrived0 k .plain
         barrierDue s 1 = true
          ∧ (kindsOf (((scopeTiles s 1).filter fun p => releases 1 (nextEpisode s.tile 1) (getTile p s)).map (getTile · s)) 1
              (nextEpisode s.tile 1)).eraseDups = if k = .plain then [.plain] else [.plain, .close_])
      ∧ (eng0 fun e => { e with links := [(4, 3, 7)] }).tile.eng.links = [(4, 3, 7)] := by decide +kernel

/-- A device whose first gibibyte is one page: `leaf` 0x47 puts it in host memory, 7 in the device's own, 15 there under write-block. -/
def paged (leaf : Nat) (s : State) : State :=
  { s with vds := [(0, { enabled := true, ptroot := 0x1000 })], mem := { s.mem with dmem := writeB 0x2000 8 leaf (writeB 0x1000 8 0x2001 []) } }
/-- Tables of four levels whose last entry is `leaf`; 0x87 is a page in flash. -/
def deepTable (leaf : Nat) : SMap Byte := writeB 0x4000 8 leaf (writeB 0x3000 8 0x4001 (writeB 0x2000 8 0x3001 (writeB 0x1000 8 0x2001 [])))
/-- The page at 0 in flash, the device with a pool. -/
def flashed (s : State) : State :=
  { s with vds := [(0, { enabled := true, ptroot := 0x1000, poolBase := 0x40000000, poolBytes := 65536 })]
           mem := { s.mem with dmem := deepTable 0x87, flash := [(0, 0, 0, [])] } }
def portB (s : State) : Nat :=
  match (atPort (srcSa s.tile.regs (r_ 0)) s).1 with
  | .go _ => 0
  | .held h => if h.snap then 2 else 1
  | .paging => 3
  | .fault _ => 4

theorem witness_GlobalAccessesBegin : readyB H [] (on0 id) = true ∧ (globalAddr (on0 id).tile.regs (r_ 0) (.group 0 8)).toNat % Width.size .w8 = 0
    ∧ (srcSa (on0 id).tile.regs (r_ 0)).toNat % Width.size .w8 = 0
    ∧ (∀ leaf ∈ [7, 0], portHolds .w8 .ar .device (srcSa (on0 id).tile.regs (r_ 0)) (paged leaf (on0 id)) = false)
    ∧ accessHeld (on0 id) .ar (.group 0) (globalAddr (on0 id).tile.regs (r_ 0) (.group 0 8)) .w8 = false
    ∧ (let s := paged 7 (eng0 fun e => { e with sq := [jdoneEntry 0] })
       s.tile.ctl.bankLeft = none ∧ accessHeld s .ar .device (srcSa s.tile.regs (r_ 0)) .w8 = true)
    ∧ (let s := paged 15 (eng0 fun e => { e with sq := [stgEntry (on0 id) .w8 .rlx 5 (r_ 0) (.device 16)] })
       s.tile.ctl.bankLeft = none ∧ accessHeld s .rel .device (srcSa s.tile.regs (r_ 0)) .w8 = true
        ∧ accessHeld s .rlx .device (globalAddr s.tile.regs (r_ 0) (.device 16)) .w8 = true)
    ∧ (portB (paged 7 (on0 id)) = 0 ∧ portB (paged 0 (on0 id)) = 4 ∧ portB (paged 15 (on0 id)) = 1 ∧ portB (flashed (on0 id)) = 3)
    ∧ (let s := paged 15 (ctl0 fun c => { c with portHeld := some { base := 0, size := 2 ^ 30, snap := false } })
       s.tile.ctl.bankLeft = none ∧ standing s.tile.ctl.portHeld = true)
    ∧ (paged 15 (on0 id)).tile.ctl.bankLeft = none ∧ standing (paged 15 (on0 id)).tile.ctl.portHeld = false
    ∧ (∀ s ∈ [paged 15 (on0 id), flashed (on0 id)], s.tile.ctl.bankLeft = none ∧ standing s.tile.ctl.portHeld = false
        ∧ accessHeld s .ar .device (srcSa s.tile.regs (r_ 0)) .w8 = false)
    ∧ (eng0 fun e => { e with sq := List.replicate 31 (jdoneEntry 0) }).tile.eng.sq.length < 32 := by decide +kernel

def doneB (o : GOut) : Bool :=
  match o with
  | .done _ _ => true
  | _ => false
theorem done_of {o : GOut} (e : doneB o = true) : ∃ bs s', o = .done bs s' := by
  cases o <;> first | exact ⟨_, _, rfl⟩ | cases e
def failB (o : GOut) : Bool :=
  match o with
  | .fail _ _ => true
  | _ => false
def waitB (o : GOut) : Bool :=
  match o with
  | .wait _ => true
  | _ => false
def blockB (o : GOut) : Bool :=
  match o with
  | .block _ _ => true
  | _ => false

def jcbB (s : State) : Nat :=
  match jcbUpdate (jcbOf (ownBind s)) 9 1 s with
  | .done _ => 0
  | .over _ => 1
  | .held _ => 2

theorem witness_FencesMonitorsAndHints :
    (readyB H [] (on0 id) = true ∧ sqPending (on0 id).tile.eng.sq = [])
      ∧ (let stg := stgEntry (on0 id) .w8 .rlx 5 (r_ 0) (.device 16)
         sqPending [stg] ≠ [] ∧ (∀ x ∈ sqPending [stg], x.kind = .stg)
          ∧ (let s := eng0 fun e => { e with sq := [{ stg with sent := true }] }
             readyB H [] s = true ∧ sqPending s.tile.eng.sq = [] ∧ s.tile.ctl.bankLeft = none)
          ∧ sqPending [redEntry (on0 id) .add .w8 .rlx .device (r_ 0) 5] ≠ [])
      ∧ (let s := paged 0x47 (on0 id)
         (srcSa s.tile.regs (r_ 0)).toNat % Width.size .w8 = 0 ∧ s.tile.ctl.waitRead = false
          ∧ sqOverlaps s s.tile.eng.sq (srcSa s.tile.regs (r_ 0)) (Width.size .w8) = false ∧ monHolds s (srcSa s.tile.regs (r_ 0)) = false
          ∧ doneB (waitmRead .w8 (srcSa s.tile.regs (r_ 0)) s) = true)
      ∧ (let s := ctl0 fun c => { c with waitRead := true, waitDue := some 0 }
         s.tile.ctl.waitRead = true ∧ waitmTimedOut s = true)
      ∧ (0x8000FFFF : Word).toNat < 2 ^ 40 ∧ (0x8000FFFF : Word).extractLsb' 16 15 = 0 := by decide +kernel
/-- An LDG of the word at 8, and a tile held on it. -/
def load0 : GAccess := { kind := .ldg, va := 8, width := .w8, order := .acq, scope := .system, data := 0, dest := 5 }
def loading (leaf : Nat) : State := paged leaf (ctl0 fun c => { c with gacc := some load0 })
/-- A tile with one store to address 16 in its queue. -/
def storing (leaf : Nat) : State := paged leaf (eng0 fun g => { g with sq := [stgEntry (on0 id) .w8 .rel 5 (r_ 0) (.device 16)] })
theorem witness_GlobalAccessesComplete :
    (doneB (performAccess load0 (loading 7)) = true ∧ failB (performAccess load0 (loading 0)) = true ∧ (loading 7).tile.regs.inflight = []
        ∧ waitB (performAccess load0 (flashed (loading 7))) = true)
      ∧ (∀ leaf ∈ [7, 0], (storing leaf).tile.eng.sq[0]? = some (stgEntry (on0 id) .w8 .rel 5 (r_ 0) (.device 16))
        ∧ sqReady (storing leaf) 0 = true ∧ (stgEntry (on0 id) .w8 .rel 5 (r_ 0) (.device 16)).kind = .stg
        ∧ (if leaf = 7 then doneB else failB) (performEntry (stgEntry (on0 id) .w8 .rel 5 (r_ 0) (.device 16)) (storing leaf)) = true)
      ∧ (ctl0 fun c => { c with waitDue := some 0 }).tile.ctl.waitDue = some 0
      ∧ (let m : Monitor := { va := 0, sector := none, since := 0 }
         m.sector = none ∧ m.since.toNat + 1024 ≤ 1024)
      ∧ (let s := storing 15
         let e := stgEntry (on0 id) .w8 .rel 5 (r_ 0) (.device 16)
         sqReady s 0 = true ∧ e.sent = false ∧ blockB (performEntry e s) = true)
      ∧ (let s := paged 0x47 (eng0 fun g => { g with sq := [{ stgEntry (on0 id) .w8 .rel 5 (r_ 0) (.device 16) with sent := true }] })
         sqReady s 0 = true)
      ∧ (let e := mbxwEntry (on0 id) (r_ 0) 3
         let s := paged 7 (eng0 fun g => { g with sq := [e] })
         sqReady s 0 = true ∧ e.kind = .mbxw 3 ∧ e.sent = false ∧ doneB (performEntry e s) = true)
      ∧ (let s := eng0 fun g => { g with sq := [jdoneEntry 9] }
         sqReady s 0 = true ∧ (jdoneEntry 9).kind = .jdone 9)
      ∧ jcbB (paged 0x47 (on0 id)) = 0 ∧ jcbB { paged 0x47 (on0 id) with mem := { (paged 0x47 (on0 id)).mem with hmem := writeB 20 4 0xFFFFFFFF [] } } = 1
      ∧ jcbB { paged 7 (on0 id) with vds := [(0, { enabled := true, ptroot := 0x1000, snap := 1, snaps := [⟨1, []⟩] })] } = 2
      ∧ (match outgoing load0 (loading 0x47) with | (some t, _) => overPcie load0 t | _ => false) = true
      ∧ (match outgoing load0 (loading 7) with | (some t, _) => overPcie load0 t | _ => true) = false
      ∧ (outgoing load0 (loading 0)).1 = none := by decide +kernel
theorem witness_MailboxJobAndScheduleInstructions :
    (let s := on0 id
     readyB H [] s = true ∧ s.tile.place.posted = false ∧ s.tile.place.pend.toNat + (srcSa (gs [(9, 0xFFFFFFFF)] s.tile.regs) (r_ 9)).toNat < 2 ^ 32
      ∧ s.tile.eng.sq.length < 32 ∧ s.tile.place.pend = 0 ∧ s.tile.place.schedN.toNat ≤ s.tile.place.schedPos.toNat ∧ commitHeld s = false
      ∧ 2 ^ 32 ≤ s.tile.place.pend.toNat + (0x100000000 : Word).toNat)
      ∧ (∀ b ∈ [false, true], (place0 fun p => { p with posted := true, thisRun := b }).tile.place.thisRun = b)
      ∧ (∀ b ∈ [0, 0x7FFF], let s := on0 fun t => { t with place := { t.place with st := 0x1FFFE0, schedN := 1 }, mem := { t.mem with poison := [(b, true)] } }
         readyB H [acc (s.tile.place.st + 16) 4 false] s = true ∧ s.tile.place.schedPos.toNat < s.tile.place.schedN.toNat ∧ commitHeld s = false
          ∧ firstPoison s.tile.mem (s.tile.place.st + 16) 4 = if b = 0 then none else some 0x1FFFF0)
      ∧ (let s := paged 0x47 (place0 fun p => { p with pend := 5 })
         s.tile.place.pend ≠ 0 ∧ commitHeld s = false
          ∧ (match jcbUpdate (jcbOf (ownBind s)) 5 0 (onPlace (fun p => { p with pend := 0 }) s) with | .done _ => true | _ => false) = true) := by
  decide +kernel

/-! ### Matrix engine, copy engines, boarding, the Flume -/

/-- Operand headers of one scale group (08 R154): A of 4 planes at 0, B of 8 at 64; routine 0 enters at slot 0. -/
def headers (m : TMem) : TMem :=
  { m with
    spad := writeB 64 64 (0x01000701 + 128 * 2 ^ 64 + 32 * 2 ^ 96 + 0x4000 * 2 ^ 128 + 0x8100 * 2 ^ 160 + 4096 * 2 ^ 192)
      (writeB 0 64 (0x01000301 + 128 * 2 ^ 64 + 32 * 2 ^ 96 + 0x2000 * 2 ^ 128 + 0x8000 * 2 ^ 160 + 2048 * 2 ^ 192) m.spad)
    rentry := [(0, 0x1000)] }
def callState : State := on0 fun t => { t with regs := { t.regs with mp := t.regs.mp.set 1 64 }, mem := headers t.mem, place := { t.place with ecount := 64 } }
def called (delta : Bool) (s : State) : Option MCallSnap := (checkCall s.tile delta 0 7 4 8).toOption
theorem called_of {delta : Bool} {s : State} (e : (called delta s).isSome = true) : ∃ c, checkCall s.tile delta 0 7 4 8 = .ok c := by
  revert e
  unfold called
  cases checkCall s.tile delta 0 7 4 8 with
  | ok c => exact fun _ => ⟨c, rfl⟩
  | error n => exact fun e => nomatch e
theorem witness_MatrixJobsEnterTheQueue : callState.tile.eng.mq.length < 4 ∧ Ready H (hdrAccess callState.tile) callState
    ∧ hdrPoison callState.tile = none ∧ (∃ c, checkCall callState.tile false 0 7 4 8 = .ok c) ∧ (∃ c, checkCall callState.tile true 0 7 4 8 = .ok c)
    ∧ mldrBad callState.tile 0x1000 0x1FFFFF000 = false :=
  ⟨by decide, ready_of (by decide +kernel), by decide +kernel, called_of (by decide +kernel), called_of (by decide +kernel), by decide +kernel⟩
theorem witness_RefusedEngineJobsFault :
    (on0 id).tile.ctl.run = .running ∧ (on0 id).tile.eng.mq.length < 4 ∧ readyB H (hdrAccess (on0 id).tile) (on0 id) = true ∧ hdrPoison (on0 id).tile = none
      ∧ (match checkCall (on0 id).tile false 0 7 4 8 with | .error n => n == 1 | .ok _ => false) = true
      ∧ cardCause (on0 id).tile (cardAt (on0 id).tile 0) (BitVec.ofNat 64 (cardFar (cardAt (on0 id).tile 0))) false = some 3 := by decide +kernel
theorem witness_AccumulatorAndParameterInstructions : readyB H [] (on0 id) = true ∧ claimed (on0 id) = false ∧ (on0 id).tile.eng.mq = [] := by decide

/-- A G2S card that moves one byte to scratchpad 0x100, with its one write range. -/
def card0 : BitVec 512 := BitVec.ofNat 512 (0x100 + 0x4000 * 2 ^ 64 + (0x100 + 64 * 2 ^ 21 + 2 ^ 43) * 2 ^ 320)
/-- A board card of one weight tile (4 KiB) to 0x8000 from raft 5. -/
def bcard0 : BitVec 256 := BitVec.ofNat 256 (0x8000 + 16 * 2 ^ 160 + 5 * 2 ^ 240)
def carded : State := mem0 fun m => { m with spad := writeB 0x80 32 bcard0.toNat (writeB 0x40 64 card0.toNat m.spad) }
theorem witness_CopyAndBoardInstructions :
    let s := onRegs (gs [(12, 0x40), (14, 0x80)]) carded
    readyB H [acc 0x40 64 false] s = true ∧ (readG s.tile.regs 12).toNat % 64 = 0 ∧ firstPoison s.tile.mem 0x40 64 = none ∧ (queueOf s.tile 3).length < 16
      ∧ cardCause s.tile (cardAt s.tile 0x40) (BitVec.ofNat 64 (cardFar (cardAt s.tile 0x40))) false = none
      ∧ cardCause s.tile (cardAt s.tile 0x40) (displace (cardAt s.tile 0x40) 64).1 (displace (cardAt s.tile 0x40) 64).2 = none
      ∧ readyB H [acc 0x80 32 false] s = true ∧ s.tile.eng.bq.length < 8 ∧ boardBad s.tile (boardCard s.tile 0x80) = false
      ∧ (∀ q ∈ selected .all, queueOf s.tile q = []) ∧ (readG s.tile.regs 13).toNat ≤ 0 := by decide +kernel

/-- The call of `callState` snapshot by R220, running with routine state `r`. -/
def snap0 : MCallSnap := (called false callState).getD zeroCall
def running (r : MRun) : State := onEng (fun e => { e with mq := [{ job := .call snap0, fp := callFp snap0, serial := 0 }], mrun := some r }) callState
theorem witness_MicroOpsRun :
    let r : MRun := { upc := 4095, aptr := callA snap0, bptr := callB snap0, a0 := { st := .packed }, a1 := { st := .loaded }, b1 := { st := .loaded }, y := 128 }
    runCall (running r).tile.eng = some (snap0, r) ∧ r.upc ≤ 4095
      ∧ (callA snap0 = 0x2000 ∧ loadLen snap0 false = 2048 ∧ (loadRange snap0 false).base = 0x2000 ∧ (loadRange snap0 false).len = 2048)
      ∧ (callB snap0 = 0x4000 ∧ loadLen snap0 true = 4096 ∧ (loadRange snap0 true).base = 0x4000 ∧ (loadRange snap0 true).len = 4096)
      ∧ loadPending r false 0 = false ∧ (bufOf r false 0).st = .packed
      ∧ (loadPending r false 1 = false ∧ loadPending r true 1 = false ∧ (bufOf r false 1).st = .loaded ∧ (bufOf r true 1).st = .loaded)
      ∧ (3 : BitVec 3).toNat < snap0.pa ∧ r.y + 32 * snap0.pa ≤ 256
      ∧ (rptBad { r with upc := 0 } 1 0 64 = false ∧ rptCount snap0 1 ≠ 0) ∧ (4094 : Nat) < (4095 : BitVec 12).toNat
      ∧ scalesClean (running r).tile.mem snap0 = true ∧ (allZero (running r).tile.mem snap0 r false || allZero (running r).tile.mem snap0 r true) = false
      ∧ loadPoisoned (running r).tile.mem snap0 r false 0x2000 = false ∧ discarding (running r) = false
      ∧ (let s := onPlace (fun p => { p with slot := some 0 }) { running { r with mode := .delta } with binds := [(0, { decided := true, discard := true })] }
         discarding s = true ∧ runCall s.tile.eng = some (snap0, { r with mode := .delta }) ∧ ({ r with mode := .delta } : MRun).mode ≠ .plain) := by decide +kernel
/-- Every scale byte of A is −128, so that a ZGT branches; and a loop count of zero. -/
theorem witness_MicroOpsRun_zero :
    let m : TMem := { callState.tile.mem with spad := writeList 0x8000 (List.replicate 128 0x80) callState.tile.mem.spad }
    (allZero m snap0 { upc := 0 } false || allZero m snap0 { upc := 0 } true) = true ∧ ∃ src : BitVec 4, rptCount snap0 src = 0 :=
  ⟨by decide +kernel, 0, by decide +kernel⟩
theorem witness_AccumulatorLaws : smWf 0 ([(0, 5), (16383, -7)] : SMap (BitVec 40)) = true ∧ smWf 0 ([(16383, -7)] : SMap Int) = true ∧ 31 < 32 ∧ 16383 < 16384 := by
  decide

/-- The oldest job of an idle engine. -/
def queued (j : MJob) (s : State) : State := onEng (fun e => { e with mq := [{ job := j, fp := [], serial := 0 }] }) s
theorem turn_of {j : MJob} {s : State} (a : s.tile.eng.mrun = none) (d : discarding (queued j s) = false) (b : s.tile.eng.bcasts = [])
    (c : edgesClear (queued j s).tile.eng 0 [] = true) : EngineTurn (queued j s) { job := j, fp := [], serial := 0 } [] := ⟨a, d, b, rfl, c⟩
/-- An entry of 256 + 4096 bytes, bound to layer 0 of device 0, that a call of one row and one column fits. -/
def entry0 : CopEntry := { bound := true, d := 1, n := 64, offset := 0, size := 4352 }
def tiny : MCallSnap := { snap0 with a := { snap0.a with rows := 1 }, b := { snap0.b with rows := 1 } }
def withEntry (e : CopEntry) : State := onPlace (fun p => { p with ecount := 1, coppice := 8192 }) (onEng (setEnt 0 fun _ => e) callState)
/-- The entry once it holds the call's group. -/
def entry1 : CopEntry := { entry0 with valid := true, shape := callShape tiny }
theorem witness_MatrixEngineTakesItsJobs :
    EngineTurn (queued (.call snap0) callState) { job := .call snap0, fp := [], serial := 0 } []
      ∧ (EngineTurn (queued (.calld tiny) (withEntry entry0)) { job := .calld tiny, fp := [], serial := 0 } []
        ∧ (callEnt tiny).toNat < (withEntry entry0).tile.place.ecount ∧ entry0.layer = (tiny.mp[4]).extractLsb' 16 16
        ∧ needBytes (callShape tiny) ≤ entry0.size ∧ modeReason (withEntry entry0).tile tiny entry0 ≠ 0)
      ∧ (modeReason (withEntry entry1).tile tiny entry1 = 0 ∧ scanPoisoned (withEntry entry1).tile.mem tiny = false
        ∧ (scanGroup (withEntry entry1).tile.mem tiny entry1).isSome = true)
      ∧ firstPoison callState.tile.mem 0x1000 (4 * (field (0x1FFFFF000 : Word).toNat 23 12 + 1)) = none
      ∧ cpbindBad (withEntry {}).tile 0x0042000000000000 0x0000100000000000 = false :=
  ⟨turn_of rfl rfl rfl (by decide +kernel), ⟨turn_of rfl rfl rfl (by decide +kernel), by decide +kernel⟩, by decide +kernel, by decide +kernel, by decide +kernel⟩
/-- A Coppice save record's header for `entry0`, read back. -/
def recState : State := onPlace (fun p => { p with ecount := 1, coppice := 8192 }) (onEng (setEnt 0 fun _ => entry0) (paged 7 (on0 id)))
theorem witness_CoppiceRecords :
    storesDone { job := .cpsav 0 0, fp := [], serial := 0, behind := 0 } recState = true ∧ cpEntBad recState.tile 0 = false ∧ (0x100000 : Word).toNat % 256 = 0
      ∧ doneB (overPieces (recordWrite 0x100000 (savedBytes recState.tile { entry0 with size := 256 })) (piecesLeft (1 + 256 / 256) []) []
          (beginHead recState)).1 = true
      ∧ doneB (overPieces (recordRead 0x100000) (piecesLeft 1 []) [] (beginHead recState)).1 = true
      ∧ doneB (overPieces (recordRead 0x100000) (piecesLeft (1 + 256 / 256) (List.replicate 256 0)) (List.replicate 256 0) recState).1 = true
      ∧ storesDone { job := .cprst 0 0, fp := [], serial := 0, behind := 1 } (onEng (fun e => { e with sq := [jdoneEntry 0] }) recState) = false
      ∧ recordTaken recState.tile { entry0 with size := 256 } (ofBytes (toBytes 256 (recordHeader { entry0 with size := 256 }).toNat)) := by
  refine ⟨by decide +kernel, by decide +kernel, by decide, by decide +kernel, by decide +kernel, by decide +kernel, by decide +kernel, ?_⟩
  unfold recordTaken
  decide +kernel

/-! ### Copy jobs, packets, board jobs -/

/-- The card with another direction: 1 S2G, 3 S2S to 0x4000. -/
def cardOf (dir : Nat) : BitVec 512 := BitVec.ofNat 512 (card0.toNat + dir * 2 ^ 53)
def copying (dir leaf : Nat) (st : CState) : State :=
  paged leaf (onEng (fun e => { e with cq := e.cq.set 0 [{ job0 with card := cardOf dir, far := 0x4000, fp := cardRanges card0, st := st }] }) carded)
def copier (dir : Nat) : CJob := { job0 with card := cardOf dir, far := 0x4000, fp := cardRanges card0, st := .running }
/-- Where the next piece of a job stops: moved, failed, or at a page; and how many bytes moved. -/
def moveKind (m : Move) : Nat × Nat :=
  match m with
  | .moved n _ => (0, n)
  | .fail _ _ _ => (1, 0)
  | .stall none _ => (2, 0)
  | .stall (some _) _ => (3, 0)
/-- Whether the next piece is one byte, after which `f` holds of the job and the state. -/
def lastPiece (f : CJob → State → Bool) (j : CJob) (s : State) : Bool :=
  match movePiece 0 j { s with fresh := s.fresh + 1 } with
  | .moved 1 s' => f (pieceDone 1 j) s'
  | _ => false
/-- Every byte written, and the update waiting or not. -/
def ends (held : Bool) (j : CJob) (s : State) : Bool := decide (cardTotal j.card ≤ j.moved ∧ j.packets = 0) && updateHeld s.tile j == held
def nextKind (j : CJob) (s : State) : Nat × Nat := moveKind (movePiece 0 j { s with fresh := s.fresh + 1 })
/-- A job whose next piece is its last is moved whole by any number of pieces. -/
theorem movePieces_last {q : BitVec 2} {n m : Nat} {j : CJob} {s s' : State} (h : j.moved < cardTotal j.card) (e : movePiece q j s = .moved m s')
    (d : cardTotal j.card ≤ j.moved + m) : movePieces q (n + 1) j s = (pieceDone m j, .moved 0 s') := by
  rw [movePieces, if_neg (by omega), e]
  cases n with
  | zero => rfl
  | succ n => simp only [movePieces]; rw [if_pos (by simpa [pieceDone] using d)]
/-- Whatever the number of pieces in a step, a job of one byte moves it, or waits at its page. -/
theorem moves_of {f : CJob → State → Bool} {j : CJob} {s : State} (h : j.moved + 1 = cardTotal j.card) (e : lastPiece f j s = true) :
    ∃ j' s', movePieces 0 (copyFuel s) j { s with fresh := s.fresh + 1 } = (j', .moved 0 s') ∧ f j' s' = true := by
  unfold lastPiece at e
  split at e
  next s' x => exact ⟨_, s', movePieces_last (by omega) x (by omega), e⟩
  next => cases e
theorem stalls_of {j : CJob} {s : State} (h : j.moved < cardTotal j.card) (k : Nat × Nat) (e : nextKind j s = k) (d : k.1 = 2 ∨ k.1 = 3) :
    ∃ page s', movePieces 0 (copyFuel s) j { s with fresh := s.fresh + 1 } = (j, .stall page s') ∧ (page.isSome = decide (k.1 = 3)) := by
  subst e
  unfold nextKind at d ⊢
  cases x : movePiece 0 j { s with fresh := s.fresh + 1 } with
  | moved n s' => rw [x] at d; simp [moveKind] at d
  | fail c y s' => rw [x] at d; simp [moveKind] at d
  | stall page s' => exact ⟨page, s', by rw [copyFuel, movePieces, if_neg (by omega), x], by cases page <;> simp [moveKind]⟩
/-- A running job at the head of queue 0, the job of `card0` with `bits` of its card set behind `n` stores, and one behind a JDONE. -/
def headed (j : CJob) (s : State) : State := onEng (fun e => { e with cq := e.cq.set 0 [j] }) s
def copier' (bits n : Nat) : CJob := { copier 0 with card := BitVec.ofNat 512 (card0.toNat + bits), behind := n }
def flashing : State := headed { copier 0 with far := 0 } (flashed (copying 0 7 .running))
def behind1 (j : CJob) : State := onEng (fun e => { e with sq := [jdoneEntry 0] }) (headed j (copying 0 7 .running))
/-- One packet of an S2T job of tile 0 of the gang, to the tile at (1, 0). -/
def packet0 (x : Nat) : Packet := { src := 1, queue := 0, serial := 0, x := x, y := 0, dx := 1, dy := 0, addr := 0x100, bytes := [7] }
theorem witness_CopyEngineSteps :
    (((queueOf (copying 0 7 .killed).tile 0)[0]?).any (fun j => j.st == .killed && j.packets == 0) = true)
      ∧ (let s := copying 0 7 .waiting
         (queueOf s.tile 0).findIdx? (·.st == .waiting) = some 0 ∧ edgesClear s.tile.eng 0 (cardRanges card0) = true
          ∧ ((queueOf s.tile 0).filter (·.st == .running)).length < 4)
      ∧ ((queueOf (copying 0 7 .running).tile 0)[0]? = some (copier 0) ∧ standing (copier 0).wb = false ∧ relHeld (copying 0 7 .running).tile (copier 0) = false
        ∧ (∀ p ∈ [(copying 0 7 .running, copier 0, ends false), (behind1 (copier' (2 ^ 43 + 2 ^ 52) 1), copier' (2 ^ 43 + 2 ^ 52) 1, ends true),
            (headed (copier 2) (copying 0 7 .running), copier 2, fun j _ => decide (j.packets = 1))],
          ∃ j' s', movePieces 0 (copyFuel p.1) p.2.1 { p.1 with fresh := p.1.fresh + 1 } = (j', .moved 0 s') ∧ p.2.2 j' s' = true)
        ∧ (∃ page s', movePieces 0 (copyFuel (copying 1 15 .running)) (copier 1) { copying 1 15 .running with fresh := (copying 1 15 .running).fresh + 1 }
            = (copier 1, .stall page s') ∧ page.isSome = true)
        ∧ ∃ page s', movePieces 0 (copyFuel flashing) { copier 0 with far := 0 } { flashing with fresh := flashing.fresh + 1 } = ({ copier 0 with far := 0 }, .stall page s') ∧ page.isSome = false)
      ∧ (let j := copier 3
         cardDir j.card = 3 ∧ cardCnt1 j.card = 1 ∧ cardCnt2 j.card = 1 ∧ j.moved < cardLen0 j.card
          ∧ firstPoison (copying 3 7 .running).tile.mem (cardSaddr j.card) (cardLen0 j.card) = none
          ∧ moveKind (movePiece 0 j (copying 3 7 .running)) = (0, 1) ∧ (localHull j.card).2 < ((farBase j.card j.far).toNat + j.moved : Int)
          ∧ Memory.wf (copying 3 7 .running).tile.mem.spad = true)
      ∧ moveKind (movePieces 0 1 (copier 0) (copying 0 0 .running)).2 = (1, 0) ∧ cardTotal (copier 0).card - (copier 0).moved = 1
      ∧ (routeDir 1 1 (packet0 1) = none ∧ overtakes [packet0 1] 0 (packet0 1) = false)
      ∧ routeDir 1 1 (packet0 0) = some .east ∧ neighbour 1 1 0 0 .east = some (1, 0)
      ∧ linkStopped (gang0 fun t => { t with eng := {} }) (gang0 fun t => { t with eng := {} }).tile (packet0 0) 1 0 = false :=
  ⟨by decide +kernel, by decide +kernel, ⟨by decide +kernel, rfl, by decide +kernel, by
      intro p hp
      simp only [List.mem_cons, List.not_mem_nil, or_false] at hp
      obtain rfl | rfl | rfl := hp <;> exact moves_of (by decide +kernel) (by decide +kernel),
    stalls_of (by decide +kernel) (3, 0) (by decide +kernel) (.inr rfl), stalls_of (by decide +kernel) (2, 0) (by decide +kernel) (.inl rfl)⟩, by decide +kernel, by decide +kernel, by decide +kernel, by decide +kernel, by decide +kernel,
    by decide +kernel, by decide +kernel⟩
def boarding (st : BState) : State :=
  onEng (fun e => { e with bq := [{ card := bcard0, cardAddr := 0x80, win := .wait, repair := true, serial := 0, fp := boardFp bcard0 0x80, st := st }] }) carded
theorem witness_BoardJobsArmAndComplete :
    (∀ j ∈ (boarding .waiting).tile.eng.bq, j.st = .waiting ∧ edgesClear (boarding .waiting).tile.eng j.serial j.fp = true)
      ∧ (∀ j ∈ (boarding .waiting).tile.eng.bq, hasStaged j (boarding .waiting).tile.eng = false
        ∧ hasStaged j { (boarding .waiting).tile.eng with stage := [{ addr := 0x400, bytes := [], serial := 0 }] } = true)
      ∧ (stDone ||| stLate).getLsbD 0 = true ∧ stMiss.getLsbD 3 = true := by decide +kernel
/-- The Flume in lap 3 at full pace, 32 positions long, at its last position; and at rest. -/
def half0 : LapHalf := { laplen := 32, pace := 1024, rafts := [], commits := [] }
def flume0 (pos : Nat) (h : LapHalf) : Flume := { steps := 96 + pos, t := pos, pos := pos, laps := [{ lap := 3, start := 96, laplen := 0 }], maps := [(3, h)] }
theorem witness_FlumeSteps :
    laneStepDue (flume0 31 half0) = true ∧ (flume0 31 half0).pos + 1 = topLen (flume0 31 half0) ∧ laneStepDue (flume0 30 half0) = true
      ∧ (flume0 30 half0).pos + 1 ≠ topLen (flume0 30 half0) ∧ laneStepDue (flume0 0 { half0 with pace := 0 }) = false
      ∧ (flume0 0 half0).laps ≠ [] ∧ halfOk half0 = true ∧ namesKept half0 (on0 id) = true ∧ (on0 id).mod.power = .active ∧ topLen (flume0 0 half0) ≠ 0 ∧ topPace (flume0 0 half0) ≠ 0
      ∧ (topLap (flume0 0 half0)).lap < 4 ∧ topPace (flume0 0 { half0 with pace := 0 }) = 0
      ∧ State.reset.mod.power ≠ .active ∧ half0.pace ≠ 0 ∧ half0.laplen ≠ 0 := by decide


/-! ### The tile's own steps, turns -/

/-- Page 7 of the image with its map entry, the counter at its last syllable but one; `leaf` is the map page's mapping. -/
def paging (leaf : Nat) (state : BitVec 2) (pc : Word) : State :=
  paged leaf (on0 fun t => { t with ctl := { t.ctl with pc := pc }
                                    place := { t.place with pages := [{ page := 7, state := state, offset := 0, hash := 0, mapped := some 0x4000 }] } })
def fetchStart (s : State) : Bool :=
  let t := cycleStart s
  s.tile.ctl.run == .running && t.tile.ctl.run == .running && t.tile.ctl.deferred.isEmpty && t.tile.ctl.gacc.isNone && !t.tile.ctl.bubble
    && (innermost t.tile.ctl).isNone
theorem witness_TileSteps :
    isDue { late with ready := 0 } = true
      ∧ (let s := onPlace (fun p => { p with ppmax := 40 }) (ctl0 fun c => { c with frames := [frame0 [nopWord]], wdog := 40 })
         s.tile.ctl.run = .running ∧ s.tile.ctl.gacc = none ∧ s.tile.ctl.bubble = false ∧ s.tile.ctl.deferred = [] ∧ s.tile.ctl.fillLeft = 0
          ∧ fetchBundle s.tile s.tile.ctl.pc = .ok [nopWord] ∧ decodeBundle [nopWord] = .ok [.nop H] ∧ s.tile.place.ppmax ≤ s.tile.ctl.wdog
          ∧ isPoint (bundleOps [nopWord] 0 [.nop H]) = false)
      ∧ (∀ leaf ∈ [7, 0], let s := paging leaf 2 0x7FF8
         s.tile.ctl.run = .running ∧ missingPage s = some (7, 0x7FF8) ∧ ((pageEnt s.tile 7).any fun e =>
          (pageBytes s.tile.place.vd s.tile.place.image e s).1.isSome == decide (leaf = 7)) = true)
      ∧ (fetchStart (paging 7 0 0x100000) = true ∧ 0xFFFFF < (cycleStart (paging 7 0 0x100000)).tile.ctl.pc.toNat)
      ∧ (∀ n ∈ [6, 7], let s := paging 7 0 (BitVec.ofNat 64 (4096 * n))
         let t := cycleStart s
         fetchStart s = true ∧ t.tile.ctl.pc.toNat ≤ 0xFFFFF ∧ frameOf t.tile (t.tile.ctl.pc.toNat / 4096) = none
          ∧ ((pageEnt t.tile (t.tile.ctl.pc.toNat / 4096)).map (·.state)) = if n = 6 then none else some 0)
      ∧ (let s := onCtl (fun c => { c with haltReq := true }) (loading 7)
         s.tile.ctl.run = .running ∧ mayHalt s = true ∧ s.tile.ctl.deferred = [] ∧ s.tile.ctl.gacc.isSome = true)
      ∧ (let s := on0 fun t => { t with ctl := { t.ctl with run := .ended }, place := { t.place with posted := true } }
         s.tile.ctl.run = .ended ∧ queuesEmpty s.tile.eng = true ∧ s.tile.place.posted = true) := by decide +kernel
/-- A tile about to issue the bundle of words `ws`. -/
def issuing (ws : List Word) : State := { ctl0 (fun c => { c with frames := [frame0 ws] }) with agenda := [.issue 0, .serve 0] }
/-- 02 R53's bundle with its guards true. -/
def addVadd : List Word := [0x10008A30E0000000, 0xA020082800201200]
def bundleB (ws : List Word) (is : List Instr) : Bool :=
  let s := issuing ws
  let s2 := cycleStart (focusOn 0 s)
  let s3 := notePages (fetchedPages s2.tile s2.tile.ctl.pc ws.length) s2
  let ops := bundleOps ws 0 is
  let s4 := takeBanks (banksTaken ops s3) s3
  (s.mod.power != .fatal && (focusOn 0 s).tile.ctl.run == .running && s2.tile.ctl.run == .running && s2.tile.ctl.deferred.isEmpty && s2.tile.ctl.gacc.isNone
    && !s2.tile.ctl.bubble && refill s2.tile == none && !mayHalt s3 && decide (s3.tile.ctl.wdog < s3.tile.place.ppmax) && !needsFill is s3.tile.ctl)
    && (!interlocked s4.tile.regs && !isHeld ops s4 && s4.tile.ctl.bankLeft.getD (bankHold ((guarded ops s4).flatMap (·.access s4))) == 0
      && (guarded ops s4).all (fun o => (o.fault5 s4).isNone && (o.fault6 s4).isNone) && (guarded ops s4).length == is.length)
theorem witness_AStepRunsTheDecodedBundle :
    (bundleB addVadd [.add ⟨false, true, 0⟩ 5 (r_ 6) (r_ 7), .vadd H .i16 true K0 4 (r_ 5) ⟨0, true⟩] = true
      ∧ fetchBundle (cycleStart (focusOn 0 (issuing addVadd))).tile (cycleStart (focusOn 0 (issuing addVadd))).tile.ctl.pc = .ok addVadd
      ∧ decodeBundle addVadd = .ok [.add ⟨false, true, 0⟩ 5 (r_ 6) (r_ 7), .vadd H .i16 true K0 4 (r_ 5) ⟨0, true⟩])
      ∧ (bundleB [nopWord] [.nop H] = true ∧ decodeBundle [nopWord] = .ok [.nop H] ∧ (slotOp (.nop H)).isSome = true) := by decide +kernel
def cmd0 (q0 : Word) : Cmd := ⟨q0, 0x200000, 0, 0, 0, 0, 0, 0⟩
theorem witness_TurnsAndClocks :
    (let s := { running { upc := 4095 } with agenda := [.micro 0] }
     s.mod.power ≠ .fatal ∧ runCall (focusOn 0 s).tile.eng = some (snap0, { upc := 4095 })
      ∧ decodeMicro (smGet 0 (focusOn 0 s).tile.mem.rstore 4095) = some .uopEnd)
      ∧ (getVd 0 { on0 id with vds := [(0, { cmdq := [cmd0 1] })] }).cmdq = [cmd0 1]
      ∧ ({ on0 id with agenda := [.health 3], mod := { (on0 id).mod with power := .fatal } }).agenda = [.health 3]
      ∧ Turn.health 3 ≠ .event 0 (.functionLevelReset 0)
      ∧ (let s : State := { on0 id with mod := { power := .recovery, rstat := .accepted } }
         s.agenda = [] ∧ s.mod.power = .recovery ∧ s.mod.rstat = .accepted)
      ∧ clockRuns (on0 id).mod = true ∧ clockRuns { (on0 id).mod with stopped := true } = false
      ∧ (getBind 1 { on0 id with binds := [(1, { state := .running })] }).state = .running
      ∧ 30 ≤ { (on0 id).mod with sub := 26, div := true }.sub + 4 ∧ (on0 id).mod.sub + 2 < 30 := by decide +kernel

/-! ### Translation, storage, records, gangs -/

/-- Device 0 with the objects of `v`, its first gibibyte one page. -/
def dev (v : VDev) (leaf : Nat) (s : State) : State := { paged leaf s with vds := [(0, { v with enabled := true, ptroot := 0x1000 })] }
/-- The same with tables of four levels: the page at 0 is the 4 KiB at 1 GiB of device memory. -/
def deep (v : VDev) (s : State) : State := { dev v 7 s with mem := { s.mem with dmem := deepTable 0x40000007 } }
def skid0 (into : Bool) (stale : Bool) : Skid :=
  { va := 0, pa := 0x10000, size := 4096, into := into, leafPa := 0x4000, leaf := 0x87, gen := 0, bybind := false, ctx := some 1, stale := stale }
def sess0 : Session := { id := 1, base := 0, bytes := 65536, age := 0, gen := 0 }
def leafB (w : Walk × State) (f : TlbEnt → Nat → Bool) : Bool :=
  match w.1 with
  | .leaf e pa _ => f e pa
  | .fail _ => false
/-- An access under way through a translation of the page at 0. -/
def through0 (s : State) : State := onCtl (fun c => { c with gacc := some { load0 with ent := some (leafEnt 0 0 1 0x2000 7) } }) s
def inval (kind : Nat) : InvWait := ⟨⟨BitVec.ofNat 64 kind, 0, 0x3000, 0⟩, 0, false⟩
def invals (kind : Nat) : State := dev { invq := [inval kind] } 7 (on0 id)
def invalB (kind : Nat) : Bool :=
  let x := inval kind
  let s := invals kind
  let t := (sysWrite (invTarget x.desc) (invDone x.desc) (toBytes 8 x.desc.w3.toNat) true
    (invApply x.desc (modVd 0 (fun v => { v with invq := [] }) s))).2
  (getVd 0 s).invq == [x] && invKind x.desc == kind && !accessThrough (invTarget x.desc) (invRange x.desc).1 (invRange x.desc).2 s
    && (getVd (invTarget x.desc) t).snaphold == (getVd (invTarget x.desc) s).snaphold
    && accessThrough (invTarget x.desc) (invRange x.desc).1 (invRange x.desc).2 (through0 s) == decide (kind < 2)
theorem witness_TranslationSteps :
    ((∀ leaf ∈ [7, 0x47], ((getCluster 0 (paged leaf (on0 id))).tlb.find? fun e => e.vd == 0 && e.base ≤ 8 && decide (8 < e.base + e.size)) = none
        ∧ leafB (walk 0 8 (paged leaf (on0 id))) (fun e _ => e.res != 2) = true) ∧ (on0 id).mod.power ≠ .doldrums ∧ (8 : Word).toNat < 0xFFFFC0000000
        ∧ mayRun (getVd 0 (paged 7 (on0 id))) = true)
      ∧ (∀ k ∈ [0, 1, 2], invalB k = true)
      ∧ (let v : VDev := { skid := [skid0 true false, skid0 false false, skid0 true true, skid0 false true], sess := [sess0] }
         (v.skid.map fun k => (k.into, skidCurrent v k)) = [(true, true), (false, true), (true, false), (false, false)]
          ∧ (getVd 0 (dev v 7 (on0 id))).skid = v.skid ∧ accessThrough 0 0 4096 (dev v 7 (on0 id)) = false
          ∧ accessThrough 0 0 4096 (through0 (dev v 7 (on0 id))) = true
          ∧ (v.skid.find? fun k => k.into && skidCurrent v k && decide (k.va ≤ 4095 ∧ 4095 < k.va + k.size)) = some (skid0 true false))
      ∧ (let s := deep { sess := [sess0] } (on0 id)
         ((getVd 0 s).sess.find? fun y => y.id.toNat == 1 && decide (y.base ≤ 4095 ∧ 4095 < y.base + y.bytes)) = some sess0
          ∧ pageCold (getVd 0 s) sess0 0 4096 s.mod.time = true ∧ (getVd 0 s).tstate ≠ .error ∧ ringFull 0 3 1 s = false ∧ s.mod.power ≠ .doldrums
          ∧ leafB (walk 0 4095 s) (fun e pa => e.res == 0 && decide (e.size ≤ 65536) && !(getVd 0 s).skid.any (·.leafPa == pa)
              && decide (4096 * handleFor e.size (walk 0 4095 s).2 + e.size ≤ flashBytes) && !meetsScopes (walk 0 4095 s).2 e.addr e.size
              && e.base == 0 && e.size == 4096 && ownable e.addr e.size) = true
          ∧ ({ on0 id with mod := { power := .doldrums } } : State).mod.power = .doldrums) := by decide +kernel
def rec0 (drops : Bool) : Rec := { slots := [1], drops := drops }
/-- A ring of 16 slots whose header is at 0x40, `used` slots in use; queue 0 is not set, queue 3 is the same ring. -/
def ringed (used : Nat) (drops : Bool) : State :=
  let eq : Vector EqReg 4 := #v[{}, { raw := 0x44 }, {}, { raw := 0x44 }]
  let s := dev { eq := eq, recs := #v[[rec0 drops], [rec0 drops], [], []] } 7 { on0 id with mod := { power := .active, healthDue := [3] } }
  { s with mem := { s.mem with hmem := writeB 0x40 4 used [] } }
theorem witness_RecordsAndSnapshots :
    (∀ d ∈ [false, true], ∀ u ∈ [15, 16],
      let s := ringed u d
      let v := getVd 0 s
      v.recs[1] = [rec0 d] ∧ v.tstate ≠ .error ∧ ringSet v.eq[1] = true ∧ v.recs[0] = [rec0 d] ∧ ringSet v.eq[0] = false
        ∧ decide (ringUsed (ringHeader v.eq[1]) s + 1 ≤ 2 ^ ringK v.eq[1]) = decide (u ≤ 15)
        ∧ s.mod.healthDue.contains 3 = true ∧ s.mod.healthDue.contains 4 = false ∧ ringFull 0 3 1 s = decide (15 < u))
      ∧ atomicOut 0 (through0 (dev {} 7 (on0 id))) = true ∧ atomicOut 0 (dev {} 7 (on0 id)) = false
      ∧ (snapDue { snap := 1 } 1 = true ∧ ({} : VDev).tstate ≠ .error ∧ ([⟨1, []⟩, ⟨2, []⟩] : List Snap).length = 2
        ∧ ([⟨1, []⟩] : List Snap).length < 2) := by
  decide +kernel
/-- An image of one cluster, without sections, data or routines. -/
def image0 : Image :=
  { handle := 0, addr := 0, len := 0, digest := 0, head := 0, secs := [], w := 1, h := 1, ppmax := 1, lat := Vector.replicate 16 1, cpages := 0
    entries := 0, pinned := 0, st := 0, pages := [], points := [], spans := [], slots := [], rentry := [], scopeAt := 0, sched := [], data := []
    rafts := [] }
def vjob (slot : Option Nat) : Job :=
  { gen := 0, image := 0, jcb := 0x8000, mbox := 0x9000, save := 0x10000, deadline := 0, nd := false, cp := false, la := false, slot := slot }
def quota0 : Quota := { raw := BitVec.ofNat 256 (2 ^ 126 + 2 ^ 133 + 2 ^ 186 + 2 ^ 199 + 2 ^ 208) }
/-- A device with one image and one stream whose job holds `slot`. -/
def tenant (slot : Option Nat) : VDev := { quota := quota0, images := [image0], streams := [{ num := 5, prio := 0, jobs := [vjob slot] }] }
def bind0 (st : BindState) : Bind := { mbox := 0x9000, jcb := 0x8000, save := 0x10000, stream := 5, state := st }
def bound0 (b : Bind) : State := { dev (tenant (some 0)) 0x47 (on0 id) with binds := [(0, b)] }
def startsB (s : State) : Bool :=
  match startCause (bind0 .bound) image0 s with
  | (none, s) => (sysRead 0 0x9000 512 s).1.isSome
      && (getVd 0 (firstTotal (bind0 .bound) (sysRead 0 0x9000 512 s).2)).snaphold == (getVd 0 (sysRead 0 0x9000 512 s).2).snaphold
  | _ => false
/-- A job of priority 3 for the whole die is ready beside the gang of slot 0. -/
def contended (b : Bind) (f : Flume) : State :=
  let v := tenant (some 0)
  let v := { v with images := image0 :: [{ image0 with handle := 1, w := 8, h := 8 }]
                    streams := v.streams ++ [{ num := 6, prio := 3, jobs := [{ vjob none with image := 1, prio := 3 }] }] }
  { dev v 0x47 (on0 id) with binds := [(0, b)], flume := f }
def bigJob : Ready := { vd := 0, stream := 6, gen := 0, prio := 3, served := 0, w := 8, h := 8, slot := none, due := none }
theorem witness_GangsAreBoundStartedAndHalted :
    (let s := { dev (tenant none) 0x47 (on0 id) with mod := { power := .calm, time := 1 } }
     let q : Ready := { vd := 0, stream := 5, gen := 0, prio := 0, served := 0, w := 1, h := 1, slot := none, due := none }
     mayRun (getVd 0 s) = true ∧ ((getVd 0 s).streams.find? (·.num == 5)) = some { num := 5, prio := 0, jobs := [vjob none] }
      ∧ readyOf 0 { num := 5, prio := 0, jobs := [vjob none] } s = some q ∧ headJob { num := 5, prio := 0, jobs := [vjob none] } = some (vjob none)
      ∧ imageOf 0 0 s = some image0 ∧ inGrid 7 7 q.w q.h = true ∧ powered s.mod = true ∧ admitted s q = true ∧ mayChoose s q = true
      ∧ (getBind 63 s).state = .empty ∧ (vjob none).agedAt.toNat + qSlice (getVd 0 s) ≤ s.mod.time.toNat)
      ∧ (let s := bound0 (bind0 .bound)
         (getBind 0 s).state = .bound ∧ (getBind 0 s).resume = false ∧ s.mod.power = .active ∧ mayRun (getVd 0 s) = true
          ∧ regionFree (bind0 .bound) s = true ∧ imageOf 0 0 s = some image0 ∧ namesStand s.flume 0 image0 = true ∧ startsB s = true)
      ∧ (let s := bound0 (bind0 .running)
         (getBind 0 s).state = .running ∧ (getBind 0 s).haltBy = none ∧ preemptors 0 s = [])
      ∧ (∀ f ∈ [({} : Flume), flume0 0 half0], ∀ p ∈ [false, true],
          preemptors 0 (contended { bind0 .running with planned := p, haltBy := if p then some 9 else none } f) = [bigJob])
      ∧ (topLen ({} : Flume) = 0 ∧ topLen (flume0 0 half0) ≠ 0)
      ∧ (∀ due ∈ [0, 1], let s := bound0 { bind0 .running with haltBy := some due }
         (getBind 0 s).haltBy = some due ∧ preemptors 0 s = [] ∧ decide (due ≤ s.mod.time.toNat) = decide (due = 0))
      ∧ (let b := { bind0 .running with yielded := true }
         sliceOver b (bound0 b).mod.time = true ∧ wanted (sliceDone 0 (bound0 b)) 0 b b.base = none
          ∧ ∀ la ∈ [false, true], ∀ f ∈ [({} : Flume), flume0 0 half0],
            wanted (sliceDone 0 (contended { b with la := la } f)) 0 { b with la := la } b.base = some bigJob) := by decide +kernel
/-- A halting gang whose first tile is in state `r`. -/
def halted (r : RunState) (b : Bind) : State := onCtl (fun c => { c with run := r }) (bound0 b)
/-- What its clusters choose where the arriving job is due at `due`. -/
def chosen (r : RunState) (due : Option Nat) : List Choice :=
  (choices 0 (halted r { bind0 .halting with due := due })).map (·.2)
def savesB (b : Bind) : Bool :=
  let s1 := overTiles ((upTo 8).map (tileOf b)) recordCopies (halted .ended b)
  (upTo 8).all (fun k => drainedTile s1 (tileOf b k))
    && doneB (saveAll (saveHints 0 b) b (releasePins 0 (overTiles ((upTo 8).map (tileOf b)) (settle b.cp) s1)))
/-- A saved gang of eight ended tiles in host memory, its records of length 0 pages. -/
def savedArea (s : State) : State := { s with mem := { s.mem with hmem := [(0x10000, 1), (0x11002, 1)] } }
def resumesB (b : Bind) (s : State) : Bool :=
  let hints := saveHints 0 b
  match readPieces 0 hints 16 b.save [] s with
  | .done hdr s1 =>
    let h := ofBytes (hdr.take 32)
    hdrW h == b.w && hdrH h == b.h && shapeAdmitted (getVd b.vd s1) b.w b.h && field h 7 0 == 1 && field h 63 56 == b.vd.toNat
      && field h 127 96 == b.image.toNat &&
      (match readRecords hints b (field h 49 40) (upTo 8) [] s1 with
       | .ok (some _, s2) => doneB (readPieces 0 hints 2 b.mbox [] s2)
       | _ => false)
  | _ => false
theorem witness_GangsAreSavedDiscardedAndResumed :
    (∀ r ∈ [RunState.ended, .stopped], (getBind 0 (halted r (bind0 .halting))).decided = false
        ∧ ∀ p ∈ gangTiles (bind0 .halting), (getTile p (halted r (bind0 .halting))).ctl.run ≠ .running
            ∧ (getTile p (halted r (bind0 .halting))).ctl.trapped = none)
      ∧ chosen .ended none = [.drain] ∧ chosen .stopped none = [.save] ∧ chosen .stopped (some 3999) = [.discard]
      ∧ (∃ p ∈ gangTiles (bind0 .halting), (getTile p (halted .ended (bind0 .halting))).ctl.run ≠ .free)
      ∧ (getTile 0 (halted .running (bind0 .halting))).ctl.run = .running
      ∧ (let s := onCtl (fun c => { c with trapped := some (1, 0) }) (halted .stopped (bind0 .halting))
         0 ∈ gangTiles (bind0 .halting) ∧ (getTile 0 s).ctl.trapped.isSome = true)
      ∧ (let b := { bind0 .halting with decided := true, discard := true }
         ∀ p ∈ heldTiles 0 (halted .stopped b), enginesStopped ((heldTiles 0 (halted .stopped b)).foldl (fun s p => unlinkRecs b.vd p s)
          (overTiles (heldTiles 0 (halted .stopped b)) discardTile (halted .stopped b))) p = true)
      ∧ (let b := { bind0 .bound with resume := true }
         let s := savedArea (bound0 b)
         (getBind 0 s).resume = true ∧ s.mod.power = .active ∧ mayRun (getVd 0 s) = true ∧ regionFree b s = true
          ∧ imageOf 0 0 s = some image0 ∧ clusterOf (tileAt b 0 0) = 0 ∧ resumesB b s = true) := by
  decide +kernel
theorem witness_GangsAreSaved : savesB { bind0 .halting with decided := true } = true := by decide +kernel

/-! ### Commands -/

/-- A command word: opcode, completion word at 0x200000, operands. -/
def cmd (op : Nat) (q2 q3 q4 q5 q6 : Word) : Cmd := ⟨BitVec.ofNat 64 (op + 0x200000 * 2 ^ 16), 9, q2, q3, q4, q5, q6, 0⟩
def heardB (c : Cmd) (masks : List (BitVec 64)) (zeroOnly : Bool) (s : State) : Bool :=
  let r := sysOk 0 (cmdDone c) 16 false true s
  (getVd 0 s).tstate != .error && r.1 && cmdResult 0 c r.2 == none && cmdClean c masks && (zeroOnly || (getVd 0 r.2).tstate != .locked)
/-- The state in which a command that is heard acts. -/
def heardIn (c : Cmd) (s : State) : State := (sysOk 0 (cmdDone c) 16 false true s).2
theorem heard_of {c : Cmd} {masks : List (BitVec 64)} {z : Bool} {s : State} (e : heardB c masks z s = true) : Heard 0 c masks z s (heardIn c s) := by
  simp only [heardB, Bool.and_eq_true, bne_iff_ne, ne_eq, beq_iff_eq] at e
  obtain ⟨⟨⟨⟨a, b⟩, f⟩, c⟩, d⟩ := e
  refine ⟨a, Prod.ext b rfl, f, c, ?_⟩
  cases z <;> simp_all [heardIn]
/-- Whether a device write is not held: the device's SNAPHOLD does not move. -/
def freely (s u : State) : Bool := (getVd 0 u).snaphold == (getVd 0 s).snaphold
theorem witness_ImageStreamAndJobCommands :
    (let c := cmd 1 0 1 0 0 0
     let t := heardIn c (dev (tenant none) 0x47 (on0 id))
     heardB c [allOnes64, allOnes64] false (dev (tenant none) 0x47 (on0 id)) = true ∧ (getVd 0 t).quota.raw ≠ 0
      ∧ (sysOk 0 0 1 true false t).1 = true ∧ (sysRead 0 0 1 (sysOk 0 0 1 true false t).2).1.isSome = true ∧ (sysOk 0 0x40000000 1 true false t).1 = false)
      ∧ (let c := cmd 2 0 0 0 0 0
         heardB c [0xFFFFFFFF] false (dev (tenant none) 0x47 (on0 id)) = true
          ∧ ((getVd 0 (heardIn c (dev (tenant none) 0x47 (on0 id)))).images.any fun i => i.handle == 0 && !i.retired) = true)
      ∧ (let c := cmd 3 6 0 0 0 0
         let v := getVd 0 (heardIn c (dev { quota := quota0 } 0x47 (on0 id)))
         heardB c [0x7FFFF] false (dev { quota := quota0 } 0x47 (on0 id)) = true ∧ v.quota.raw ≠ 0 ∧ v.streams.any (·.num == 6) = false
          ∧ field (6 : Word).toNat 18 16 ≤ qPmax v ∧ (v.streams.filter (! ·.closed)).length < qStreams v)
      ∧ (let c := cmd 4 5 0 0 0 0
         let s := dev { streams := [{ num := 5, prio := 0 }] } 0x47 (on0 id)
         heardB c [0xFFFF] false s = true ∧ openStreamOf (getVd 0 (heardIn c s)) 5 = some { num := 5, prio := 0 })
      ∧ (let c := cmd 5 0x70005 0xFFFFFFFFFFE0 0xFFFFFFFFFFC0 0xFFFFFFFFF000 7
         let s := dev (tenant none) 0x47 (on0 id)
         heardB c [0xFFFFFFFF0007FFFF, allOnes64, allOnes64, allOnes64, 0xFFFFFFFF] false s = true
          ∧ (openStreamOf (getVd 0 (heardIn c s)) 5).isSome = true ∧ ((getVd 0 (heardIn c s)).images.any fun i => i.handle == 0 && !i.retired) = true
          ∧ (0xFFFFFFFFFFE0 : Word).toNat % 32 = 0 ∧ (0xFFFFFFFFFFC0 : Word).toNat % 64 = 0 ∧ (0xFFFFFFFFF000 : Word).toNat % 4096 = 0)
      ∧ (let c := cmd 6 0x3F00000005 7 0 0 0
         let s := dev (tenant (some 0)) 0x47 (on0 id)
         heardB c [0x3FFFFFFFFF, allOnes64] false s = true ∧ knownJob (getVd 0 (heardIn c s)) c = some (vjob (some 0))
          ∧ freely (heardIn c s) (mailWrite 0 0 63 7 (heardIn c s)).2 = true)
      ∧ (let c := cmd 7 5 0 0 0 0
         let s := dev (tenant none) 0x47 (on0 id)
         heardB c [0xFFFFFFFF] false s = true ∧ knownJob (getVd 0 (heardIn c s)) c = some (vjob none)
          ∧ (match jcbUpdate (jobJcb 0 5 (vjob none)) 0 1 (heardIn c s) with | .done _ => true | _ => false) = true)
      ∧ (let c := cmd 7 5 0 0 0 0
         let s := dev { tenant none with snap := 1, snaps := [⟨1, []⟩] } 7 (on0 id)
         heardB c [0xFFFFFFFF] false s = true ∧ knownJob (getVd 0 (heardIn c s)) c = some (vjob none)
          ∧ (match jcbUpdate (jobJcb 0 5 (vjob none)) 0 1 (heardIn c s) with | .held _ => true | _ => false) = true)
      ∧ heardB (cmd 0x47 0 0 0 0 0) [] true (dev {} 0x47 (on0 id)) = true := by decide +kernel
def absent0 : PageEnt := { page := 7, state := 0, offset := 0, hash := 0 }
theorem witness_ReplyPageAndContextCommands :
    (let s := bound0 { bind0 .saved with await := true, pages := [absent0] }
     (∀ k ∈ ([0, 1, 2] : List Nat), heardB (cmd 8 (BitVec.ofNat 64 (5 + 2 ^ 32 * k)) 1 2 0 0) replyMasks false s = true)
      ∧ (let t := heardIn (cmd 8 5 1 2 0 0) s
         knownJob (getVd 0 t) (cmd 8 5 1 2 0 0) = some (vjob (some 0)) ∧ (endJob 0 5 (vjob (some 0)) t).isSome = true ∧ (getBind 0 t).state = .saved ∧ (getBind 0 t).resumable = true
          ∧ (getBind 0 t).await = true)
      ∧ (let c := cmd 9 0x700000005 0x1000 0 0 0
         heardB c [0xFFFFFFFFFF, allOnes64] false s = true ∧ (getBind 0 (heardIn c s)).pages.find? (·.page == 7) = some absent0
          ∧ (sysRead 0 0x1000 4096 (heardIn c s)).1.isSome = true)
      ∧ (let c := cmd 10 0x700000005 0x1000 8 0 0
         heardB c [0xFFFFFFFFFF, allOnes64, allOnes64] false s = true ∧ imageOf 0 0 (heardIn c s) = some image0
          ∧ (sysOk 0 0x1000 8 true false (heardIn c s)).1 = true ∧ (sysRead 0 0x1000 8 (sysOk 0 0x1000 8 true false (heardIn c s)).2).1.isSome = true)
      ∧ reloadDiffers image0 image0 [] 7 = none ∧ image0.head ≠ { image0 with head := 1 }.head)
      ∧ (let c := cmd 11 0x100000001 0 65536 0 0
         let s := dev { quota := quota0 } 7 (on0 id)
         heardB c sessionMasks false s = true ∧ (getVd 0 (heardIn c s)).sess = [] ∧ 0 < qSessions (getVd 0 (heardIn c s))
          ∧ (deviceResident 0 0 65536 (heardIn c s)).1 = true)
      ∧ (let c := cmd 11 1 0 0 0 0
         let s := dev { sess := [sess0] } 7 (on0 id)
         heardB c sessionMasks false s = true ∧ (getVd 0 (heardIn c s)).sess.any (·.id == 1) = true)
      ∧ (let s := dev { snaps := [⟨1, []⟩] } 0x47 (on0 id)
         let c := cmd 12 1 0x3000 0x5000 0 0
         heardB c [0xFFFFFFFF, allOnes64, allOnes64] false s = true ∧ (getVd 0 (heardIn c s)).snaps.any (·.num == 1) = true
          ∧ (match granuleAt 0 1 0x3000 (heardIn c s) with
            | (some bs, u) => (sysWrite 0 0x5000 bs true u).1 && freely u (sysWrite 0 0x5000 bs true u).2
            | _ => false) = true
          ∧ (getVd 0 (heardIn (cmd 13 1 0 0 0 0) s)).cmdBusy = []
          ∧ heardB (cmd 13 1 0 0 0 0) [0xFFFFFFFF] false s = true ∧ (getVd 0 (heardIn (cmd 13 1 0 0 0 0) s)).snaps.any (·.num == 1) = true) := by
  decide +kernel
/-- Whether a command's write of `bs` at `a` lands where the command is heard. -/
def storesB (c : Cmd) (a : Nat) (f : State → List Byte) (s : State) : Bool :=
  let t := heardIn c s
  let r := sysWrite 0 a (f t) true t
  r.1 && freely t r.2
/-- Whether QUOTA, ENROLL, POOL and ACCESS for target `g` are heard. -/
def managesB (g : Nat) (s : State) : Bool :=
  heardB (cmd 0x40 (BitVec.ofNat 64 g) 0 0 0 0) (recordMasks 0xFF) true s
    && heardB (cmd 0x41 (BitVec.ofNat 64 (0x300 + g)) 1 2 3 4) (recordMasks 0x3FF) true s
    && heardB (cmd 0x42 (BitVec.ofNat 64 g) 0x40000000 0x10000 0 0) [0xFF, allOnes64, allOnes64] true s
    && heardB (cmd 0x46 (BitVec.ofNat 64 g) 0x1FFFF 0 0 0) [0xFF, 0x1FFFF] true s
theorem witness_ManagementCommands :
    (let c := cmd 0x40 0 0 0 (2 ^ 36 + 2 ^ 27) 0
     let s := bound0 (bind0 .running)
     heardB c (recordMasks 0xFF) true s = true ∧ quotaOk (cmdRecord c) = true ∧ frozen (getVd 0 (heardIn c s)) = false
      ∧ (getVd (cmdTarget c) (heardIn c s)).enabled = true ∧ (getVd (cmdTarget (cmd 0x40 9 0 0 0 0)) (heardIn c s)).enabled = false
      ∧ overQuota 0 { getVd 0 (heardIn c s) with quota := { raw := cmdRecord c } } (heardIn c s) = [0]
      ∧ overQuota 0 { getVd 0 (heardIn c (on0 id)) with quota := { raw := cmdRecord c } } (heardIn c (on0 id)) = [])
      ∧ (let s := dev {} 0x47 (on0 id)
         (managesB 0 s = true ∧ managesB 9 s = true)
          ∧ poolOk 0 0x40000000 0x10000 (heardIn (cmd 0x42 0 0x40000000 0x10000 0 0) s) = true
          ∧ (getVd 0 (heardIn (cmd 0x46 0 0x1FFFF 0 0 0) s)).models.contains ((0x1FFFF : Word).extractLsb' 0 16) = false
          ∧ heardB (cmd 0x45 0x1FF0003 0 0 0 0) [0x1FFFF03] true s = true
          ∧ (heardB (cmd 0x43 0x6000 0 0 0 0) [allOnes64] true s = true ∧ storesB (cmd 0x43 0x6000 0 0 0 0) 0x6000 slotTable s = true)
          ∧ (let c := cmd 0x44 0x6000 0x7FFFFFFF 1 0 0
             heardB c [allOnes64, allOnes64, allOnes64] true s = true
              ∧ storesB c 0x6000 (fun t => readList t.mem.dmem (254 * 2 ^ 30 + 0x7FFFFFFF) 1) s = true
              ∧ (let t := devTouch 0 (254 * 2 ^ 30 + 0x7FFFFFFF) 1 (heardIn c s)
                 let r := sysWrite 0 0x6000 [0] true t
                 (r.1 && freely t r.2) = true))) := by
  decide +kernel

/-! ### Interfaces, attestation, the module, frames -/

theorem witness_InterfaceSteps :
    (let s := dev { tstate := .locked, quota := quota0 } 0x47 (on0 id)
     (getVd 0 s).enabled = true ∧ barOpen s.mod = true ∧ frozen (getVd 0 s) = true ∧ frozen (getVd 0 (dev {} 0x47 (on0 id))) = false
      ∧ (getVd 0 s).tstate ≠ .error ∧ (getVd 0 s).cmdq.length < 16)
      ∧ (let s := { on0 id with vds := [(1, { enabled := true }), (2, { enabled := true, quota := quota0 })] }
         (getVd 1 s).enabled = true ∧ (getVd 1 s).quota.raw = 0 ∧ (1 : BitVec 8) ≠ 0 ∧ (0x78 < 0x80 ∧ 0xC0 ≤ 0xC0)
          ∧ (getVd 2 s).quota.raw ≠ 0 ∧ frozen (getVd 2 s) = false)
      ∧ ¬((0 : BitVec 8) = 0 ∧ (on0 id).mod.power = .fatal) ∧ (255 ≤ 255 ∧ barOpen (on0 id).mod = true) ∧ (getVd 7 (on0 id)).enabled = false
      ∧ (on0 id).mod.power ≠ .recovery ∧ barOpen { power := .starting } = false
      ∧ (let s := dev {} 0x47 (on0 id)
         windowOpen (getVd 0 (wake s)) 8 4 = true ∧ (sysRead 0 8 4 (wake s)).1.isSome = true ∧ (sysOk 0 8 4 false true (wake s)).1 = true
          ∧ barOpen s.mod = true ∧ barOpen { power := .recovery } = false)
      ∧ (let s := dev {} 0x47 { on0 id with mod := { power := .doldrums } }
         (getVd 0 (wake s)).tstate ≠ .error ∧ barOpen s.mod = true ∧ (getVd 0 s).enabled = true ∧
         ∀ k ∈ [(0, true), (1, true), (2, true), (4, false)], let d : InvDesc := ⟨BitVec.ofNat 64 k.1, 0, 0x3000, 0⟩
          invKind d = k.1 % 4 ∧ invBad 0 d = !k.2 ∧ (sysOk (invTarget d) (invDone d) 8 false true (wake s)).1 = true) := by decide +kernel
/-- A virtual function 1 with a connection in session. -/
def spdm (v : VDev) : State :=
  { dev {} 0x47 (on0 id) with
    vds := [(1, { v with enabled := true })]
    doe := { versioned := true, capable := true, negotiated := true, asym := true, session := true } }
theorem witness_AttestationSteps :
    (∀ x ∈ [TState.unlocked, .locked, .run, .error], (spdm { tstate := x }).doe.session = true ∧ (getVd 1 (wake (spdm { tstate := x }))).enabled = true
        ∧ (getVd 1 (wake (spdm { tstate := x }))).tstate = x)
      ∧ (getVd 2 (wake (spdm {}))).enabled = false
      ∧ lockRefused 1 (wake (spdm { quota := quota0 })) = false ∧ frozen { tstate := .run } = true ∧ (1 : BitVec 8) ≠ 0
      ∧ (spdm {}).doe.versioned = true ∧ (spdm {}).doe.capable = true ∧ (spdm {}).doe.negotiated = true ∧ (spdm {}).doe.asym = true
      ∧ (on0 id).doe.negotiated = false ∧ (on0 id).doe.asym = false ∧ (1 ≤ 1 ∧ 5 ≤ 5)
      ∧ (spdm {}).mod.power ≠ .starting ∧ (on0 id).mod.power ≠ .starting ∧ State.reset.mod.power = .starting := by
  decide +kernel
theorem interval_le (n : BitVec 64) : n.toNat ≤ ((0xFFFFFFFFFFFFFFFF : Word) - 0).toNat := by
  have := n.isLt
  show n.toNat ≤ 18446744073709551615
  omega
/-- A module whose last bind or wake was 2^64 − 1 ticks ago. -/
def aged0 (p : Power) (entering : Bool) : State := { State.reset with mod := { power := p, entering := entering, time := 0xFFFFFFFFFFFFFFFF } }
theorem calm_le (m : Mod) : calmTicks m ≤ ((0xFFFFFFFFFFFFFFFF : Word) - 0).toNat := interval_le _
theorem doldrums_le (m : Mod) : doldrumsTicks m ≤ ((0xFFFFFFFFFFFFFFFF : Word) - 0).toNat := interval_le _
def fed (r : RStat) : Mod := { power := .recovery, rstat := r, rlen := 8 }
def peered : State := { dev { pairs := #v[none, none, none, some 9] } 0x47 (on0 id) with links := #v[{}, {}, {}, { up := true }] }
def placeB (a n : Nat) (f : Change) : Bool := (sysPart 0 a n true true false f (wake peered)).1.isSome
theorem witness_ModuleAndPeerSteps :
    State.reset.mod.power = .starting
      ∧ ((aged0 .active false).mod.power = .active ∧ anyHeld (aged0 .active false) = false
        ∧ calmTicks (aged0 .active false).mod ≤ ((aged0 .active false).mod.time - (aged0 .active false).mod.idleSince).toNat)
      ∧ (∀ e ∈ [false, true], (aged0 .calm e).mod.power = .calm ∧ quiet (aged0 .calm e) = true ∧ (aged0 .calm e).mod.entering = e
        ∧ doldrumsTicks (aged0 .calm e).mod ≤ ((aged0 .calm e).mod.time - (aged0 .calm e).mod.calmSince).toNat)
      ∧ ((aged0 .doldrums false).mod.power = .doldrums ∧ (aged0 .calm true).mod.entering = true ∧ (aged0 .calm false).mod.entering = false)
      ∧ mayChange { time := 10000, changed := some 0 } = true ∧ mayChange { time := 9999, changed := some 0 } = false
      ∧ ({ stopped := true, div := true } : Mod).stopped = true ∧ ({ div := true } : Mod).stopped = false ∧ ({ div := true } : Mod).hot = false ∧ ({} : Mod).div = false
      ∧ (place0 fun p => { p with slot := some 0 }).tile.place.slot.isSome = true
      ∧ (fed .receiving).rbuf.length < (fed .receiving).rlen.toNat
      ∧ (∀ r ∈ [RStat.waiting, .receiving, .verifying, .refused, .accepted], (fed r).rstat = r ∧ (fed r).power = .recovery)
      ∧ (peered.links[3].up = true ∧ peered.links[2].up = false ∧ pairedWith 3 9 (wake peered) = some 0 ∧ (getVd 0 (wake peered)).tstate ≠ .error
          ∧ (sysRead 0 8 4 (wake peered)).1.isSome = true ∧ (sysOk 0 8 4 false true (wake peered)).1 = true
          ∧ (8 : Word).toNat % 8 = 0 ∧ placeB 8 4 (fun old => some (toBytes 4 (amoValue .add (8 * 4) (ofBytes old) ((7 : Word).toNat % 256 ^ 4)))) = true
          ∧ placeB 8 8 (fun old => if ofBytes old = (0 : Word).toNat % 256 ^ 8 then some (toBytes 8 ((7 : Word).toNat % 256 ^ 8)) else none) = true) := by
  refine ⟨rfl, ⟨rfl, rfl, calm_le _⟩, ?_, ⟨rfl, rfl, rfl⟩, by decide, by decide, rfl, rfl, rfl, rfl, rfl, by decide, by decide, by decide +kernel⟩
  intro e _
  cases e <;> exact ⟨rfl, rfl, rfl, doldrums_le _⟩
theorem witness_ResultSyllablesChangeNothingElse :
    (scalarRule (on0 id) (.add H 1 (r_ 2) (r_ 3))).isSome = true ∧ (laneRule (on0 id) (.vadd H .i16 true K0 4 (r_ 5) (r_ 6))).isSome = true
      ∧ (pairRule (on0 id) (.cmpi H .lt 4 5 (r_ 6) 0)).isSome = true ∧ (vectorRule (on0 id) (.kop H .and 1 2 3)).isSome = true
      ∧ storesTile (.kop H .and 1 2 3) = false ∧ (on0 id).tile.regs.inflight = [] ∧ innermost (on0 id).tile.ctl = none := by decide +kernel
theorem witness_StoresChangeOnlyTheirBytes :
    (∀ i ∈ [Instr.sts H .w4 1 (r_ 2) 0, .stp H .w4 1 0, .vst H .i8 0 1 2 0], storesTile i = true)
      ∧ storedSpad (on0 id) (.sts H .w4 1 (r_ 2) 0) ≠ [] ∧ (storedSpill (.stp H .w4 1 0)).isSome = true
      ∧ (vmemRule (on0 id) (.vst H .i8 0 1 2 0)).isSome = true
      ∧ (slotOp (.add H 1 (r_ 2) (r_ 3))).isSome = true ∧ storesTile (.add H 1 (r_ 2) (r_ 3)) = false := by decide +kernel
theorem witness_SyllablesKeepMemoriesCanonical : tileMemWf (mem0 fun m => { m with spad := [(2097151, 5)] }).tile.mem = true := by decide +kernel
theorem witness_StoredBytesReadBack : Memory.wf [(0, 5), (2097151, 7)] = true := by decide
/-- After reset every turn names a tile of the die. -/
theorem reset_sound : Sound State.reset := show State.reset.agenda.all turnOk = true by decide

end Sys2Proof.Tests.Slice0
end

section
/-! Proofs for 00_scope.md: what is stored in a byte memory reads back (R6), and when the results of general registers
land (R11, R44, R49). First what a sparse table and a register file read after a write, then the two statements. -/

namespace Sys2Proof.Proofs

open Sys2Proof Sys2Proof.Machine Sys2Proof.Safety Sys2Proof.Laws

/-! ## What a sparse table reads after a change of one entry -/

section Tables

variable {α : Type} {d : α}

theorem smGet_of_above {k : Nat} {m : SMap α} (h : Above k m) : smGet d m k = d := by
  induction m with
  | nil => rfl
  | cons x t ih =>
    have hx : k < x.1 := h x List.mem_cons_self
    have ht : Above k t := fun y hy => h y (List.mem_cons_of_mem x hy)
    rw [smGet, if_neg (by omega), ih ht]

theorem smGet_smSet (k : Nat) (v : α) (m : SMap α) (j : Nat) : smGet d (smSet k v m) j = if j = k then v else smGet d m j := by
  induction m with
  | nil => simp [smSet, smGet, eq_comm]
  | cons x t ih =>
    simp only [smSet]
    split
    · simp [smGet, eq_comm]
    · split <;> grind [smGet]

/-- In canonical form no key is listed twice, so that one deleted reads the default. -/
theorem smGet_smDel [DecidableEq α] {m : SMap α} (h : smWf d m = true) (k j : Nat) :
    smGet d (smDel k m) j = if j = k then d else smGet d m j := by
  induction m with
  | nil => simp [smDel, smGet]
  | cons x t ih =>
    obtain ⟨-, hx, ht⟩ := smWf_cons.mp h
    have hd : smGet d t x.1 = d := smGet_of_above hx
    simp only [smDel]
    split <;> grind [smGet]

theorem smGet_smPut [DecidableEq α] {m : SMap α} (h : smWf d m = true) (k : Nat) (v : α) (j : Nat) :
    smGet d (smPut d k v m) j = if j = k then v else smGet d m j := by
  unfold smPut
  split
  · next hv => rw [smGet_smDel h, hv]
  · exact smGet_smSet k v m j

end Tables

/-! ## Bytes stored and read back (R6) -/

theorem smGet_putB {m : SMap Byte} (h : Memory.wf m = true) (a : Nat) (b : Byte) (j : Nat) :
    smGet 0 (putB a b m) j = if j = a then b else smGet 0 m j := smGet_smPut h a b j

theorem smGet_writeList_outside {a b : Nat} {bs : List Byte} {m : SMap Byte} (h : Memory.wf m = true)
    (hb : b < a ∨ a + bs.length ≤ b) : smGet 0 (writeList a bs m) b = smGet 0 m b := by
  induction bs generalizing a m with
  | nil => rfl
  | cons x bs ih =>
    rw [List.length_cons] at hb
    rw [writeList, ih (putB_wf h) (by omega), smGet_putB h, if_neg (by omega)]

theorem readList_writeList {m : SMap Byte} (h : Memory.wf m = true) (a : Nat) (bs : List Byte) :
    readList (writeList a bs m) a bs.length = bs := by
  induction bs generalizing a m with
  | nil => rfl
  | cons x bs ih =>
    have head : smGet 0 (writeList (a + 1) bs (putB a x m)) a = x := by
      rw [smGet_writeList_outside (putB_wf h) (by omega), smGet_putB h, if_pos rfl]
    rw [List.length_cons, readList, writeList, head, ih (putB_wf h)]

@[simp] theorem length_readList (m : SMap Byte) (a n : Nat) : (readList m a n).length = n := by
  induction n generalizing a with
  | zero => rfl
  | succ n ih => simp [readList, ih]

@[simp] theorem length_toBytes (n v : Nat) : (toBytes n v).length = n := by
  induction n generalizing v with
  | zero => rfl
  | succ n ih => simp [toBytes, ih]

theorem getElem?_readList (m : SMap Byte) {a n k : Nat} (hk : k < n) : (readList m a n)[k]? = some (smGet 0 m (a + k)) := by
  induction n generalizing a k with
  | zero => omega
  | succ n ih =>
    cases k with
    | zero => rfl
    | succ k => rw [readList, List.getElem?_cons_succ, ih (by omega), Nat.add_right_comm, Nat.add_assoc]

theorem getElem?_toBytes {n k : Nat} (v : Nat) (hk : k < n) : (toBytes n v)[k]? = some (BitVec.ofNat 8 (v / 256 ^ k)) := by
  induction n generalizing v k with
  | zero => omega
  | succ n ih =>
    cases k with
    | zero => simp [toBytes]
    | succ k => rw [toBytes, List.getElem?_cons_succ, ih _ (by omega), Nat.div_div_eq_div_mul, ← Nat.pow_succ']

theorem ofBytes_toBytes (n v : Nat) : ofBytes (toBytes n v) = v % 256 ^ n := by
  induction n generalizing v with
  | zero => simp [toBytes, ofBytes, Nat.mod_one]
  | succ n ih => rw [toBytes, ofBytes, ih, Nat.pow_succ', Nat.mod_mul, BitVec.toNat_ofNat]

theorem ofBytes_readList (m : SMap Byte) (a n : Nat) : ofBytes (readList m a n) = readB m a n := by
  induction n generalizing a with
  | zero => rfl
  | succ n ih => rw [readList, ofBytes, ih, readB]

/-- A number is stored as the list of its low bytes. -/
theorem writeList_toBytes (a n v : Nat) (m : SMap Byte) : writeList a (toBytes n v) m = writeB a n v m := by
  induction n generalizing a v m with
  | zero => rfl
  | succ n ih => rw [toBytes, writeList, ih, writeB]

theorem readList_writeB {m : SMap Byte} (h : Memory.wf m = true) (a n v : Nat) : readList (writeB a n v m) a n = toBytes n v := by
  simpa [writeList_toBytes] using readList_writeList h a (toBytes n v)

theorem readB_writeB {m : SMap Byte} (h : Memory.wf m = true) (a n v : Nat) : readB (writeB a n v m) a n = v % 256 ^ n := by
  rw [← ofBytes_readList, readList_writeB h, ofBytes_toBytes]

theorem smGet_writeB_inside {m : SMap Byte} (h : Memory.wf m = true) (a v : Nat) {n k : Nat} (hk : k < n) :
    smGet 0 (writeB a n v m) (a + k) = BitVec.ofNat 8 (v / 256 ^ k) := by
  rw [← Option.some.injEq, ← getElem?_readList _ hk, readList_writeB h, getElem?_toBytes v hk]

theorem smGet_writeB_outside {m : SMap Byte} (h : Memory.wf m = true) (v : Nat) {a n b : Nat} (hb : b < a ∨ a + n ≤ b) :
    smGet 0 (writeB a n v m) b = smGet 0 m b := by
  rw [← writeList_toBytes, smGet_writeList_outside h (by simpa using hb)]

/-- Settles O58: a store is one of the list of its bytes, which reads back byte by byte. -/
theorem storedBytesReadBack : Obligations.StoredBytesReadBack := by
  intro m a n v bs h
  exact ⟨readB_writeB h a n v, fun _ hk => smGet_writeB_inside h a v hk, fun _ hb => smGet_writeB_outside h v hb,
    readList_writeList h a bs, fun _ hb => smGet_writeList_outside h hb, ofBytes_readList m a n, ofBytes_toBytes n v⟩

/-! ## General registers and the hard-wired ones (R44, R105) -/

@[simp] theorem readG_zero (r : Regs) : readG r 0 = 0 := rfl
@[simp] theorem readK_zero (r : Regs) : readK r 0 = BitVec.allOnes 256 := rfl
@[simp] theorem readP_zero (t : Tile) : readP t 0 = true := rfl
@[simp] theorem setG_zero (v : Word) (r : Regs) : setG 0 v r = r := rfl
@[simp] theorem readG_inflight (r : Regs) (ps : List Pending) (d : Reg) : readG { r with inflight := ps } d = readG r d := rfl

theorem setPred_of_lt {n : BitVec 5} (h : n.toNat < 3) (c : Bool) (p : BitVec 32) : setPred n c p = p := if_pos h

theorem readG_setG_same {d : Reg} (h : d ≠ 0) (v : Word) (r : Regs) : readG (setG d v r) d = v := by
  simp only [readG, setG, if_neg h, Vector.getElem_set_self]

/-! ## Landing (R49) -/

theorem readG_landOne_same {p : Pending} {d : Reg} {v : Word} (hp : p.res = .g d v) (hd : d ≠ 0) (r : Regs) :
    readG (landOne r p) d = v := by
  have h : readG (landOne r p) d = readG (setG d v r) d := by simp only [landOne, hp]; rfl
  rw [h, readG_setG_same hd]

/-- `n` counted cycles take `n` off every latency left. -/
theorem iterate_countCycle (n : Nat) (r : Regs) :
    countCycle^[n] r = { r with inflight := r.inflight.map fun p => { p with due := p.due - n, ready := p.ready - n } } := by
  induction n with
  | zero => simp
  | succ n ih => simp [Function.iterate_succ_apply', ih, countCycle, Nat.sub_sub]

theorem interlocked_of_waiting {r : Regs} (h : ∀ p ∈ r.inflight, p.due ≠ 0) : interlocked r = false := by
  simpa [interlocked] using fun p hp h0 => absurd h0 (h p hp)

/-- While every declared latency still runs nothing lands. -/
theorem landDue_of_waiting {r : Regs} (h : ∀ p ∈ r.inflight, p.due ≠ 0) : landDue r = r := by
  have none_due : ∀ p ∈ r.inflight, isDue p = false := fun p hp => by simp [isDue, h p hp]
  have h1 : r.inflight.filter isDue = [] := by simpa using none_due
  have h2 : (r.inflight.filter fun p => !isDue p) = r.inflight := by simpa using none_due
  rw [landDue, interlocked_of_waiting h, h1, h2]
  rfl

/-- Where every result is due, they all land in slot order. -/
theorem landDue_of_allDue {r : Regs} (h : ∀ p ∈ r.inflight, isDue p = true) :
    landDue r = (inSlotOrder r.inflight).foldl landOne { r with inflight := [] } := by
  have hl : interlocked r = false := by
    have ready : ∀ p ∈ r.inflight, p.ready = 0 := fun p hp => by
      have due : p.due = 0 ∧ p.ready = 0 := by simpa [isDue] using h p hp
      exact due.2
    simpa [interlocked] using fun p hp _ => ready p hp
  have h1 : r.inflight.filter isDue = r.inflight := by simpa using h
  have h2 : (r.inflight.filter fun p => !isDue p) = [] := by simpa using h
  rw [landDue, hl, h1, h2]
  rfl

/-- Two results of different slot classes land the lower first, whichever issued first. -/
theorem inSlotOrder_pair {p q : Pending} (h : p.slot < q.slot) (hq : q.slot ≤ 3) :
    inSlotOrder [p, q] = [p, q] ∧ inSlotOrder [q, p] = [p, q] := by
  have hp : p.slot = 0 ∨ p.slot = 1 ∨ p.slot = 2 := by omega
  have hq : q.slot = 1 ∨ q.slot = 2 ∨ q.slot = 3 := by omega
  rcases hp with hp | hp | hp <;> rcases hq with hq | hq | hq <;> simp [inSlotOrder, hp, hq] at h ⊢

/-- Of two due results for `d` the one of the higher slot class is kept. -/
theorem readG_landDue_pair {r : Regs} {p q : Pending} {d : Reg} {w : Word} (hr : r.inflight = [p, q] ∨ r.inflight = [q, p])
    (hp : isDue p = true) (hq : isDue q = true) (hs : p.slot < q.slot) (hq3 : q.slot ≤ 3) (hd : d ≠ 0) (hw : q.res = .g d w) :
    readG (landDue r) d = w := by
  obtain ⟨rising, falling⟩ := inSlotOrder_pair hs hq3
  have all_due : ∀ x ∈ r.inflight, isDue x = true := by rcases hr with hr | hr <;> simp [hr, hp, hq]
  have order : inSlotOrder r.inflight = [p, q] := by rcases hr with hr | hr <;> rw [hr] <;> assumption
  rw [landDue_of_allDue all_due, order]
  exact readG_landOne_same hw hd _

/-- A result for a general register that enters a tile with none in flight, after `n` counted cycles. -/
theorem inflight_countCycle_toG {s : State} (h : s.tile.regs.inflight = []) (cls n : Nat) (d : Reg) (v : Word) :
    countCycle^[n] (toG 0 cls d v s).tile.regs
      = { s.tile.regs with inflight := [⟨.g d v, declared s.tile cls - n, fk9Cycles cls - n, 0, 0⟩] } := by
  simp [iterate_countCycle, toG, pushRes, pushAt, h]

theorem due_ne_zero_before_landing {s : State} {cls n : Nat} (h : s.tile.regs.inflight = []) (hn : n < declared s.tile cls)
    (d : Reg) (v : Word) : ∀ p ∈ (countCycle^[n] (toG 0 cls d v s).tile.regs).inflight, p.due ≠ 0 := by
  have left : declared s.tile cls - n ≠ 0 := by omega
  simpa [inflight_countCycle_toG h] using left

theorem readG_before_landing {s : State} {cls n : Nat} (h : s.tile.regs.inflight = []) (hn : n < declared s.tile cls) (d : Reg)
    (v : Word) : readG (landDue (countCycle^[n] (toG 0 cls d v s).tile.regs)) d = readG s.tile.regs d := by
  rw [landDue_of_waiting (due_ne_zero_before_landing h hn d v), inflight_countCycle_toG h, readG_inflight]

theorem readG_at_landing {s : State} {cls n : Nat} {d : Reg} (h : s.tile.regs.inflight = []) (hd : d ≠ 0)
    (hn : declared s.tile cls ≤ n) (hf : fk9Cycles cls ≤ n) (v : Word) :
    readG (landDue (countCycle^[n] (toG 0 cls d v s).tile.regs)) d = v := by
  have due : declared s.tile cls - n = 0 ∧ fk9Cycles cls - n = 0 := by omega
  rw [inflight_countCycle_toG h, landDue_of_allDue (by simpa [isDue] using due)]
  exact readG_landOne_same rfl hd _

theorem interlocked_at_landing {s : State} {cls n : Nat} (h : s.tile.regs.inflight = []) (hn : declared s.tile cls ≤ n)
    (hf : n < fk9Cycles cls) (d : Reg) (v : Word) : interlocked (countCycle^[n] (toG 0 cls d v s).tile.regs) = true := by
  have late : declared s.tile cls - n = 0 ∧ fk9Cycles cls - n ≠ 0 := by omega
  simpa [inflight_countCycle_toG h, interlocked] using late

/-- Settles O6, from what a result in flight does before and at its landing, and the slot order of a pair. -/
theorem resultsLandAtTheDeclaredLatency : Obligations.ResultsLandAtTheDeclaredLatency := by
  refine ⟨?_, ?_⟩
  · intro s cls n d v h hd _
    exact ⟨fun hn => ⟨interlocked_of_waiting (due_ne_zero_before_landing h hn d v), readG_before_landing h hn d v⟩,
      fun hn hf => readG_at_landing h hd hn.ge hf v, fun hn hf => interlocked_at_landing h hn.ge hf d v⟩
  · intro t r p q d v w c m x
    refine ⟨readG_zero r, readP_zero t, readK_zero r, setG_zero v r, rfl, ?_, ?_⟩
    · intro a b ha hb
      simp only [applyResult, setPred_of_lt ha, setPred_of_lt hb]
    · intro hr hp hq _ hw hs hq3
      split
      · next hd => rw [hd, readG_zero]
      · next hd => exact readG_landDue_pair hr hp hq hs hq3 hd hw

end Sys2Proof.Proofs
end

section
/-! Proofs for 01_machine.md: the machine right after its reset, and its run (R12, R13, R28, R29, R37). -/

namespace Sys2Proof.Proofs

open Sys2Proof Sys2Proof.Machine Sys2Proof.Safety Sys2Proof.Laws

/-! ## Right after reset -/

@[simp] theorem getTile_reset (p : Nat) : getTile p State.reset = {} := by
  unfold getTile
  split <;> rfl

theorem getVd_reset (vd : BitVec 8) : getVd vd State.reset = if vd = 0 then { enabled := true } else {} := by
  have zero : (0 = vd.toNat) ↔ vd = 0 := by rw [BitVec.toNat_eq]; exact eq_comm
  simp [getVd, State.reset, smGet, zero]

/-- While no lane step has happened no lap but lap 0 has reached a tile. -/
theorem lapOf_of_idle {f : Flume} (hs : f.steps = 0) (hl : topLen f = 0) (p : Nat) : lapOf f p = 0 := by
  have still : laneStepDue f = false := by simp [laneStepDue, hl]
  simp [lapOf, still, hs]

/-- Settles O59, from what each tile, device and the Flume are right after reset. -/
theorem resetState : Obligations.ResetState := by
  refine ⟨rfl, rfl, lapOf_of_idle rfl rfl, rfl, fun _ => rfl, fun p => ?_, rfl, rfl, Tests.Slice0.reset_sound, reset_memory_wf.1, fun vd => ?_⟩
  · rw [getTile_reset]
    exact ⟨rfl, rfl, rfl⟩
  · rw [getVd_reset]
    split
    · next h => exact ⟨(decide_eq_true h).symm, rfl⟩
    · next h => exact ⟨(decide_eq_false h).symm, rfl⟩

/-! ## The turns to come name tiles of the die -/

theorem turnOk_of_inputTurn {m : Mod} {x : Nat × Instr} {t : Turn} (h : inputTurn m x = some t) : turnOk t = true := by
  unfold inputTurn at h
  split at h
  · cases h
  · next onDie =>
    have tile : x.1 < dieTiles := by
      simp only [Bool.or_eq_true, decide_eq_true_eq, not_or] at onDie
      omega
    split at h
    · cases h
      exact decide_eq_true tile
    · split at h
      · cases h
      · cases h
        exact decide_eq_true tile

/-- Every turn that a boundary draws names a tile of the die. -/
theorem turnOk_of_mem_cycleTurns {s : State} {t : Turn} (h : t ∈ cycleTurns s) : turnOk t = true := by
  simp only [cycleTurns, List.mem_append] at h
  obtain (((start | due) | input) | command) | compute := h
  · simp only [startTurns, List.mem_ite_nil_right, List.mem_singleton] at start
    rw [start.2]
    rfl
  · simp only [dueTurns, List.mem_append, List.mem_map] at due
    obtain (⟨_, _, rfl⟩ | ⟨_, _, rfl⟩) | ⟨_, _, rfl⟩ := due <;> rfl
  · obtain ⟨x, -, hx⟩ := List.mem_filterMap.mp input
    exact turnOk_of_inputTurn hx
  · obtain ⟨_, _, rfl⟩ := List.mem_map.mp command
    rfl
  · simp only [computeTurns, List.mem_ite_nil_right, List.mem_append, List.mem_map, List.mem_singleton] at compute
    obtain ⟨-, ⟨p, hp, rfl⟩ | rfl⟩ := compute
    · exact decide_eq_true (List.mem_range.mp (List.mem_filter.mp hp).1)
    · rfl

theorem nextCycle_sound (s : State) : Sound (nextCycle s) := List.all_eq_true.mpr fun _ => turnOk_of_mem_cycleTurns

/-! ## What a turn asks, where no fatal error stands -/

section

variable {s : State} {p : Nat}

theorem takeTurn_of_fatal {t : Turn} (h : standsFatal t s.mod = true) : takeTurn t s = .done s := if_pos h

theorem takeTurn_issue (h : standsFatal (.issue p) s.mod = false) (hp : p < dieTiles) :
    takeTurn (.issue p) s = .run .bundleIssue (focusOn p s) := by simp [takeTurn, h, hp]

theorem takeTurn_micro (h : standsFatal (.micro p) s.mod = false) (hp : p < dieTiles) :
    takeTurn (.micro p) s = microTurn (focusOn p s) := by simp [takeTurn, h, hp]

theorem takeTurn_serve {vd : BitVec 8} (h : standsFatal (.serve vd) s.mod = false) : takeTurn (.serve vd) s = serveTurn vd s := by
  simp [takeTurn, h]

theorem takeTurn_event {i : Instr} (h : standsFatal (.event p i) s.mod = false) (hp : p < dieTiles) :
    takeTurn (.event p i) s = .run i (focusOn p s) := by simp [takeTurn, h, hp]

theorem takeTurn_health (h : standsFatal (.health p) s.mod = false) : takeTurn (.health p) s = .done (healthRecord p s) := by
  simp [takeTurn, h]

theorem follow_microTurn_next (s : State) : ∃ u, follow (microTurn s) = .next u := by
  unfold microTurn
  split
  · exact ⟨_, rfl⟩
  · split
    · exact exec_next _ _
    · exact ⟨_, rfl⟩

theorem follow_serveTurn_next (vd : BitVec 8) (s : State) : ∃ u, follow (serveTurn vd s) = .next u := by
  unfold serveTurn
  split
  · exact ⟨_, rfl⟩
  · exact exec_next _ _

/-- A turn that names a tile of the die answers a next state. -/
theorem follow_takeTurn_next {t : Turn} (ht : turnOk t = true) (s : State) : ∃ u, follow (takeTurn t s) = .next u := by
  cases h : standsFatal t s.mod with
  | true => exact ⟨s, by rw [takeTurn_of_fatal h]; rfl⟩
  | false =>
    cases t with
    | issue p => rw [takeTurn_issue h (of_decide_eq_true ht)]; exact exec_next .bundleIssue _
    | micro p => rw [takeTurn_micro h (of_decide_eq_true ht)]; exact follow_microTurn_next _
    | serve vd => rw [takeTurn_serve h]; exact follow_serveTurn_next vd s
    | event p i => rw [takeTurn_event h (of_decide_eq_true ht)]; exact exec_next _ _
    | health u => rw [takeTurn_health h]; exact ⟨_, rfl⟩

end

/-- Settles O60: the boundary draws sound turns, and a turn taken leaves those that were to come. -/
theorem everyStepGoesOn : Obligations.EveryStepGoesOn := by
  intro s hs
  unfold step
  unfold Sound at hs
  split
  · exact ⟨_, rfl, nextCycle_sound s⟩
  · next t rest agenda =>
    rw [agenda, List.all_cons, Bool.and_eq_true] at hs
    obtain ⟨u, hu⟩ := follow_takeTurn_next hs.1 s
    exact ⟨{ u with agenda := rest }, by rw [hu]; rfl, hs.2⟩

end Sys2Proof.Proofs
end

section
/-! Proofs for 01_machine.md: LDS and STS inside the program area (R34, R192, R205, R290), END, TRAP and YIELD (R16, R92, R99, R100). -/

namespace Sys2Proof.Proofs

open Sys2Proof Sys2Proof.Machine Sys2Proof.Safety Sys2Proof.Laws

/-! ## Scratchpad accesses that nothing refuses -/

theorem Width.size_pos (w : Width) : 0 < Width.size w := by cases w <;> decide

theorem spadFault_of_inReach {t : Tile} {a : Word} {n al : Nat} (h : InReach t a n al) (elem : Nat) : spadFault t a n al elem = none := by
  obtain ⟨aligned, inside⟩ := h
  simp [spadFault, aligned, inProg, inside]

theorem poisonFault_of_clean {t : Tile} {a n : Nat} (h : firstPoison t.mem a n = none) : poisonFault t a n = none := by
  unfold poisonFault
  split
  · rfl
  · rw [h]

theorem poisonFault_of_poisoned {t : Tile} {a n b : Nat} (hn : 0 < n) (h : firstPoison t.mem a n = some b) :
    poisonFault t a n = some (poisonAt b) := by
  rw [poisonFault, if_neg (by omega), h]
  rfl

/-- A syllable that would issue but for a fault of step 6 takes it. -/
theorem run_of_fault6 {o : SlotOp} {s : State} {f : TFault} (r : Ready o.hdr (o.access s) s) (f5 : o.fault5 s = none) (w : o.wait s = false)
    (g : o.again s = false) (f6 : o.fault6 s = some f) : o.run s = .next (takeFault f s) := by
  have hf : o.fpHeld s = false := r.free
  have hg := guarded_one_on r.guard
  have hn : bankCycle [o] 0 s = takeFault f s := by simp [bankCycle, hg, firstOf, firstFault, f6, g]
  have hb := r.banks
  cases hl : s.tile.ctl.bankLeft with
  | some n =>
    obtain rfl : n = 0 := by simpa [hl] using hb
    simp [SlotOp.run, issueOps, r.settled, hl, hn]
  | none =>
    replace hb : bankHold (o.access s) = 0 := by simpa [hl] using hb
    simp [SlotOp.run, issueOps, r.settled, hl, hg, firstOf, firstFault, f5, isHeld, hf, w, hb, hn]

/-- A syllable at its boundary takes a fault of step 5, which no check of it acts before. -/
theorem run_of_fault5 {o : SlotOp} {s : State} {f : TFault} (j : Judged o.hdr s) (f5 : o.fault5 s = some f) (a : o.judge s = s) :
    o.run s = .next (takeFault f s) := by
  have hg := guarded_one_on j.guard
  simp [SlotOp.run, issueOps, j.settled, j.fresh, hg, firstOf, firstFault, f5, judged, a]

/-- Settles O16: the address checks pass, and of a load the poison marks alone decide. -/
theorem scratchpadLoadsAndStores : Obligations.ScratchpadLoadsAndStores := by
  intro s h w r base disp a n reach
  have aligned : spadFault s.tile a n n 0 = none := spadFault_of_inReach reach 0
  refine ⟨fun ready clean => ?_, fun b ready poisoned => ?_, fun ready => ?_⟩
  · exact run_of_plain (o := ldsOp h w r base disp) ready rfl aligned rfl (poisonFault_of_clean clean) fun _ => rfl
  · exact run_of_fault6 (o := ldsOp h w r base disp) ready aligned rfl rfl (poisonFault_of_poisoned (Width.size_pos w) poisoned)
  · exact run_of_plain (o := stsOp h w r base disp) ready rfl aligned rfl rfl fun _ => rfl

end Sys2Proof.Proofs
end

section
/-! Proofs for 01_machine.md: END, TRAP and YIELD (R16, R92, R99, R100, R325), from what the taking of faults leaves of a tile that no longer
issues. -/

namespace Sys2Proof.Proofs

open Sys2Proof Sys2Proof.Machine Sys2Proof.Safety Sys2Proof.Laws

/-! ## The other tiles of a gang -/

theorem modTile_tile_of_ne {p : Nat} {s : State} (h : p ≠ s.cur) (f : Tile → Tile) : (modTile p f s).tile = s.tile := by
  rw [modTile, setTile, if_neg h]

theorem overTiles_tile_of_ne {ps : List Nat} {s : State} (h : ∀ p ∈ ps, p ≠ s.cur) (f : Tile → Tile) : (overTiles ps f s).tile = s.tile := by
  induction ps generalizing s with
  | nil => rfl
  | cons p ps ih =>
    rw [List.forall_mem_cons] at h
    rw [show overTiles (p :: ps) f s = overTiles ps f (modTile p f s) from rfl, ih (by rw [modTile_cur]; exact h.2),
      modTile_tile_of_ne h.1]

theorem recordFault_tile_of_ne {p : Nat} {s : State} (h : p ≠ s.cur) (f : TFault) : (recordFault p s f).tile = s.tile := by
  simp only [recordFault, modBindOf_tile]
  rw [modTile_tile_of_ne (by exact h), queueRec_tile]

theorem recordFaults_tile_of_ne {p : Nat} (fs : List TFault) {s : State} (h : p ≠ s.cur) :
    (fs.foldl (recordFault p) s).tile = s.tile := by
  induction fs generalizing s with
  | nil => rfl
  | cons f fs ih => rw [List.foldl_cons, ih (by rwa [recordFault_cur]), recordFault_tile_of_ne h]

theorem recordPendings_tile_of_ne {ps : List Nat} {s : State} (h : ∀ p ∈ ps, p ≠ s.cur) : (ps.foldl recordPending s).tile = s.tile := by
  induction ps generalizing s with
  | nil => rfl
  | cons p ps ih =>
    rw [List.forall_mem_cons] at h
    rw [List.foldl_cons, ih (by rw [recordPending, recordFaults_cur]; exact h.2), recordPending, recordFaults_tile_of_ne _ h.1]

theorem recordPendings_cur (ps : List Nat) (s : State) : (ps.foldl recordPending s).cur = s.cur := by
  induction ps generalizing s with
  | nil => rfl
  | cons p ps ih => rw [List.foldl_cons, ih, recordPending, recordFaults_cur]

/-- The halt of the other tiles leaves the tile in focus. -/
@[simp] theorem haltOthers_tile_eq (s : State) : (haltOthers s).tile = s.tile := by
  have others : ∀ p ∈ (ownGang s).filter (· ≠ s.cur), p ≠ s.cur := fun p hp => by simpa using (List.mem_filter.mp hp).2
  unfold haltOthers
  simp only
  split
  · rw [overTiles_tile_of_ne (by rwa [recordPendings_cur]), recordPendings_tile_of_ne others]
  · exact overTiles_tile_of_ne others _

@[simp] theorem modOwnBind_tile (f : Bind → Bind) (s : State) : (modOwnBind f s).tile = s.tile := modBindOf_tile _ _ _

/-! ## Faults taken by a tile that no longer issues -/

/-- What the record of a fault writes to the tile that raised it. -/
def marked (f : TFault) (t : Tile) : Tile :=
  { t with ctl := { t.ctl with fltcode := f.code, fltaddr := f.addr, faulted := true, deferred := [] } }

theorem recordFault_own (s : State) (f : TFault) : (recordFault s.cur s f).tile = marked f s.tile := by
  simp [recordFault, modBindOf_tile, modTile, setTile, getTile, marked]

section

variable {β : Type} {g : Tile → β}

theorem recordFaults_of_halted (hm : ∀ f t, g (marked f t) = g t) (fs : List TFault) {s : State} (h : s.tile.ctl.run ≠ .running) :
    (fs.foldl (recordFault s.cur) s).tile.ctl.run ≠ .running ∧ g (fs.foldl (recordFault s.cur) s).tile = g s.tile := by
  induction fs generalizing s with
  | nil => exact ⟨h, rfl⟩
  | cons f fs ih =>
    have one := recordFault_own s f
    have rest := ih (s := recordFault s.cur s f) (by rw [one]; exact h)
    rw [recordFault_cur, one, hm] at rest
    exact rest

/-- A tile that takes faults once it no longer issues keeps what neither the marks of a fault nor an abandoned phase change. -/
theorem takeFaults_tile_of_halted (hm : ∀ f t, g (marked f t) = g t) (ha : ∀ t, g (abandonPhase t) = g t) (fs : List TFault)
    {s : State} (h : s.tile.ctl.run ≠ .running) : g (takeFaults fs s).tile = g s.tile := by
  unfold takeFaults
  split
  · rfl
  · obtain ⟨halted, kept⟩ := recordFaults_of_halted hm fs h
    rw [onTile_tile, haltOthers_tile_eq, stopTile, if_neg halted, ha, kept]

end

/-! ## The drain of a halt -/

theorem foldl_landOne_inflight (ps : List Pending) (r : Regs) : (ps.foldl landOne r).inflight = r.inflight := by
  induction ps generalizing r with
  | nil => rfl
  | cons p ps ih =>
    rw [List.foldl_cons, ih]
    cases h : p.res <;> simp only [landOne, h, applyResult, setG] <;> split <;> rfl

theorem landByReady_inflight (n : Nat) (r : Regs) : (landByReady n r).inflight = [] := by
  induction n generalizing r with
  | zero => simp [landByReady, foldl_landOne_inflight]
  | succ n ih =>
    unfold landByReady
    simp only
    split
    · next empty => exact List.isEmpty_iff.mp empty
    · exact ih _

/-- After the drain of a halt no result is in flight. -/
@[simp] theorem drainResults_inflight (r : Regs) : (drainResults r).inflight = [] := landByReady_inflight 32 r

/-! ## END and TRAP -/

/-- A tile that has executed END: it has ended, with no loop level active and no result in flight. -/
def EndedClean (t : Tile) : Prop := t.ctl.run = .ended ∧ t.ctl.loops = Vector.replicate 6 {} ∧ t.regs.inflight = []

theorem leaveIfEnded_tile (s : State) : (leaveIfEnded s).tile = s.tile := by
  unfold leaveIfEnded
  split
  · exact modOwnBind_tile _ _
  · rfl

theorem endTile_clean (s : State) : EndedClean (endTile s).tile := by
  simp only [endTile, leaveIfEnded_tile, takePending]
  rw [takeFaults_tile_of_halted (g := EndedClean) (fun _ _ => rfl) (fun _ => rfl) _ (by simp)]
  exact ⟨rfl, rfl, drainResults_inflight _⟩

/-- A tile that a TRAP at `pc` has stopped, its program counter at `next`. -/
def TrappedAt (pc next : Word) (t : Tile) : Prop := t.ctl.run = .stopped ∧ t.ctl.fltcode = 0x0A ∧ t.ctl.fltaddr = pc ∧ t.ctl.pc = next

/-- A tile that waits to post its trap record, or has posted it. -/
theorem postTrap_trappedAt {pc next : Word} {code : BitVec 16} {s : State} (h : TrappedAt pc next s.tile)
    (w : s.tile.ctl.trapped = some (code, pc)) : TrappedAt pc next (postTrap s).tile := by
  unfold postTrap
  split
  · simp only [postTrapNow, w, modOwnBind_tile, haltOthers_tile_eq]
    exact ⟨h.1, rfl, rfl, h.2.2.2⟩
  · exact h

theorem trapTile_trappedAt (pc : Word) (code : BitVec 16) (s : State) :
    TrappedAt pc s.tile.ctl.pc (trapTile pc code s).tile := by
  have kept := takeFaults_tile_of_halted (g := fun t => (t.ctl.run, t.ctl.pc)) (fun _ _ => rfl) (fun _ => rfl)
    (deferredOrder (onTile haltTile s).tile.ctl.deferred) (s := onTile haltTile s) (by simp [haltTile])
  obtain ⟨run, pcKept⟩ := Prod.mk.inj kept
  exact postTrap_trappedAt ⟨run, rfl, rfl, pcKept⟩ rfl

theorem emptyBuffer_keeps {β : Type} (g : Ctl → β) (h : ∀ c : Ctl, g { c with loopBuf := [] } = g c) (c : Ctl) : g (emptyBuffer c) = g c := by
  unfold emptyBuffer
  split
  · rfl
  · exact h c

@[simp] theorem endCycle_run (p : Bool) (i s : State) : (endCycle p i s).tile.ctl.run = s.tile.ctl.run :=
  emptyBuffer_keeps Ctl.run (fun _ => rfl) _
@[simp] theorem endCycle_loops (p : Bool) (i s : State) : (endCycle p i s).tile.ctl.loops = s.tile.ctl.loops :=
  emptyBuffer_keeps Ctl.loops (fun _ => rfl) _
@[simp] theorem endCycle_pc (p : Bool) (i s : State) : (endCycle p i s).tile.ctl.pc = s.tile.ctl.pc :=
  emptyBuffer_keeps Ctl.pc (fun _ => rfl) _
@[simp] theorem endCycle_fltcode (p : Bool) (i s : State) : (endCycle p i s).tile.ctl.fltcode = s.tile.ctl.fltcode :=
  emptyBuffer_keeps Ctl.fltcode (fun _ => rfl) _
@[simp] theorem endCycle_fltaddr (p : Bool) (i s : State) : (endCycle p i s).tile.ctl.fltaddr = s.tile.ctl.fltaddr :=
  emptyBuffer_keeps Ctl.fltaddr (fun _ => rfl) _
@[simp] theorem endCycle_regs (p : Bool) (i s : State) : (endCycle p i s).tile.regs = countCycle s.tile.regs := rfl

theorem endCycle_endedClean {p : Bool} {i s : State} (h : EndedClean s.tile) : EndedClean (endCycle p i s).tile := by
  simpa [EndedClean, countCycle] using h

theorem endCycle_trappedAt {p : Bool} {i s : State} {pc next : Word} (h : TrappedAt pc next s.tile) :
    TrappedAt pc next (endCycle p i s).tile := by
  simpa [TrappedAt] using h

/-- Settles O23: END and TRAP act after the program counter has moved, on what the taking of faults leaves. -/
theorem endTrapAndYield : Obligations.EndTrapAndYield := by
  intro s h code
  have phase : inPhase s = true → phaseFault s = some (illegal s) := fun inside => if_pos inside
  have clear : inPhase s = false → phaseFault s = none := fun outside => if_neg (by simp [outside])
  refine ⟨fun j inside => ⟨?_, ?_⟩, fun ready => ⟨fun outside => ?_, fun outside => ?_, ?_⟩⟩
  · exact run_of_fault5 (o := endTaskOp h) j (phase inside) rfl
  · exact run_of_fault5 (o := trapOp h code) j (phase inside) rfl
  · have issue := run_of_ready (o := endTaskOp h) ready (clear outside) rfl rfl
    rw [show ((endTaskOp h).hdr.pp || (endTaskOp h).point) = h.pp from Bool.or_false _] at issue
    exact ⟨_, issue, rfl, endCycle_endedClean (endTile_clean _)⟩
  · have issue := run_of_ready (o := trapOp h code) ready (clear outside) rfl rfl
    rw [show ((trapOp h code).hdr.pp || (trapOp h code).point) = h.pp from Bool.or_false _] at issue
    exact ⟨_, issue, rfl, endCycle_trappedAt (trapTile_trappedAt _ code _)⟩
  · exact run_of_plain (o := yieldOp h) ready rfl rfl rfl rfl fun _ => rfl

end Sys2Proof.Proofs
end

section
/-! Proofs for 01_machine.md: landing, watchdog, page-in, FETCH faults, halt and freeing of a tile (R16, R49, R68, R69, R77, R80). -/

namespace Sys2Proof.Proofs

open Sys2Proof Sys2Proof.Machine Sys2Proof.Safety Sys2Proof.Laws

/-! ## Landing -/

theorem inSlotOrder_singleton (p : Pending) : inSlotOrder [p] = [p] := by
  obtain h | h | h | h : p.slot = 0 ∨ p.slot = 1 ∨ p.slot = 2 ∨ 2 < p.slot := by omega
  · simp [inSlotOrder, h]
  · simp [inSlotOrder, h]
  · simp [inSlotOrder, h]
  · have not_low : p.slot ≠ 0 ∧ p.slot ≠ 1 ∧ p.slot ≠ 2 := by omega
    simp [inSlotOrder, h, not_low]

theorem landDue_singleton {r : Regs} {p : Pending} (hr : r.inflight = [p]) (due : isDue p = true) :
    landDue r = landOne { r with inflight := [] } p := by
  rw [landDue_of_allDue (by simpa [hr] using due), hr, inSlotOrder_singleton]
  rfl

theorem onRegs_congr {f g : Regs → Regs} {s : State} (h : f s.tile.regs = g s.tile.regs) : onRegs f s = onRegs g s := by
  simp only [onRegs, onTile, h]

/-! ## Fetch where no level is active -/

theorem active_eq_false {c : Ctl} (h : innermost c = none) (k : Fin 6) : c.loops[k].active = false := by
  simp only [innermost, ite_eq_iff, reduceCtorEq, and_false, false_or, Bool.not_eq_true, and_true] at h
  obtain ⟨h5, h4, h3, h2, h1, h0⟩ := h
  fin_cases k <;> assumption

theorem outermost_eq_none {c : Ctl} (h : innermost c = none) : outermost c = none := by
  refine List.find?_eq_none.mpr fun l hl => ?_
  obtain ⟨k, hk, rfl⟩ := List.getElem_of_mem hl
  simpa using active_eq_false h ⟨k, by simpa using hk⟩

theorem refill_eq_none {t : Tile} (h : innermost t.ctl = none) : refill t = none := by
  rw [refill, outermost_eq_none h]

/-- With no level active every syllable comes from instruction memory. -/
theorem fetchOne_of_noLevel {t : Tile} (h : innermost t.ctl = none) (a : Word) : fetchOne t a = fetchMem t a := by
  have memory : bodyOne t a = fetchMem t a := by simp [bodyOne, bufferWord, h]
  rw [fetchOne, memory, ite_self]

theorem fetchBundle_of_fault {t : Tile} {a : Word} {cause : Nat} (h : innermost t.ctl = none) (f : fetchMem t a = .fault cause a) :
    fetchBundle t a = .error (.fault cause a) := by
  simp [fetchBundle, fetchWords, fetchOne_of_noLevel h, f]

theorem bundleFetch_of_fault {t : State} {cause : Nat} (h : innermost t.tile.ctl = none)
    (f : fetchMem t.tile t.tile.ctl.pc = .fault cause t.tile.ctl.pc) : bundleFetch t = takeFault (fetchFault cause t.tile.ctl.pc) t := by
  simp only [bundleFetch, refill_eq_none h, fetchBundle_of_fault h f]
  rfl

/-! ## The fault of a fetch -/

/-- A single fault taken marks the tile that raised it, which then stops; a FETCH fault of cause 0 narrows its program counter (R69). -/
theorem takeFault_tile {s : State} (f : TFault) (h : s.tile.ctl.deferred = []) :
    (takeFault f s).tile = { stopTile (marked f s.tile) with ctl := narrowPc f (stopTile (marked f s.tile)).ctl } := by
  have order : deferredOrder s.tile.ctl.deferred = [] := by rw [h]; rfl
  simp only [takeFault, takeFaults, order, List.nil_append, List.isEmpty_cons, Bool.false_eq_true, if_false, List.foldl_cons,
    List.foldl_nil, onCtl, onTile_tile, haltOthers_tile_eq, recordFault_own]

theorem stopTile_ctl_keeps {β : Type} (g : Ctl → β) (h : ∀ t : Tile, g (haltTile t).ctl = g t.ctl) (t : Tile) :
    g (stopTile t).ctl = g t.ctl := by
  unfold stopTile
  split
  · exact h t
  · rfl

theorem takeFault_fetchFault {s : State} (a : Word) (h : s.tile.ctl.deferred = []) :
    (takeFault (fetchFault 0 a) s).tile.ctl.fltaddr = a ∧ (takeFault (fetchFault 0 a) s).tile.ctl.pc = s.tile.ctl.pc &&& 0xFFFFF := by
  rw [takeFault_tile _ h]
  exact ⟨stopTile_ctl_keeps Ctl.fltaddr (fun _ => rfl) _, congrArg (· &&& 0xFFFFF) (stopTile_ctl_keeps Ctl.pc (fun _ => rfl) _)⟩

/-- A running tile that nothing holds after its cycle has started goes on to fetch. -/
theorem bundleIssue_of_fetch {s : State} (run : s.tile.ctl.run = .running) (still : (cycleStart s).tile.ctl.run = .running)
    (d : (cycleStart s).tile.ctl.deferred = []) (g : (cycleStart s).tile.ctl.gacc = none) (b : (cycleStart s).tile.ctl.bubble = false) :
    bundleIssue s = bundleFetch (cycleStart s) := by
  simp [bundleIssue, run, still, d, g, b]

/-- Settles O42, clause by clause from what each of the tile's own steps tests. -/
theorem tileSteps : Obligations.TileSteps := by
  intro s p ws is n a e bs s'
  refine ⟨fun inflight due => ?_, fun run g b d fill fetched decoded late noPoint => ?_, fun run missing entry => ⟨fun read => ?_, fun read => ?_⟩,
    fun run still d g b level => ?_, fun run may d g => ?_, fun run empty posted => ?_⟩
  · exact congrArg Host.Outcome.next (onRegs_congr (landDue_singleton inflight due))
  · have out : watchdogOut (isPoint (bundleOps ws 0 is) && !boundaryInPhase s) s = true := by
      rcases noPoint with h | h <;> simp [watchdogOut, late, h]
    exact congrArg Host.Outcome.next (by simp [watchdog, run, g, b, d, fill, fetched, decoded, out])
  · exact congrArg Host.Outcome.next (by simp only [overlayPageIn, run, missing, entry, read, if_true])
  · exact congrArg Host.Outcome.next (by simp only [overlayPageIn, run, missing, entry, read, if_true])
  · have issue {cause : Nat} (f : fetchMem (cycleStart s).tile (cycleStart s).tile.ctl.pc = .fault cause (cycleStart s).tile.ctl.pc) :
        exec .bundleIssue s = .next (takeFault (fetchFault cause (cycleStart s).tile.ctl.pc) (cycleStart s)) :=
      congrArg Host.Outcome.next ((bundleIssue_of_fetch run still d g b).trans (bundleFetch_of_fault level f))
    refine ⟨fun above => ?_, fun inside noFrame => ⟨fun noEntry => ?_, fun e entry absent => ?_⟩⟩
    · exact ⟨issue (if_pos above), takeFault_fetchFault _ d⟩
    · exact issue (by simp [fetchMem, inside, noFrame, noEntry])
    · exact issue (by simp [fetchMem, inside, noFrame, entry, absent])
  · have halt : tileHalt s = onTile haltTile s := by simp [tileHalt, run, may, d, g]
    exact ⟨onTile haltTile s, congrArg Host.Outcome.next halt, rfl, rfl, rfl, rfl, rfl, rfl⟩
  · exact congrArg Host.Outcome.next (by simp [tileFree, freeTile, run, empty, posted])

end Sys2Proof.Proofs
end

section
/-! What reaching global memory leaves as it was: through lines, page tables, translation caches, snapshots' copies, event queues and job control
blocks no memory of a tile changes, nor the module's own state, nor what flash holds (13_memory.md R332 to R341; 14_translation.md R366 to R383). -/

namespace Sys2Proof.Proofs

open Sys2Proof Sys2Proof.Machine Sys2Proof.Safety Sys2Proof.Laws

/-- What an access to global memory keeps: the memories of the tile in focus, the module's state and the pages in flash. -/
structure PortKeeps (s t : State) : Prop where
  tileMem : t.tile.mem = s.tile.mem
  mod     : t.mod = s.mod
  flash   : t.mem.flash = s.mem.flash

namespace PortKeeps

theorem refl (s : State) : PortKeeps s s := ⟨rfl, rfl, rfl⟩

theorem trans {s t u : State} (h : PortKeeps s t) (k : PortKeeps t u) : PortKeeps s u :=
  ⟨k.tileMem.trans h.tileMem, k.mod.trans h.mod, k.flash.trans h.flash⟩

theorem foldl {α : Type} {f : State → α → State} (h : ∀ s x, PortKeeps s (f s x)) (xs : List α) (s : State) :
    PortKeeps s (xs.foldl f s) := by
  induction xs generalizing s with
  | nil => exact refl s
  | cons x xs ih => exact (h s x).trans (ih _)

theorem ite {c : Prop} [Decidable c] {s t u : State} (h : PortKeeps s t) (k : PortKeeps s u) : PortKeeps s (if c then t else u) := by
  split
  · exact h
  · exact k

theorem modVd (vd : BitVec 8) (f : VDev → VDev) (s : State) : PortKeeps s (modVd vd f s) := ⟨rfl, rfl, rfl⟩
theorem modCluster (c : Nat) (f : Cluster → Cluster) (s : State) : PortKeeps s (modCluster c f s) := ⟨rfl, rfl, rfl⟩
theorem modBind (b : Nat) (f : Bind → Bind) (s : State) : PortKeeps s (modBind b f s) := ⟨rfl, rfl, rfl⟩
theorem onCtl (f : Ctl → Ctl) (s : State) : PortKeeps s (onCtl f s) := ⟨rfl, rfl, rfl⟩
theorem onEng (f : Eng → Eng) (s : State) : PortKeeps s (onEng f s) := ⟨rfl, rfl, rfl⟩
theorem putLine (l : Line) (s : State) : PortKeeps s (onMemSys (putLine l) s) := ⟨rfl, rfl, rfl⟩
theorem lastLine (l : Line) (s : State) : PortKeeps s (onMemSys (lastLine l) s) := ⟨rfl, rfl, rfl⟩
theorem queueRec (vd : BitVec 8) (q : Fin 4) (r : Rec) (s : State) : PortKeeps s (queueRec vd q r s) := ⟨rfl, rfl, rfl⟩
theorem peer (l : BitVec 2) (r : BitVec 8) (x : SMap Byte) (s : State) : PortKeeps s (onMemSys (setPeerMem l r x) s) := ⟨rfl, rfl, rfl⟩
theorem hostMem (f : MemSys → SMap Byte) (s : State) : PortKeeps s (onMemSys (fun m => { m with hmem := f m }) s) := ⟨rfl, rfl, rfl⟩
theorem fresh (n : Nat) (s : State) : PortKeeps s { s with fresh := n } := ⟨rfl, rfl, rfl⟩

end PortKeeps

variable (s : State)

/-! ## Lines of the slices -/

theorem wakeMon_mem (lo hi : Nat) (t : Tile) : (wakeMon lo hi t).mem = t.mem := by
  unfold wakeMon
  split
  · split
    · split <;> rfl
    · rfl
  · rfl

theorem wakeSectors_keeps (lo hi : Nat) : PortKeeps s (wakeSectors lo hi s) := ⟨wakeMon_mem lo hi _, rfl, rfl⟩

theorem hostWrite_keeps (a n v : Nat) : PortKeeps s (hostWrite a n v s) := ⟨rfl, rfl, rfl⟩

theorem queueOrDrop_keeps (vd : BitVec 8) (q : Fin 4) (x : BitVec 256) : PortKeeps s (queueOrDrop vd q x s) :=
  .ite (hostWrite_keeps s _ _ _) (.queueRec _ _ _ _)

theorem undefSector_keeps (n : Nat) : PortKeeps s (undefSector n s) := ⟨rfl, rfl, rfl⟩

theorem dropLine_keeps (l : Line) : PortKeeps s (dropLine l s) := ⟨wakeMon_mem _ _ _, rfl, rfl⟩

theorem evictLine_keeps (l : Line) : PortKeeps s (evictLine l s) :=
  .ite (dropLine_keeps s l) ((dropLine_keeps s l).trans (.modVd _ _ _))

theorem grantCount_keeps (h : Hints) : PortKeeps s (grantCount h s).2 := by
  unfold grantCount
  split
  · split
    · split
      · exact .refl s
      · exact ⟨rfl, rfl, rfl⟩
    · exact .refl s
  · exact .refl s

theorem countRead_keeps (l : Line) : PortKeeps s (countRead l s) := by
  unfold countRead
  refine .ite (.refl s) (.ite (.putLine _ s) (.ite ?_ (.lastLine _ s)))
  have first := (dropLine_keeps s l).trans (.ite (c := l.dirty0) (undefSector_keeps _ (2 * l.line)) (.refl _))
  exact first.trans (.ite (undefSector_keeps _ _) (.refl _))

theorem makeRoom_keeps (line : Nat) : PortKeeps s (makeRoom line s) := by
  unfold makeRoom
  refine .ite (.refl s) ?_
  split
  · exact evictLine_keeps s _
  · exact .refl s

theorem touchLine_keeps (line : Nat) (s0 s1 write : Bool) (h : Hints) : PortKeeps s (touchLine line s0 s1 write h s) := by
  unfold touchLine
  split
  · have granted : PortKeeps s (if write then (0, makeRoom line s) else grantCount h (makeRoom line s)).2 := by
      split
      · exact makeRoom_keeps s line
      · exact (makeRoom_keeps s line).trans (grantCount_keeps _ h)
    have filled (l : Line) := granted.trans (.putLine l _)
    exact .ite (filled _) ((filled _).trans (countRead_keeps _ _))
  · next old _ =>
    refine .ite (.putLine _ s) ?_
    have granted (b : Bool) : PortKeeps s (if b then grantCount h s else (old.count, s)).2 := by
      split
      · exact grantCount_keeps s h
      · exact .refl s
    exact .ite ((granted _).trans (.putLine _ _)) (((granted _).trans (.putLine _ _)).trans (countRead_keeps _ _))

theorem touchLines_keeps (pa n : Nat) (write : Bool) (h : Hints) : PortKeeps s (touchLines pa n write h s) := by
  unfold touchLines
  exact .ite (.refl s) (.foldl (fun s _ => touchLine_keeps s _ _ _ _ _) _ s)

/-! ## Device memory, page walks -/

theorem devStore_keeps (pa : Nat) (bs : List Byte) : PortKeeps s (devStore pa bs s) := by
  unfold devStore
  exact .ite (.refl s) ⟨wakeMon_mem _ _ _, rfl, rfl⟩

theorem devTouch_keeps (vd : BitVec 8) (pa n : Nat) : PortKeeps s (devTouch vd pa n s) := touchLines_keeps s _ _ _ _

theorem devWrite_keeps (vd : BitVec 8) (pa : Nat) (bs : List Byte) : PortKeeps s (devWrite vd pa bs s) :=
  (devStore_keeps s pa bs).trans (touchLines_keeps _ _ _ _ _)

theorem readPte_keeps (vd : BitVec 8) (pa : Nat) : PortKeeps s (readPte vd pa s).2 := by
  unfold readPte
  split
  · exact .refl s
  · exact touchLines_keeps s _ _ _ _

theorem walkFrom_keeps (vd : BitVec 8) (va more table : Nat) : PortKeeps s (walkFrom vd va more table s).2 := by
  induction more generalizing table s with
  | zero => exact .refl s
  | succ more ih =>
    have read (pa : Nat) {e : Option Word} {s t : State} (h : readPte vd pa s = (e, t)) : PortKeeps s t := by
      simpa [h] using readPte_keeps s vd pa
    unfold walkFrom
    dsimp only
    split
    · exact .refl s
    split
    · next h => exact read _ h
    · next h =>
      have first := read _ h
      split
      · exact first
      · split
        · split
          · split <;> exact first
          · split
            · next h' => exact first.trans (read _ h')
            · next h' =>
              have second := first.trans (read _ h')
              split
              · exact second
              · split <;> exact second
        · split
          · exact first
          · split
            · exact first.trans (ih _ _)
            · exact first

theorem walk_keeps (vd : BitVec 8) (va : Nat) : PortKeeps s (walk vd va s).2 := walkFrom_keeps s _ _ _ _

/-! ## Pool and flash -/

theorem startPageIn_keeps (vd : BitVec 8) (e : TlbEnt) (leafPa : Nat) (entry : Word) (gen : Nat) (bybind : Bool) :
    PortKeeps s (startPageIn vd e leafPa entry gen bybind s).2 := by
  unfold startPageIn
  dsimp only
  split
  · exact .refl s
  · split
    · exact ⟨rfl, rfl, rfl⟩
    · exact .refl s
    · exact ⟨rfl, rfl, rfl⟩

theorem finishPageIn_keeps (vd : BitVec 8) (k : Skid) : PortKeeps s (finishPageIn vd k s) := by
  unfold finishPageIn
  dsimp only
  split
  · exact ⟨rfl, rfl, rfl⟩
  · have touched (f : VDev → VDev) := (PortKeeps.modVd vd f s).trans (devTouch_keeps _ vd k.leafPa 8)
    refine .ite ?_ ((touched _).trans (.modVd _ _ _))
    exact (((touched _).trans (devWrite_keeps _ _ _ _)).trans (devWrite_keeps _ _ _ _)).trans (queueOrDrop_keeps _ _ _ _)

theorem endStale_keeps (vd : BitVec 8) (k : Skid) : PortKeeps s (endStale vd k s) := (devWrite_keeps s _ _ _).trans (.modVd _ _ _)

/-! ## Translation caches -/

theorem flushEnt_keeps (e : TlbEnt) : PortKeeps s (flushEnt e s) := by
  unfold flushEnt
  split
  · exact .ite (.refl s) ((devStore_keeps s _ _).trans (touchLines_keeps _ _ _ _ _))
  · exact .refl s

theorem tlbFill_keeps (c : Nat) (e : TlbEnt) : PortKeeps s (tlbFill c e s) := by
  have victim : PortKeeps s (match tlbVictim s c e.vd with
      | some x => modCluster c (fun k => { k with tlb := k.tlb.filter (! sameEnt · x) }) (flushEnt x s)
      | none => s) := by
    split
    · exact (flushEnt_keeps s _).trans (.modCluster _ _ _)
    · exact .refl s
  unfold tlbFill
  exact (victim.trans (.modVd _ _ _)).trans (.modCluster _ _ _)

theorem promote_keeps (c : Nat) (e : TlbEnt) : PortKeeps s (promote c e s) := .modCluster _ _ s

theorem countEnt_keeps (c : Nat) (e : TlbEnt) (va n : Nat) : PortKeeps s (countEnt c e va n s).2 := by
  unfold countEnt
  split <;> exact promote_keeps s _ _

theorem postNote_keeps (vd : BitVec 8) (note : Option (BitVec 256)) : PortKeeps s (postNote vd note s) := by
  unfold postNote
  split
  · exact queueOrDrop_keeps s _ _ _
  · exact .refl s

theorem useEnt_keeps (c : Nat) (e : TlbEnt) (va n : Nat) : PortKeeps s (useEnt c e va n s) :=
  (countEnt_keeps s c e va n).trans (postNote_keeps _ _ _)

theorem look_keeps (c : Nat) (vd : BitVec 8) (va : Nat) : PortKeeps s (look c vd va s).2 := by
  have walked {w : Walk} {t : State} (h : walk vd va s = (w, t)) : PortKeeps s t := by simpa [h] using walk_keeps s vd va
  unfold look
  split
  · exact promote_keeps s _ _
  · split
    · next h => exact walked h
    · next h =>
      split
      · exact walked h
      · exact (walked h).trans (tlbFill_keeps _ _ _)

theorem xlate_keeps (c : Nat) (vd : BitVec 8) (va : Nat) (read write : Bool) (slot : Option Nat) :
    PortKeeps s (xlate c vd va read write slot s).2 := by
  have looked {l : Look} {t : State} (h : look c vd va s = (l, t)) : PortKeeps s t := by simpa [h] using look_keeps s c vd va
  unfold xlate
  split
  · exact .refl s
  · split
    · exact .refl s
    · simp only
      split
      · next h => exact looked h
      · next h => exact looked h
      · next e leafPa entry t h =>
        split
        · exact looked h
        · have started := (looked h).trans (startPageIn_keeps t vd e leafPa entry (slotGen slot t) slot.isSome)
          split <;> next h' => simpa [h'] using started

/-! ## Snapshots' copies, accesses -/

theorem noteSnapHold_keeps (vd : BitVec 8) : PortKeeps s (noteSnapHold vd s) := .modVd _ _ s

theorem countHold_keeps (vd : BitVec 8) (old : Option Hold) (h : Hold) : PortKeeps s (countHold vd old h s) :=
  .ite (noteSnapHold_keeps s vd) (.refl s)

theorem snapCopy_keeps {vd : BitVec 8} {va pa : Nat} {t : State} (h : snapCopy vd va pa s = some t) : PortKeeps s t := by
  unfold snapCopy at h
  simp only at h
  split at h
  · cases h; exact .refl s
  · split at h
    · cases h; exact .refl s
    · split at h
      · cases h
      · rw [← Option.some.inj h]
        exact ((devTouch_keeps s _ _ _).trans (devWrite_keeps _ _ _ _)).trans (.modVd _ _ _)

theorem snapBefore_keeps {vd : BitVec 8} {va pa : Nat} {t : State} (h : snapBefore vd va pa s = some t) : PortKeeps s t :=
  (PortKeeps.modVd vd _ s).trans (snapCopy_keeps _ h)

/-- The state in which an access ends. -/
def outState : GOut → State
  | .done _ s | .fail _ s | .wait s | .block _ s => s

theorem gPerform_keeps (vd : BitVec 8) (va n : Nat) (reads writes hostOk : Bool) (h : Hints) (f : Change) {use : State → State}
    (hu : ∀ s, PortKeeps s (use s)) (e : TlbEnt) : PortKeeps s (outState (gPerform vd va n reads writes hostOk h f use e s)) := by
  unfold gPerform
  split
  · simp only
    split
    · exact .refl s
    · split
      · exact hu s
      · split
        · exact (hu s).trans (touchLines_keeps _ _ _ _ _)
        · split
          · exact .refl s
          · next hb =>
            have used := (snapBefore_keeps s hb).trans (hu _)
            refine PortKeeps.trans (.trans (.ite (c := reads) ?_ used) (devStore_keeps _ _ _)) (touchLines_keeps _ _ _ _ _)
            exact used.trans (touchLines_keeps _ _ _ _ _)
  · split
    · exact .refl s
    · split
      · split
        · exact ⟨rfl, rfl, rfl⟩
        · simp only
          have drawn := PortKeeps.fresh (s.fresh + 1) s
          split
          · exact drawn.trans (hu _)
          · exact (drawn.trans (.peer _ _ _ _)).trans (hu _)
      · simp only
        split
        · exact hu s
        · exact (PortKeeps.hostMem _ s).trans (hu _)

theorem gAccess_keeps (c : Nat) (vd : BitVec 8) (va n : Nat) (reads writes hostOk : Bool) (h : Hints) (f : Change) :
    PortKeeps s (outState (gAccess c vd va n reads writes hostOk h f s)) := by
  have translated {x : Xlat} {t : State} (hx : xlate c vd va reads writes h.slot s = (x, t)) : PortKeeps s t := by
    simpa [hx] using xlate_keeps s c vd va reads writes h.slot
  unfold gAccess
  split
  · next hx => exact translated hx
  · next hx => exact translated hx
  · next hx => exact translated hx
  · next hx =>
    split
    · exact translated hx
    · exact (translated hx).trans (gPerform_keeps _ _ _ _ _ _ _ _ _ (fun s => useEnt_keeps s _ _ _ _) _)

/-! ## The device's own units -/

theorem pageInNow_keeps (vd : BitVec 8) (e : TlbEnt) (leafPa : Nat) (entry : Word) (n : Nat) :
    PortKeeps s (pageInNow vd e leafPa entry n s) := by
  induction n generalizing s with
  | zero => exact .refl s
  | succ n ih =>
    have started {b : Bool} {t : State} (h : startPageIn vd e leafPa entry 0 false s = (b, t)) : PortKeeps s t := by
      simpa [h] using startPageIn_keeps s vd e leafPa entry 0 false
    unfold pageInNow
    split
    · next h => exact started h
    · next h =>
      split
      · exact .ite ((started h).trans (finishPageIn_keeps _ _ _)) (((started h).trans (endStale_keeps _ _ _)).trans (ih _))
      · exact started h

theorem sysXlate_keeps (vd : BitVec 8) (va : Nat) (reads writes : Bool) : PortKeeps s (sysXlate vd va reads writes s).2 := by
  have walked {w : Walk} {s t : State} (h : walk vd va s = (w, t)) : PortKeeps s t := by simpa [h] using walk_keeps s vd va
  unfold sysXlate
  split
  · exact .refl s
  · split
    · next h => exact walked h
    · next e leafPa entry t h =>
      split
      · exact walked h
      · split
        · have paged := (walked h).trans (pageInNow_keeps _ vd e leafPa entry 2)
          split
          · next h' => split <;> exact paged.trans (walked h')
          · next h' => exact paged.trans (walked h')
        · exact walked h

theorem sysPart_keeps (vd : BitVec 8) (va n : Nat) (reads writes dev : Bool) (f : Change) :
    PortKeeps s (sysPart vd va n reads writes dev f s).2 := by
  have translated {x : Option TlbEnt} {t : State} (h : sysXlate vd va reads writes s = (x, t)) : PortKeeps s t := by
    simpa [h] using sysXlate_keeps s vd va reads writes
  unfold sysPart
  split
  · exact .refl s
  · split
    · next h => exact translated h
    · next e t h =>
      refine (translated h).trans ?_
      split
      · simp only
        split
        · exact .refl t
        · split
          · exact touchLines_keeps t _ _ _ _
          · split
            · exact noteSnapHold_keeps t vd
            · next u hb =>
              have copied : PortKeeps t u := by
                split at hb
                · exact snapBefore_keeps t hb
                · cases hb; exact .refl t
              exact (copied.trans (devStore_keeps _ _ _)).trans (touchLines_keeps _ _ _ _ _)
      · split
        · split
          · exact ⟨rfl, rfl, rfl⟩
          · simp only
            split <;> exact ⟨rfl, rfl, rfl⟩
        · simp only
          split <;> exact ⟨rfl, rfl, rfl⟩

/-! ## Dropped translations -/

theorem dropEnts_keeps (vd : BitVec 8) (hit : TlbEnt → Bool) (c : Nat) : PortKeeps s (dropEnts vd hit c s) := by
  unfold dropEnts
  exact (PortKeeps.foldl flushEnt_keeps _ s).trans (.modCluster _ _ _)

theorem releaseTileHolds_mem (vd : BitVec 8) (ends : Hold → Bool) (t : Tile) : (releaseTileHolds vd ends t).mem = t.mem := by
  unfold releaseTileHolds
  split <;> rfl

theorem releaseHolds_keeps (vd : BitVec 8) (ends : Hold → Bool) : PortKeeps s (releaseHolds vd ends s) :=
  ⟨releaseTileHolds_mem _ _ _, rfl, rfl⟩

theorem dropAll_keeps (vd : BitVec 8) : PortKeeps s (dropAll vd s) := by
  unfold dropAll dropRange
  exact (PortKeeps.foldl (fun s (c : Nat × Cluster) => dropEnts_keeps s vd (overlapsRange 0 (2 ^ 48)) c.1) _ s).trans (releaseHolds_keeps _ _ _)

end Sys2Proof.Proofs
end

section
/-! Proofs for 01_machine.md: what each turn runs, and what the boundary between two cycles does to the clocks (R28, R29, R331, R394, R482, R488). -/

namespace Sys2Proof.Proofs

open Sys2Proof Sys2Proof.Machine Sys2Proof.Safety Sys2Proof.Laws

/-! ## What errors, health and the service of clusters leave -/

/-- The module's state without what a boundary brings from outside: heat, corrected errors, and the time from which it is idle. -/
def steadyMod (m : Mod) : Mod :=
  { m with hot := false, div := false, events := 0, changed := none, health := [], healthDue := [], healthAt := 0, idleSince := 0 }

/-- A gang that runs after a change ran before it, and its compute cycles are as they were. -/
def KeepsRunc (b c : Bind) : Prop := c.state = .running → b.state = .running ∧ c.runc = b.runc

/-- What the errors of a boundary and the service of clusters keep. -/
structure WorldKeeps (s t : State) : Prop where
  mod    : steadyMod t.mod = steadyMod s.mod
  dmem   : t.mem.dmem = s.mem.dmem
  hmem   : t.mem.hmem = s.mem.hmem
  flash  : t.mem.flash = s.mem.flash
  lines  : t.mem.lines = s.mem.lines
  flume  : t.flume = s.flume
  tstate : ∀ vd, (getVd vd t).tstate = (getVd vd s).tstate
  runc   : ∀ n, KeepsRunc (getBind n s) (getBind n t)

theorem KeepsRunc.refl (b : Bind) : KeepsRunc b b := fun h => ⟨h, rfl⟩

theorem KeepsRunc.trans {b c d : Bind} (h : KeepsRunc b c) (k : KeepsRunc c d) : KeepsRunc b d := fun run =>
  ⟨(h (k run).1).1, (k run).2.trans (h (k run).1).2⟩

/-- A gang that halts does not run. -/
theorem bindHalting_ne_running (b : Bind) : (bindHalting b).state ≠ .running := by
  simp only [bindHalting]
  split
  · exact BindState.noConfusion
  · assumption

theorem getBind_modBind (k : Nat) (f : Bind → Bind) (s : State) (n : Nat) :
    getBind n (modBind k f s) = if n = k then f (getBind k s) else getBind n s := smGet_smSet k _ _ n

theorem getVd_modVd (v : BitVec 8) (f : VDev → VDev) (s : State) (w : BitVec 8) :
    getVd w (modVd v f s) = if w = v then f (getVd v s) else getVd w s := by
  unfold getVd modVd
  rw [smGet_smSet]
  simp only [BitVec.toNat_inj]
  rfl

namespace WorldKeeps

theorem refl (s : State) : WorldKeeps s s := ⟨rfl, rfl, rfl, rfl, rfl, rfl, fun _ => rfl, fun _ => .refl _⟩

theorem trans {s t u : State} (h : WorldKeeps s t) (k : WorldKeeps t u) : WorldKeeps s u :=
  ⟨k.mod.trans h.mod, k.dmem.trans h.dmem, k.hmem.trans h.hmem, k.flash.trans h.flash, k.lines.trans h.lines, k.flume.trans h.flume,
    fun vd => (k.tstate vd).trans (h.tstate vd), fun n => (h.runc n).trans (k.runc n)⟩

theorem foldl {α : Type} {f : State → α → State} (h : ∀ s x, WorldKeeps s (f s x)) (xs : List α) (s : State) :
    WorldKeeps s (xs.foldl f s) := by
  induction xs generalizing s with
  | nil => exact refl s
  | cons x xs ih => exact (h s x).trans (ih _)

theorem ite {c : Prop} [Decidable c] {s t u : State} (h : WorldKeeps s t) (k : WorldKeeps s u) : WorldKeeps s (if c then t else u) := by
  split
  · exact h
  · exact k

/-- The tiles are no part of what is kept. -/
theorem tiles (cur : Nat) (tile : Tile) (others : SMap Tile) (s : State) :
    WorldKeeps s { s with cur := cur, tile := tile, others := others } := ⟨rfl, rfl, rfl, rfl, rfl, rfl, fun _ => rfl, fun _ => .refl _⟩

theorem onTile (f : Tile → Tile) (s : State) : WorldKeeps s (onTile f s) := tiles s.cur _ s.others s
theorem onCtl (f : Ctl → Ctl) (s : State) : WorldKeeps s (onCtl f s) := tiles s.cur _ s.others s

theorem modTile (p : Nat) (f : Tile → Tile) (s : State) : WorldKeeps s (modTile p f s) := by
  unfold Machine.modTile setTile
  exact ite (tiles s.cur _ s.others s) (tiles s.cur s.tile _ s)

theorem focusOn (p : Nat) (s : State) : WorldKeeps s (focusOn p s) := ite (refl s) (tiles p _ _ s)

theorem overTiles (ps : List Nat) (f : Tile → Tile) (s : State) : WorldKeeps s (overTiles ps f s) := foldl (fun s p => modTile p f s) ps s

theorem onMod {f : Mod → Mod} (s : State) (h : steadyMod (f s.mod) = steadyMod s.mod) : WorldKeeps s (onMod f s) :=
  ⟨h, rfl, rfl, rfl, rfl, rfl, fun _ => rfl, fun _ => .refl _⟩

theorem modBind {k : Nat} {f : Bind → Bind} {s : State} (h : KeepsRunc (getBind k s) (f (getBind k s))) : WorldKeeps s (modBind k f s) := by
  refine ⟨rfl, rfl, rfl, rfl, rfl, rfl, fun _ => rfl, fun n => ?_⟩
  rw [getBind_modBind]
  split
  · next h' => rw [h']; exact h
  · exact .refl _

theorem modBindOf {t : Tile} {f : Bind → Bind} {s : State} (h : ∀ b, KeepsRunc b (f b)) : WorldKeeps s (modBindOf t f s) := by
  unfold Machine.modBindOf
  split
  · exact modBind (h _)
  · exact refl s

theorem queueRec (vd : BitVec 8) (q : Fin 4) (r : Rec) (s : State) : WorldKeeps s (queueRec vd q r s) := by
  refine ⟨rfl, rfl, rfl, rfl, rfl, rfl, fun w => ?_, fun _ => .refl _⟩
  rw [Machine.queueRec, getVd_modVd]
  split
  · next h => rw [h]
  · rfl

theorem modCluster (c : Nat) (f : Cluster → Cluster) (s : State) : WorldKeeps s (modCluster c f s) :=
  ⟨rfl, rfl, rfl, rfl, rfl, rfl, fun _ => rfl, fun _ => .refl _⟩

theorem fresh (n : Nat) (s : State) : WorldKeeps s { s with fresh := n } := ⟨rfl, rfl, rfl, rfl, rfl, rfl, fun _ => rfl, fun _ => .refl _⟩

end WorldKeeps

theorem recordFault_worldKeeps (p : Nat) (s : State) (f : TFault) : WorldKeeps s (recordFault p s f) := by
  unfold recordFault
  exact ((WorldKeeps.queueRec _ _ _ s).trans (.modTile _ _ _)).trans (.modBindOf fun b run => absurd run (bindHalting_ne_running b))

theorem recordPending_worldKeeps (s : State) (p : Nat) : WorldKeeps s (recordPending s p) := .foldl (recordFault_worldKeeps p) _ s

theorem haltOthers_worldKeeps (s : State) : WorldKeeps s (haltOthers s) := by
  unfold haltOthers
  exact .ite ((WorldKeeps.foldl recordPending_worldKeeps _ s).trans (.overTiles _ _ _)) (.overTiles _ _ s)

theorem takeFault_worldKeeps (f : TFault) (s : State) : WorldKeeps s (takeFault f s) := by
  refine WorldKeeps.trans ?_ (.onCtl _ _)
  refine .ite (.refl s) (.trans ?_ (.onTile _ _))
  exact (WorldKeeps.foldl (recordFault_worldKeeps s.cur) _ s).trans (haltOthers_worldKeeps _)

theorem raiseDeferred_worldKeeps (f : TFault) (s : State) : WorldKeeps s (raiseDeferred f s) := .ite (.onCtl _ s) (takeFault_worldKeeps f s)

theorem stateUpset_worldKeeps (s : State) : WorldKeeps s (stateUpset s) := by
  unfold stateUpset
  exact .ite (.refl s) ((WorldKeeps.fresh _ s).trans (raiseDeferred_worldKeeps _ _))

theorem countCorrected_steady (u : Nat) (m : Mod) : steadyMod (countCorrected u m) = steadyMod m := by
  unfold countCorrected
  split <;> rfl

theorem upset_worldKeeps (s : State) (x : Upset) : WorldKeeps s (upset x s) := by
  cases x with
  | corrected u => exact .onMod s (countCorrected_steady u _)
  | block p n => unfold upset; exact .modTile p _ s
  | frame p n => unfold upset; exact .modTile p _ s
  | entry p n => unfold upset; exact .modTile p _ s
  | tileState p => exact (WorldKeeps.foldl (fun s p => (WorldKeeps.focusOn p s).trans (stateUpset_worldKeeps _)) [p] s).trans (.focusOn _ _)
  | sector n => exact .ite ⟨rfl, rfl, rfl, rfl, rfl, rfl, fun _ => rfl, fun _ => .refl _⟩ (.refl s)

theorem healthRound_steady (m : Mod) : steadyMod (healthRound m) = steadyMod m := by
  unfold healthRound
  simp only
  split <;> rfl

theorem eccRound_worldKeeps (xs : List Upset) (s : State) : WorldKeeps s (eccRound xs s) :=
  (WorldKeeps.foldl upset_worldKeeps _ s).trans (.onMod _ (healthRound_steady _))

theorem haltGang_worldKeeps (k : Nat) (s : State) : WorldKeeps s (haltGang k s) := by
  unfold haltGang
  exact .ite ((WorldKeeps.overTiles _ _ s).trans (.modBind fun run => absurd run (bindHalting_ne_running _))) (.refl s)

theorem evictGang_worldKeeps (k : Nat) (s : State) : WorldKeeps s (evictGang k s) :=
  (WorldKeeps.modBind fun run => ⟨run, rfl⟩).trans (haltGang_worldKeeps k _)

theorem serveCluster_worldKeeps (away : List Nat) (s : State) (c : Nat) : WorldKeeps s (serveCluster away s c) := by
  unfold serveCluster
  refine .ite (.refl s) (.ite (.modCluster _ _ s) ?_)
  split
  · exact evictGang_worldKeeps _ s
  · exact .modCluster _ _ s

theorem worldRound_keeps (s : State) : WorldKeeps s (worldRound s) := by
  unfold worldRound
  refine .ite (.refl s) ?_
  exact ((WorldKeeps.onMod s rfl).trans (eccRound_worldKeeps _ _)).trans (.foldl (serveCluster_worldKeeps _) _ _)

/-! ## The boundary between two cycles -/

/-- The state of a boundary before its turns are drawn. -/
def boundary (s : State) : State := noteIdle (beginCompute (worldRound (onMod passTime (resetRound s))))

/-- The turns of the next cycle are drawn, which touches nothing else. -/
def drawTurns (s : State) : State := { s with ticks := s.ticks + 1, agenda := cycleTurns s }

theorem nextCycle_eq (s : State) : nextCycle s = drawTurns (boundary s) := rfl

@[simp] theorem drawTurns_mod (s : State) : (drawTurns s).mod = s.mod := rfl
@[simp] theorem drawTurns_mem (s : State) : (drawTurns s).mem = s.mem := rfl
@[simp] theorem drawTurns_flume (s : State) : (drawTurns s).flume = s.flume := rfl
@[simp] theorem drawTurns_tile (s : State) : (drawTurns s).tile = s.tile := rfl
@[simp] theorem drawTurns_agenda (s : State) : (drawTurns s).agenda = cycleTurns s := rfl
@[simp] theorem getVd_drawTurns (vd : BitVec 8) (s : State) : getVd vd (drawTurns s) = getVd vd s := rfl
@[simp] theorem getBind_drawTurns (n : Nat) (s : State) : getBind n (drawTurns s) = getBind n s := rfl

@[simp] theorem beginCompute_mod (s : State) : (beginCompute s).mod = s.mod := by unfold beginCompute; split <;> rfl
@[simp] theorem beginCompute_mem (s : State) : (beginCompute s).mem = s.mem := by unfold beginCompute; split <;> rfl
@[simp] theorem beginCompute_flume (s : State) : (beginCompute s).flume = s.flume := by unfold beginCompute; split <;> rfl
@[simp] theorem beginCompute_vds (s : State) : (beginCompute s).vds = s.vds := by unfold beginCompute; split <;> rfl
@[simp] theorem noteIdle_mod (s : State) : steadyMod (noteIdle s).mod = steadyMod s.mod := by unfold noteIdle; split <;> rfl
@[simp] theorem noteIdle_mem (s : State) : (noteIdle s).mem = s.mem := by unfold noteIdle; split <;> rfl
@[simp] theorem noteIdle_flume (s : State) : (noteIdle s).flume = s.flume := by unfold noteIdle; split <;> rfl
@[simp] theorem noteIdle_vds (s : State) : (noteIdle s).vds = s.vds := by unfold noteIdle; split <;> rfl
@[simp] theorem noteIdle_binds (s : State) : (noteIdle s).binds = s.binds := by unfold noteIdle; split <;> rfl
@[simp] theorem noteIdle_tile (s : State) : (noteIdle s).tile = s.tile := by unfold noteIdle; split <;> rfl

section

variable (s : State)

theorem boundary_keeps : WorldKeeps (onMod passTime (resetRound s)) (worldRound (onMod passTime (resetRound s))) := worldRound_keeps _

theorem boundary_mod : steadyMod (boundary s).mod = steadyMod (passTime (resetRound s).mod) := by
  simpa [boundary] using (boundary_keeps s).mod

theorem boundary_dmem : (boundary s).mem.dmem = (resetRound s).mem.dmem := by simpa [boundary] using (boundary_keeps s).dmem
theorem boundary_hmem : (boundary s).mem.hmem = (resetRound s).mem.hmem := by simpa [boundary] using (boundary_keeps s).hmem
theorem boundary_flash : (boundary s).mem.flash = (resetRound s).mem.flash := by simpa [boundary] using (boundary_keeps s).flash
theorem boundary_lines : (boundary s).mem.lines = (resetRound s).mem.lines := by simpa [boundary] using (boundary_keeps s).lines
theorem boundary_flume : (boundary s).flume = (resetRound s).flume := by simpa [boundary] using (boundary_keeps s).flume

theorem boundary_tstate (vd : BitVec 8) : (getVd vd (boundary s)).tstate = (getVd vd (resetRound s)).tstate := by
  simpa [boundary, getVd] using (boundary_keeps s).tstate vd

end

/-! ## Clocks -/

theorem passTime_power (m : Mod) : (passTime m).power = m.power := by unfold passTime; split <;> rfl
theorem passTime_stopped (m : Mod) : (passTime m).stopped = m.stopped := by unfold passTime; split <;> rfl
theorem passTime_fw (m : Mod) : (passTime m).fw = m.fw := by unfold passTime; split <;> rfl
theorem passTime_blob (m : Mod) : (passTime m).blob = m.blob := by unfold passTime; split <;> rfl
theorem clockRuns_passTime (m : Mod) : clockRuns (passTime m) = clockRuns m := by rw [clockRuns, passTime_power, passTime_stopped, clockRuns]

/-- A field that a boundary brings nothing to is as it was when the rest is. -/
theorem eq_of_steady {α : Type} {m n : Mod} (h : steadyMod m = steadyMod n) (f : Mod → α) (hf : ∀ k, f (steadyMod k) = f k) : f m = f n := by
  rw [← hf m, h, hf]

theorem clockRuns_steady {m n : Mod} (h : steadyMod m = steadyMod n) : clockRuns m = clockRuns n :=
  eq_of_steady h clockRuns fun _ => rfl

theorem smGet_map {α : Type} {d : α} {f : α → α} (h : f d = d) (m : SMap α) (k : Nat) :
    smGet d (m.map fun x => (x.1, f x.2)) k = f (smGet d m k) := by
  induction m with
  | nil => exact h.symm
  | cons x t ih =>
    simp only [List.map_cons, smGet, ih]
    split <;> rfl

/-- Where the compute clock runs, a gang that runs after the boundary ran before it and has counted one cycle more (R394). -/
theorem boundary_runc {s : State} (reset : resetRound s = s) (runs : clockRuns s.mod = true) (n : Nat)
    (h : (getBind n (boundary s)).state = .running) : (getBind n (boundary s)).runc = (getBind n s).runc + 1 := by
  have keeps := boundary_keeps s
  rw [reset] at keeps
  have runs' : clockRuns (worldRound (onMod passTime s)).mod = true := by
    rw [clockRuns_steady keeps.mod, onMod_mod, clockRuns_passTime, runs]
  have counted : getBind n (boundary s) = countRunc (getBind n (worldRound (onMod passTime s))) := by
    simp only [boundary, reset, getBind, noteIdle_binds, beginCompute, runs', if_true]
    exact smGet_map rfl _ n
  rw [counted] at h ⊢
  have run : (getBind n (worldRound (onMod passTime s))).state = .running := by
    unfold countRunc at h
    split at h <;> assumption
  rw [countRunc, if_pos run, (keeps.runc n run).2]
  rfl

/-! ## The reset after an accepted image -/

theorem smGet_of_forall {α : Type} {d : α} {P : α → Prop} (hd : P d) {m : SMap α} (hm : ∀ x ∈ m, P x.2) (k : Nat) : P (smGet d m k) := by
  induction m with
  | nil => exact hd
  | cons x t ih =>
    rw [List.forall_mem_cons] at hm
    rw [smGet]
    split
    · exact hm.1
    · exact ih hm.2

theorem moduleReset_tstate (s : State) (vd : BitVec 8) : (getVd vd (moduleReset s)).tstate = .unlocked := by
  refine smGet_of_forall (P := fun v : VDev => v.tstate = .unlocked) rfl (fun x hx => ?_) _
  obtain ⟨v, -, rfl⟩ := List.mem_map.mp hx
  simp only [getVd_reset]
  split <;> rfl

/-- A module reset keeps the images and what flash holds. -/
theorem moduleReset_kept (s : State) :
    (moduleReset s).mod = { blob := s.mod.blob, fw := s.mod.fw } ∧ (moduleReset s).mem.flash = s.mem.flash
      ∧ (moduleReset s).mem.lines = [] := by
  have dropped := PortKeeps.foldl (fun s (v : Nat × VDev) => dropAll_keeps s (BitVec.ofNat 8 v.1)) s.vds s
  refine ⟨?_, dropped.flash, rfl⟩
  simp only [moduleReset, dropped.mod]

/-! ## Turns -/

theorem step_cons {s : State} {t : Turn} {rest : List Turn} (h : s.agenda = t :: rest) : step s = keepAgenda rest (follow (takeTurn t s)) := by
  rw [step, h]

theorem step_nil {s : State} (h : s.agenda = []) : step s = .next (nextCycle s) := by rw [step, h]

theorem standsFatal_of_power {m : Mod} (h : m.power ≠ .fatal) (t : Turn) : standsFatal t m = false := by simp [standsFatal, h]

theorem microTurn_of_decoded {s : State} {mc : MCallSnap} {r : MRun} {i : Instr} (call : runCall s.tile.eng = some (mc, r))
    (decoded : decodeMicro (smGet 0 s.tile.mem.rstore r.upc) = some i) : microTurn s = .run i s := by
  have next : nextUop s.tile = some (smGet 0 s.tile.mem.rstore r.upc) := by rw [nextUop, call]; rfl
  rw [microTurn, next]
  simp only [decoded]

theorem serveTurn_of_command {s : State} {vd : BitVec 8} {c : Cmd} {cs : List Cmd} (h : (getVd vd s).cmdq = c :: cs) :
    serveTurn vd s = .run (commandInstr vd c) s := by
  simp [serveTurn, h]

/-- The turn of a routine, of an interface, of an event and of a health record (log entry 2). -/
theorem turn_runs {s : State} {p : Nat} {rest : List Turn} {i : Instr} {vd : BitVec 8} {c : Cmd} {cs : List Cmd} {mc : MCallSnap} {r : MRun}
    {n : Nat} (power : s.mod.power ≠ .fatal) :
    (s.agenda = .micro p :: rest → p < 512 → runCall (focusOn p s).tile.eng = some (mc, r) →
        decodeMicro (smGet 0 (focusOn p s).tile.mem.rstore r.upc) = some i → step s = keepAgenda rest (exec i (focusOn p s)))
      ∧ (s.agenda = .serve vd :: rest → (getVd vd s).cmdq = c :: cs → step s = keepAgenda rest (exec (commandInstr vd c) s))
      ∧ (s.agenda = .event p i :: rest → p < 512 → step s = keepAgenda rest (exec i (focusOn p s)))
      ∧ (s.agenda = .health n :: rest → step s = keepAgenda rest (exec (.healthRecord n) s)) := by
  have clear := standsFatal_of_power power
  refine ⟨fun agenda tile call decoded => ?_, fun agenda waiting => ?_, fun agenda tile => ?_, fun agenda => ?_⟩
  · rw [step_cons agenda, takeTurn_micro (clear _) tile, microTurn_of_decoded call decoded]; rfl
  · rw [step_cons agenda, takeTurn_serve (clear _), serveTurn_of_command waiting]; rfl
  · rw [step_cons agenda, takeTurn_event (clear _) tile]; rfl
  · rw [step_cons agenda, takeTurn_health (clear _)]; rfl

/-- The module resets at the boundary after an accepted image, and its start comes first (R487, R488). -/
theorem nextCycle_of_accepted {s : State} (power : s.mod.power = .recovery) (accepted : s.mod.rstat = .accepted) :
    (nextCycle s).mod.power = .starting ∧ (nextCycle s).mod.fw = s.mod.fw ∧ (nextCycle s).mod.blob = s.mod.blob
      ∧ (nextCycle s).mem.flash = s.mem.flash ∧ (nextCycle s).mem.lines = []
      ∧ (nextCycle s).agenda.head? = some (.event 0 .moduleStart) ∧ ∀ vd, (getVd vd (nextCycle s)).tstate = .unlocked := by
  have reset : resetRound s = moduleReset s := if_pos ⟨power, accepted⟩
  obtain ⟨mod, flash, lines⟩ := moduleReset_kept s
  have steady := boundary_mod s
  rw [reset, mod] at steady
  have start : (boundary s).mod.power = .starting := (eq_of_steady steady Mod.power fun _ => rfl).trans (passTime_power _)
  have fw := (eq_of_steady steady Mod.fw fun _ => rfl).trans (passTime_fw _)
  have blob := (eq_of_steady steady Mod.blob fun _ => rfl).trans (passTime_blob _)
  simp only [nextCycle_eq, drawTurns_mod, drawTurns_mem, drawTurns_agenda, getVd_drawTurns]
  refine ⟨start, fw, blob, (boundary_flash s).trans (by rw [reset, flash]), (boundary_lines s).trans (by rw [reset, lines]), ?_,
    fun vd => (boundary_tstate s vd).trans (by rw [reset, moduleReset_tstate])⟩
  simp [cycleTurns, startTurns, start]

theorem boundary_of_fatal {s : State} (h : s.mod.power = .fatal) : (boundary s).tile.mem = s.tile.mem ∧ (boundary s).mem = s.mem := by
  have reset : resetRound s = s := if_neg (by simp [h])
  have fatal : (onMod passTime s).mod.power = .fatal := (passTime_power s.mod).trans h
  have stands : clockRuns (onMod passTime s).mod = false := by rw [clockRuns, fatal]; rfl
  have round : beginCompute (worldRound (onMod passTime s)) = onMod passTime s := by
    rw [worldRound, if_pos fatal, beginCompute, stands]
    rfl
  rw [boundary, reset, round, noteIdle_tile, noteIdle_mem]
  exact ⟨rfl, rfl⟩

/-- Settles O44: what each turn runs, and the clocks of a boundary by `passTime`, which no error or service of its round touches. -/
theorem turnsAndClocks : Obligations.TurnsAndClocks := by
  intro s p t rest i vd c cs mc r n
  refine ⟨turn_runs, fun fatal agenda other => ?_, fun agenda power accepted => ⟨_, step_nil agenda, nextCycle_of_accepted power accepted⟩,
    fun agenda plain => ⟨_, step_nil agenda, ?_⟩⟩
  · have stands : standsFatal t s.mod = true := by
      rw [standsFatal, fatal, bne_iff_ne.mpr other]
      rfl
    rw [step_cons agenda, takeTurn_of_fatal stands]
    rfl
  have reset : resetRound s = s := if_neg plain
  have steady := boundary_mod s
  rw [reset] at steady
  have cycle := eq_of_steady steady Mod.cycle fun _ => rfl
  have time := eq_of_steady steady Mod.time fun _ => rfl
  have cyc := eq_of_steady steady Mod.cycTime fun _ => rfl
  have prev := eq_of_steady steady Mod.prevTime fun _ => rfl
  have sub := eq_of_steady steady Mod.sub fun _ => rfl
  simp only [nextCycle_eq, drawTurns_mod, drawTurns_mem, drawTurns_flume, drawTurns_tile, getBind_drawTurns]
  refine ⟨(boundary_dmem s).trans (by rw [reset]), (boundary_hmem s).trans (by rw [reset]), (boundary_flume s).trans (by rw [reset]),
    boundary_of_fatal, fun stands => ?_, fun runs => ?_⟩
  · simp [cycle, time, prev, passTime, stands]
  · refine ⟨?_, ?_, ?_, boundary_runc reset runs n, fun early => ?_, fun late => ?_⟩
    · simp [cycle, passTime, runs]
    · simp [prev, passTime, runs]
    · simp [cyc, time, passTime, runs]
    · simp [time, sub, passTime, runs, Nat.not_le.mpr early]
    · simp [time, sub, passTime, runs, late]

end Sys2Proof.Proofs
end

section
/-! Proofs for 01_machine.md: what the issue of a syllable leaves of its tile's memories (R27, R43). -/

namespace Sys2Proof.Proofs

open Sys2Proof Sys2Proof.Machine Sys2Proof.Safety Sys2Proof.Laws

/-! ## Latches, engines, faults -/

section

variable (s : State)

@[simp] theorem refresh_tile_mem (x : Src) (f : Regs → Regs) : (refresh x f s).tile.mem = s.tile.mem := by
  unfold refresh
  split <;> rfl

@[simp] theorem latchSa_tile_mem (x : Src) (v : Word) : (latchSa x v s).tile.mem = s.tile.mem := refresh_tile_mem s x _
@[simp] theorem latchSb_tile_mem (x : Src) (v : Word) : (latchSb x v s).tile.mem = s.tile.mem := refresh_tile_mem s x _
@[simp] theorem latchVa_tile_mem (x : Src) (v : VWord) : (latchVa x v s).tile.mem = s.tile.mem := refresh_tile_mem s x _
@[simp] theorem latchVb_tile_mem (x : Src) (v : VWord) : (latchVb x v s).tile.mem = s.tile.mem := refresh_tile_mem s x _
@[simp] theorem latchVc_tile_mem (x : Src) (v : VWord) : (latchVc x v s).tile.mem = s.tile.mem := refresh_tile_mem s x _
@[simp] theorem latchMa_tile_mem (x : Src) (v : VWord) : (latchMa x v s).tile.mem = s.tile.mem := refresh_tile_mem s x _
@[simp] theorem latchMb_tile_mem (x : Src) (v : VWord) : (latchMb x v s).tile.mem = s.tile.mem := refresh_tile_mem s x _

@[simp] theorem pushRes_tile_mem (slot cls : Nat) (flags : BitVec 5) (r : Result) : (pushRes slot cls flags r s).tile.mem = s.tile.mem := rfl

@[simp] theorem pushV_tile_mem (i : State) (cls : Nat) (d : Reg) (o : VOut) : (pushV i cls d o s).tile.mem = s.tile.mem := rfl

@[simp] theorem pushPair_tile_mem (i : State) (pd pe : BitVec 5) (c : Bool) : (pushPair i pd pe c s).tile.mem = s.tile.mem := rfl

@[simp] theorem takeTransfer_tile_mem (a : Word) : (takeTransfer a s).tile.mem = s.tile.mem := rfl

@[simp] theorem mqPush_tile_mem (j : MJob) (fp : List FRange) : (mqPush j fp s).tile.mem = s.tile.mem := rfl

@[simp] theorem sqPush_tile_mem (e : SqEntry) : (sqPush e s).tile.mem = s.tile.mem := rfl

@[simp] theorem onQueue_tile_mem (q : BitVec 2) (f : List CJob → List CJob) : (onQueue q f s).tile.mem = s.tile.mem := rfl

theorem raiseDeferred_tile_mem (f : TFault) : (raiseDeferred f s).tile.mem = s.tile.mem := by
  unfold raiseDeferred
  split
  · rfl
  · exact takeFault_tile_mem f s

@[simp] theorem raiseEngine_tile_mem (code : BitVec 8) (engine cause tag : Nat) (detail : BitVec 256) :
    (raiseEngine code engine cause tag detail s).tile.mem = s.tile.mem := raiseDeferred_tile_mem _ _

@[simp] theorem jcbFault_tile_mem (cause : Nat) : (jcbFault cause s).tile.mem = s.tile.mem := raiseEngine_tile_mem s _ _ _ _ _

@[simp] theorem copyFault_tile_mem (q : BitVec 2) (cause : Nat) (tag : BitVec 8) (a : Nat) :
    (copyFault q cause tag a s).tile.mem = s.tile.mem := raiseEngine_tile_mem _ _ _ _ _ _

@[simp] theorem matrixFault_tile_mem (keep : Bool) (cause : Nat) (tag : BitVec 8) : (matrixFault keep cause tag s).tile.mem = s.tile.mem :=
  raiseEngine_tile_mem _ _ _ _ _ _

@[simp] theorem boardEngine_tile_mem (card : Nat) : (boardEngine card s).tile.mem = s.tile.mem := raiseEngine_tile_mem _ _ _ _ _ _

theorem killQueues_tile_mem (qs : List (BitVec 2)) : (killQueues qs s).tile.mem = s.tile.mem := by
  induction qs generalizing s with
  | nil => rfl
  | cons q qs ih => exact ih (onQueue q killJobs s)

/-! ## Ports -/

theorem waitmRead_tile_mem (w : Width) (v : Word) : (outState (waitmRead w v s)).tile.mem = s.tile.mem :=
  (gAccess_keeps s _ _ _ _ _ _ _ _ _).tileMem

theorem waitmJudge_tile_mem (w : Width) (a : Src) : (waitmJudge w a s).tile.mem = s.tile.mem := by
  have read := waitmRead_tile_mem s w (srcSa s.tile.regs a)
  unfold waitmJudge
  simp only
  split
  · split
    · next h => rwa [h] at read
    · rfl
  · rfl

@[simp] theorem noteT0_tile_mem (t : Reg) : (noteT0 t s).tile.mem = s.tile.mem := by
  unfold noteT0
  split <;> rfl

theorem waitmReach_tile_mem (w : Width) (t : Reg) (a b : Src) : (waitmReach w t a b s).tile.mem = s.tile.mem := by
  have read := waitmRead_tile_mem (noteT0 t s) w (srcSa s.tile.regs a)
  rw [noteT0_tile_mem] at read
  unfold waitmReach
  simp only
  split
  · split
    · next h => rwa [h] at read
    · next h => rwa [h] at read
    · exact noteT0_tile_mem s t
  · exact noteT0_tile_mem s t

theorem atPort_tile_mem (va : Word) : (atPort va s).2.tile.mem = s.tile.mem := by
  have translated := (xlate_keeps s (ownCluster s) s.tile.place.vd va.toNat true true s.tile.place.slot).tileMem
  unfold atPort
  simp only
  split
  · next h => rwa [h] at translated
  · next h => rwa [h] at translated
  · next h => rwa [h] at translated
  · next h =>
    rw [h] at translated
    split <;> exact translated

theorem countHold_tile_mem (vd : BitVec 8) (old : Option Hold) (h : Hold) : (countHold vd old h s).tile.mem = s.tile.mem :=
  (countHold_keeps s vd old h).tileMem

theorem tileHeld_tile_mem (vd : BitVec 8) (va : Nat) : (tileHeld vd va s).tile.mem = s.tile.mem := countHold_tile_mem _ _ _ _

theorem portReach_tile_mem (w : Width) (o : Order) (sc : Scope) (va : Word) : (portReach w o sc va s).tile.mem = s.tile.mem := by
  have port := atPort_tile_mem s va
  unfold portReach
  split
  · rfl
  · split
    · next h =>
      rw [h] at port
      exact (countHold_tile_mem _ _ _ _).trans port
    · next h => rwa [h] at port
    · rfl
    · rfl

theorem takeEnt_tile_mem (e : TlbEnt) (w : Width) (op : Option AmoOp) (va : Word) : (takeEnt e w op va s).2.tile.mem = s.tile.mem := by
  unfold takeEnt
  split
  · exact (countEnt_keeps s _ _ _ _).tileMem
  · rfl

theorem copyAhead_tile_mem (e : TlbEnt) (va : Word) : (copyAhead e va s).tile.mem = s.tile.mem := by
  unfold copyAhead
  split
  · cases h : snapCopy s.tile.place.vd va.toNat (farAddr e va.toNat) s with
    | none => rfl
    | some t => exact (snapCopy_keeps s h).tileMem
  · rfl

theorem beginAtomic_tile_mem (a : GAccess) : (beginAtomic a s).tile.mem = s.tile.mem := by
  have port := atPort_tile_mem s a.va
  unfold beginAtomic
  split
  · next h =>
    rw [h] at port
    exact ((copyAhead_tile_mem _ _ _).trans (takeEnt_tile_mem _ _ _ _ _)).trans port
  · next h =>
    rw [h] at port
    exact (raiseDeferred_tile_mem _ _).trans port
  · next h => rwa [h] at port
  · next h => rwa [h] at port

theorem armMonitor_tile_mem (va : Word) : (armMonitor va s).2.tile.mem = s.tile.mem := by
  have looked := (look_keeps s (ownCluster s) s.tile.place.vd va.toNat).tileMem
  unfold armMonitor
  split
  · rfl
  · split
    · rfl
    · split
      · next h => rwa [h] at looked
      · next h => rwa [h] at looked
      · next h => rwa [h] at looked

theorem hintLine_tile_mem (reads : Bool) (va : Nat) : (hintLine reads va s).2.tile.mem = s.tile.mem := by
  have looked := (look_keeps s (ownCluster s) s.tile.place.vd va).tileMem
  unfold hintLine
  split
  · rfl
  · split
    · next h => rwa [h] at looked
    · next h => rwa [h] at looked
    · next h => rwa [h] at looked

theorem prefLine_tile_mem (hint : Word) (va : Nat) : (prefLine hint s va).tile.mem = s.tile.mem := by
  have line := hintLine_tile_mem s true va
  unfold prefLine
  split
  · next h => rwa [h] at line
  · next h =>
    rw [h] at line
    exact (touchLine_keeps _ _ _ _ _ _).tileMem.trans line

theorem slchLine_tile_mem (va : Nat) : (slchLine s va).tile.mem = s.tile.mem := by
  have line := hintLine_tile_mem s false va
  unfold slchLine
  split
  · next h => rwa [h] at line
  · next h =>
    rw [h] at line
    split
    · split <;> exact line
    · exact line

theorem foldl_tile_mem {α : Type} {f : State → α → State} (h : ∀ s x, (f s x).tile.mem = s.tile.mem) (xs : List α) :
    (xs.foldl f s).tile.mem = s.tile.mem := by
  induction xs generalizing s with
  | nil => rfl
  | cons x xs ih => exact (ih _).trans (h s x)

/-! ## Engines and jobs -/

theorem enterCopy_tile_mem (i : State) (a : Word) (disp : Option Word) (q : BitVec 2) : (enterCopy i a disp q s).tile.mem = s.tile.mem := by
  unfold enterCopy
  simp only
  split
  · exact copyFault_tile_mem s _ _ _ _
  · rfl

theorem enterCall_tile_mem (delta : Bool) (i : State) (routine tag : BitVec 8) (pa1 pb1 : BitVec 3) :
    (enterCall delta i routine tag pa1 pb1 s).tile.mem = s.tile.mem := by
  unfold enterCall
  split
  · rfl
  · exact matrixFault_tile_mem s _ _ _

theorem enterBoard_tile_mem (t : Tile) (win : Window) (repair : Bool) (a : Nat) : (enterBoard t win repair a s).tile.mem = s.tile.mem := by
  unfold enterBoard
  simp only
  split
  · exact boardEngine_tile_mem s a
  · rfl

theorem jraiseEff_tile_mem (v : Word) : (jraiseEff v s).tile.mem = s.tile.mem := by
  unfold jraiseEff
  simp only
  split
  · rfl
  · split
    · exact jcbFault_tile_mem s _
    · split
      · exact jcbFault_tile_mem s _
      · rfl

theorem jdoneEff_tile_mem : (jdoneEff s).tile.mem = s.tile.mem := by
  unfold jdoneEff
  simp only
  split
  · rfl
  · split
    · exact jcbFault_tile_mem s _
    · rfl

/-- The state in which an update of a job control block ends. -/
def jcbState : JcbOut → State
  | .done s | .over s | .held s => s

theorem unitRecord_tile_mem (vd : BitVec 8) (stream gen : BitVec 16) (code : BitVec 8) (engine cause : Nat) :
    (unitRecord vd stream gen code engine cause s).tile.mem = s.tile.mem := by
  unfold unitRecord
  simp only
  split <;> rfl

theorem sysPart_tile_mem_of_eq {s t : State} {vd : BitVec 8} {va n : Nat} {reads writes dev : Bool} {f : Change} {x : Option (List Byte)}
    (h : sysPart vd va n reads writes dev f s = (x, t)) : t.tile.mem = s.tile.mem := by
  have kept := (sysPart_keeps s vd va n reads writes dev f).tileMem
  rwa [h] at kept

theorem jcbUpdate_tile_mem (r : JcbRef) (raise n : Nat) : (jcbState (jcbUpdate r raise n s)).tile.mem = s.tile.mem := by
  unfold jcbUpdate
  split
  · rfl
  · simp only
    split
    · next t h =>
      have part := sysPart_tile_mem_of_eq h
      exact (unitRecord_tile_mem _ _ _ _ _ _ _).trans part
    · next old t h =>
      have part := sysPart_tile_mem_of_eq h
      split
      · exact part
      · split <;> exact part

theorem commitPend_tile_mem : (commitPend s).tile.mem = s.tile.mem := by
  unfold commitPend
  simp only
  split
  · rfl
  · have update := jcbUpdate_tile_mem (onPlace (fun p => { p with pend := 0 }) s) (jcbOf (ownBind s)) s.tile.place.pend.toNat 0
    split
    · next h => rwa [h] at update
    · next h =>
      rw [h] at update
      exact (jcbFault_tile_mem _ _).trans update
    · rfl

theorem endTile_tile_mem : (endTile s).tile.mem = s.tile.mem := by
  simp only [endTile, leaveIfEnded_tile, takePending, takeFaults_tile_mem]
  rfl

theorem postTrap_tile_mem : (postTrap s).tile.mem = s.tile.mem := by
  unfold postTrap
  split
  · unfold postTrapNow
    split
    · rfl
    · simp only [modOwnBind_tile, haltOthers_tile (g := Tile.mem) (fun _ _ => rfl) stopTile_mem]
      rfl
  · rfl

theorem trapTile_tile_mem (pc : Word) (code : BitVec 16) : (trapTile pc code s).tile.mem = s.tile.mem := by
  simp only [trapTile, postTrap_tile_mem, onCtl_tile_mem, takePending, takeFaults_tile_mem]
  rfl

theorem barArrive_tile_mem (k : BarKind) (e : BitVec 5) : (barArrive k e s).tile.mem = s.tile.mem := by
  simp only [barArrive, onTile_tile]
  split <;> rfl

end

/-! ## The issue of a syllable -/

/-- What a syllable does beside its effect leaves the memories of its tile. -/
structure SidesKeepMem (o : SlotOp) : Prop where
  judge : ∀ s, (o.judge s).tile.mem = s.tile.mem
  reach : ∀ s, (o.reach s).tile.mem = s.tile.mem
  held  : ∀ s, (o.held s).tile.mem = s.tile.mem
  post  : ∀ i s, (o.post i s).tile.mem = s.tile.mem

/-- No syllable changes a memory of its tile but by its effect. -/
theorem sidesKeepMem_of_slotOp {i : Instr} {o : SlotOp} (h : slotOp i = some o) : SidesKeepMem o := by
  cases i <;> cases h
  case waitm => exact ⟨fun s => waitmJudge_tile_mem s _ _, fun s => waitmReach_tile_mem s _ _ _ _, fun _ => rfl, fun _ _ => rfl⟩
  case amo | acas => exact ⟨fun _ => rfl, fun s => portReach_tile_mem s _ _ _ _, fun _ => rfl, fun _ _ => rfl⟩
  case next =>
    refine ⟨fun _ => rfl, fun s => ?_, fun _ => rfl, fun _ _ => rfl⟩
    simp only [nextOp]
    split
    · exact tileHeld_tile_mem s _ _
    · rfl
  case bar => exact ⟨fun _ => rfl, fun _ => rfl, fun s => barArrive_tile_mem s _ _, fun _ _ => rfl⟩
  case endTask => exact ⟨fun _ => rfl, fun _ => rfl, fun _ => rfl, fun _ s => endTile_tile_mem s⟩
  case trap => exact ⟨fun _ => rfl, fun _ => rfl, fun _ => rfl, fun _ s => trapTile_tile_mem s _ _⟩
  case ckill => exact ⟨fun _ => rfl, fun _ => rfl, fun _ => rfl, fun _ s => killQueues_tile_mem s _⟩
  case vperm two _ _ _ _ _ => cases two <;> exact ⟨fun _ => rfl, fun _ => rfl, fun _ => rfl, fun _ _ => rfl⟩
  all_goals exact ⟨fun _ => rfl, fun _ => rfl, fun _ => rfl, fun _ _ => rfl⟩

theorem guarded_singleton (o : SlotOp) (s : State) : guarded [o] s = if o.on s then [o] else [] := by
  simp only [guarded, List.filter_cons, List.filter_nil]

theorem guarded_subset (o : SlotOp) (s : State) : guarded [o] s ⊆ [o] := List.filter_sublist.subset

theorem noteHold_tile_mem {o : SlotOp} (k : SidesKeepMem o) (s : State) : (noteHold [o] s).tile.mem = s.tile.mem := by
  have reached : ((guarded [o] s).foldl (fun t o => o.reach t) s).tile.mem = s.tile.mem := by
    rw [guarded_singleton]
    split
    · exact k.reach s
    · rfl
  unfold noteHold
  simp only
  split
  · exact reached
  · split
    · next h =>
      have mem := List.mem_of_mem_filter (h ▸ List.mem_singleton_self _)
      obtain rfl := List.mem_singleton.mp (guarded_subset o s mem)
      exact (k.held _).trans reached
    · exact reached

theorem performedBy_tile_mem {o : SlotOp} (k : SidesKeepMem o) (s : State) : (performedBy o s).tile.mem = (o.eff s s).tile.mem := by
  rw [performedBy, endCycle_tile_mem, k.post, advance_tile_mem]

/-- A syllable that issues alone leaves the memories of its tile, or changes them as its effect does. -/
theorem issue_tile_mem {o : SlotOp} (k : SidesKeepMem o) (s : State) :
    (issueOps [o] s).tile.mem = s.tile.mem ∨ (o.on s = true ∧ (issueOps [o] s).tile.mem = (o.eff s s).tile.mem) := by
  rcases issue_cases o s with h | ⟨f, -, -, h⟩ | ⟨f, -, -, h⟩ | ⟨-, -, h⟩ | ⟨-, -, h⟩ | ⟨n, h⟩ | ⟨-, h⟩ | ⟨on, h⟩ <;> rw [h]
  · exact .inl (heldCounted_tile_mem s)
  · exact .inl ((takeFault_tile_mem f _).trans (k.judge s))
  · exact .inl (takeFault_tile_mem f s)
  · exact .inl ((heldHaltable_tile_mem _).trans (noteHold_tile_mem k s))
  · exact .inl ((heldHaltable_tile_mem _).trans (noteHold_tile_mem k _))
  · exact .inl (heldCounted_tile_mem _)
  · exact .inl ((endCycle_tile_mem _ _ _).trans (advance_tile_mem s s))
  · exact .inr ⟨on, performedBy_tile_mem k s⟩

/-! ## The effects of the syllables that store nothing -/

/-- The effect of a syllable leaves the memories of its tile. -/
def EffKeepsMem (o : SlotOp) : Prop := ∀ i s, (o.eff i s).tile.mem = s.tile.mem

section

variable (h : Hdr) (d : Reg) (a b c : Src)

theorem sOp1_keepsMem (cls : Nat) (f : Word → Word) : EffKeepsMem (sOp1 h cls d a f) := fun _ s => latchSa_tile_mem s _ _

theorem sOp2_keepsMem (cls : Nat) (f : Word → Word → Word) : EffKeepsMem (sOp2 h cls d a b f) := fun _ s => by simp [sOp2]

theorem vOp1_keepsMem (cls : Nat) (f : Regs → VWord → VOut) : EffKeepsMem (vOp1 h cls d a f) := fun _ s => by simp [vOp1]

theorem vOp2_keepsMem (cls : Nat) (f : Regs → VWord → VWord → VOut) : EffKeepsMem (vOp2 h cls d a b f) := fun _ s => by simp [vOp2]

theorem vOp3_keepsMem (cls : Nat) (f : Regs → VWord → VWord → VWord → VOut) : EffKeepsMem (vOp3 h cls d a b c f) := fun _ s => by simp [vOp3]

theorem viOp2_keepsMem (ty : ElemTy) (sat : Bool) (m : VMask) (f : Int → Int → Int) : EffKeepsMem (viOp2 h ty sat m d a b f) :=
  vOp2_keepsMem h d a b _ _

theorem vbOp2_keepsMem (ty : ElemTy) (m : VMask) (f : Nat → Nat → Nat) : EffKeepsMem (vbOp2 h ty m d a b f) := vOp2_keepsMem h d a b _ _

theorem vfOp2_keepsMem (cls : Nat) (ty : ElemTy) (m : VMask) (f : Bool → FVal → FVal → Flagged Nat) :
    EffKeepsMem (vfOp2 h cls ty m d a b f) := vOp2_keepsMem h d a b _ _

theorem vloadOp_keepsMem (w : Nat) (fault : State → Option TFault) (es : Regs → List (Nat × Word)) : EffKeepsMem (vloadOp h w d fault es) :=
  fun _ _ => rfl

theorem cpJob_keepsMem (j : Word → Word → MJob) : EffKeepsMem (cpJob h a b j) := fun _ s => by simp [cpJob]

theorem ldg_keepsMem (w : Width) (o : Order) (sd : ScopeDisp) : EffKeepsMem (ldgOp h w o d a sd) := fun _ s => latchSa_tile_mem s _ _

theorem loop_keepsMem (level : BitVec 3) (rotate : Bool) (len1 : BitVec 6) : EffKeepsMem (loopOp h level d rotate len1) := fun _ s => by
  simp only [loopOp]
  split <;> rfl

theorem waitm_keepsMem (w : Width) : EffKeepsMem (waitmOp h w d a b) := fun i s => by
  have read := waitmRead_tile_mem s w (srcSa i.tile.regs a)
  simp only [waitmOp, onEng_tile_mem, latchSb_tile_mem, latchSa_tile_mem]
  split
  · rfl
  · split
    · next h => rwa [h] at read
    · rfl

theorem next_keepsMem (pe : BitVec 5) : EffKeepsMem (nextOp h d pe) := fun i s => by
  simp only [nextOp]
  split <;> exact commitPend_tile_mem s

theorem xmit_keepsMem (dir : Dir) : EffKeepsMem (xmitOp h dir d) := fun i s => by
  simp only [xmitOp]
  split
  · exact modTile_tile Tile.mem (by exact fun _ => rfl) _ s
  · rfl

theorem pref_keepsMem (aux : Reg) : EffKeepsMem (prefOp h d aux) := fun i s => by
  simp only [prefOp]
  split
  · rfl
  · exact foldl_tile_mem s (fun s x => prefLine_tile_mem s _ x) _

theorem slch_keepsMem (aux : Reg) : EffKeepsMem (slchOp h d aux) := fun i s => by
  simp only [slchOp]
  split
  · rfl
  · exact foldl_tile_mem s slchLine_tile_mem _

theorem copyOp_keepsMem (aux : Option Reg) (q : BitVec 2) : EffKeepsMem (copyOp h d aux q) := fun _ s => enterCopy_tile_mem s _ _ _ _

theorem mldr_keepsMem : EffKeepsMem (mldrOp h a b) := fun i s => by
  simp only [mldrOp]
  split <;> simp

theorem vperm_keepsMem (ty : ElemTy) (two : Bool) (m : VMask) : EffKeepsMem (vpermOp h ty two m d a b c) := by
  unfold vpermOp
  split
  · exact vOp3_keepsMem h d a b c _ _
  · exact vOp2_keepsMem h d a b _ _

end

/-- No syllable but the storing ones changes a memory of its tile (R27). -/
theorem effKeepsMem_of_slotOp {i : Instr} {o : SlotOp} (h : slotOp i = some o) (plain : storesTile i = false) : EffKeepsMem o := by
  cases i <;> cases h
  case stp | sts | vstp | vst | vsts | vscat | swinit | swadd | tld | mzr | mwr => cases plain
  case addi | andi | ori | xori | shli | shri | clz | popc | ext | movh => exact sOp1_keepsMem _ _ _ _ _
  case add | sub | mul | mulh | and | or | xor | shl | shr | min | max => exact sOp2_keepsMem _ _ _ _ _ _
  case vabs | vpopc | vclz | vmov | vunpk | vred | vscan | pln | upl | vfrnd | vcvt | bsc => exact vOp1_keepsMem _ _ _ _ _
  case vadd | vsub | vmul | vmulh | vmin | vmax => exact viOp2_keepsMem _ _ _ _ _ _ _ _
  case vand | vor | vxor => exact vbOp2_keepsMem _ _ _ _ _ _ _
  case vfadd | vfsub | vfmul | vfmin | vfmax | vfdiv => exact vfOp2_keepsMem _ _ _ _ _ _ _ _
  case vshl | vshr | vsel | vpack | qnt => exact vOp2_keepsMem _ _ _ _ _ _
  case vmadd | vfma | scacc => exact vOp3_keepsMem _ _ _ _ _ _ _
  case vperm => exact vperm_keepsMem _ _ _ _ _ _ _ _
  case vld | vlds | vgath => exact vloadOp_keepsMem _ _ _ _ _
  case cpbind | cpsav | cprst => exact cpJob_keepsMem _ _ _ _
  case cpy | cpys => exact copyOp_keepsMem _ _ _ _
  case mcall | mcalld => exact fun _ s => enterCall_tile_mem s _ _ _ _ _ _
  case board => exact fun _ s => enterBoard_tile_mem s _ _ _ _
  case mldr => exact mldr_keepsMem _ _ _
  case ldg => exact ldg_keepsMem _ _ _ _ _ _
  case amo | acas => exact fun _ s => (beginAtomic_tile_mem _ _).trans (latchSa_tile_mem s _ _)
  case monitor => exact fun _ s => (armMonitor_tile_mem _ _).trans (latchSa_tile_mem s _ _)
  case waitm => exact waitm_keepsMem _ _ _ _ _
  case jraise => exact fun _ s => (jraiseEff_tile_mem _ _).trans (latchSa_tile_mem s _ _)
  case jdone => exact fun _ s => jdoneEff_tile_mem s
  case next => exact next_keepsMem _ _ _
  case loop => exact loop_keepsMem _ _ _ _ _
  case xmit => exact xmit_keepsMem _ _ _
  case pref => exact pref_keepsMem _ _ _
  case slch => exact slch_keepsMem _ _ _
  case yield => exact fun _ s => congrArg Tile.mem (modOwnBind_tile _ s)
  case nop | movi | pand | pset | ldp | br | brt | call | ret | lbrk | endTask | trap | rdsr | bar | xsel | align | fence | cdrn | cstat | ckill
      | mget | mstat | mdrn | cpinvAll | lapw | swrd | kop | vldp => exact fun _ _ => rfl
  case bri | wrsr | ins | cmpi | lds | mbx | mbxw | stg | red => exact fun _ s => latchSa_tile_mem s _ _
  case mset | mrd | cpqry | cpinvLayer => exact fun _ s => latchMa_tile_mem s _ _
  case div | sel | cmp | waits => exact fun _ s => (latchSb_tile_mem _ _ _).trans (latchSa_tile_mem s _ _)
  case vbcast | tli => exact fun _ s => latchVa_tile_mem s _ _
  case vext | vins | vcmp | vfcmpK | vfcmpP => exact fun _ s => (latchVb_tile_mem _ _ _).trans (latchVa_tile_mem s _ _)

end Sys2Proof.Proofs
end

section
/-! Proofs for 01_machine.md: the syllables that store, the bytes they change and the form in which they leave memory (R27, R37, R43). -/

namespace Sys2Proof.Proofs

open Sys2Proof Sys2Proof.Machine Sys2Proof.Safety Sys2Proof.Laws

/-! ## Canonical form -/

theorem tldLoad_wf {n : TMem} {a : Nat} {t : BitVec 2} {m : TMem} (h : tileMemWf m = true) : tileMemWf (tldLoad n a t m) = true := by
  obtain ⟨spad, cpart, spill, poison, tstore, rest⟩ := tileMemWf_iff.mp h
  exact tileMemWf_iff.mpr ⟨spad, cpart, spill, poison, foldl_smPut_wf _ _ _ tstore, rest⟩

/-- A number of `n` bytes written to spill memory, as STP and VSTP do. -/
def spillStore (a n v : Nat) (m : TMem) : TMem := { m with spill := writeB a n v m.spill }

theorem spillStore_wf {a n v : Nat} {m : TMem} (h : tileMemWf m = true) : tileMemWf (spillStore a n v m) = true := by
  obtain ⟨spad, cpart, spill, rest⟩ := tileMemWf_iff.mp h
  exact tileMemWf_iff.mpr ⟨spad, cpart, writeB_wf spill, rest⟩

theorem clearedAcc_wf {m : TMem} (h : tileMemWf m = true) : tileMemWf { m with acc := [], aovf := false } = true := by
  obtain ⟨spad, cpart, spill, poison, tstore, rstore, rentry, -⟩ := tileMemWf_iff.mp h
  exact tileMemWf_iff.mpr ⟨spad, cpart, spill, poison, tstore, rstore, rentry, rfl⟩

/-- The effect of a storing syllable keeps the canonical form. -/
theorem store_wf {i : Instr} {o : SlotOp} (h : slotOp i = some o) (stores : storesTile i = true) {s : State}
    (wf : tileMemWf s.tile.mem = true) : tileMemWf (o.eff s s).tile.mem = true := by
  cases i <;> cases h
  case stp | vstp => exact spillStore_wf wf
  case sts h w r base disp =>
    simp only [stsOp, onMem_tile_mem, latchSa_tile_mem]
    exact spadStore_wf wf
  case swinit => exact spadStore_wf wf
  case swadd => exact syncAdd_wf wf
  case vst | vsts | vscat => exact storeElems_wf wf
  case tld => exact tldLoad_wf wf
  case mzr => exact clearedAcc_wf wf
  case mwr h a b =>
    simp only [mwrOp, onMem_tile_mem, latchMb_tile_mem, latchMa_tile_mem]
    exact writeSlice_wf wf
  all_goals cases stores

/-- Settles O57: a syllable leaves the memories of its tile, or changes them by its effect, which for the storing ones puts entries in
canonical form. -/
theorem syllablesKeepMemoriesCanonical : Obligations.SyllablesKeepMemoriesCanonical := by
  intro s t i o op wf run
  rw [exec_syllable op, run_next] at run
  cases run
  rcases issue_tile_mem (sidesKeepMem_of_slotOp op) s with kept | ⟨-, eff⟩
  · rwa [kept]
  · rw [eff]
    cases stores : storesTile i with
    | true => exact store_wf op stores wf
    | false => rwa [effKeepsMem_of_slotOp op stores]

/-! ## Entries that an update of a table does not touch

No premise on the form of the table: a key other than the one put reads as before, listed twice or out of order though it be. -/

section

variable {α : Type} {d : α}

theorem smGet_smDel_of_ne {k j : Nat} (h : j ≠ k) (m : SMap α) : smGet d (smDel k m) j = smGet d m j := by
  induction m with
  | nil => rfl
  | cons x m ih =>
    simp only [smDel]
    split
    · next hk => rw [smGet, if_neg (by omega)]
    · simp only [smGet, ih]

theorem smGet_smPut_of_ne [DecidableEq α] {k j : Nat} (h : j ≠ k) (v : α) (m : SMap α) : smGet d (smPut d k v m) j = smGet d m j := by
  unfold smPut
  split
  · exact smGet_smDel_of_ne h m
  · rw [smGet_smSet, if_neg h]

end

theorem smGet_writeB_of_outside {a n b : Nat} (h : b < a ∨ a + n ≤ b) (v : Nat) (m : SMap Byte) :
    smGet 0 (writeB a n v m) b = smGet 0 m b := by
  induction n generalizing a v m with
  | zero => rfl
  | succ n ih => rw [writeB, ih (by omega), putB, smGet_smPut_of_ne (by omega)]

/-! ## What a store changes -/

/-- A memory of a tile changed within the scratchpad ranges and the spill range given. -/
structure StoredWithin (rs : List FRange) (sp : Option (Nat × Nat)) (m n : TMem) : Prop where
  spad   : ∀ a, Outside rs a → smGet 0 n.spad a = smGet 0 m.spad a
  spill  : ∀ a, (∀ r, sp = some r → a < r.1 ∨ r.1 + r.2 ≤ a) → smGet 0 n.spill a = smGet 0 m.spill a
  cpart  : n.cpart = m.cpart
  tstore : n.tstore = m.tstore
  thdr   : n.thdr = m.thdr
  rstore : n.rstore = m.rstore
  rentry : n.rentry = m.rentry
  acc    : n.acc = m.acc
  aovf   : n.aovf = m.aovf

theorem StoredWithin.refl (rs : List FRange) (sp : Option (Nat × Nat)) (m : TMem) : StoredWithin rs sp m m :=
  ⟨fun _ _ => rfl, fun _ _ => rfl, rfl, rfl, rfl, rfl, rfl, rfl, rfl⟩

theorem spadStore_within (a n v : Nat) (m : TMem) : StoredWithin [acc a n true] none m (spadStore a n v m) :=
  ⟨fun _ out => smGet_writeB_of_outside (out _ (List.mem_singleton_self _)) v m.spad, fun _ _ => rfl, rfl, rfl, rfl, rfl, rfl, rfl, rfl⟩

theorem spillStore_within (a n v : Nat) (m : TMem) : StoredWithin [] (some (a, n)) m (spillStore a n v m) :=
  ⟨fun _ _ => rfl, fun _ out => smGet_writeB_of_outside (out _ rfl) v m.spill, rfl, rfl, rfl, rfl, rfl, rfl, rfl⟩

theorem storeElems_within (w : Nat) (v : VWord) (es : List (Nat × Word)) (m : TMem) :
    StoredWithin (elemsAccess (w / 8) true es) none m (storeElems w v es m) := by
  refine ⟨fun a out => ?_, fun _ _ => rfl, rfl, rfl, rfl, rfl, rfl, rfl, rfl⟩
  simp only [storeElems]
  generalize m.spad = spad
  induction es generalizing spad with
  | nil => rfl
  | cons e es ih =>
    obtain ⟨first, rest⟩ := List.forall_mem_cons.mp out
    rw [List.foldl_cons, ih rest]
    exact smGet_writeB_of_outside first _ spad

/-! ## The issue of a syllable that only stores -/

/-- A syllable that does nothing beside its effect, which stores within the ranges given and leaves the register files and what lies outside
its tile. -/
structure OnlyStores (rs : List FRange) (sp : Option (Nat × Nat)) (o : SlotOp) (s : State) : Prop where
  judge : o.judge = id
  reach : o.reach = id
  held  : o.held = id
  post  : o.post = fun _ s => s
  eff   : StoredWithin rs sp s.tile.mem (o.eff s s).tile.mem
  files : files (o.eff s s).tile.regs = files s.tile.regs
  mem   : (o.eff s s).mem = s.mem

section

variable {rs : List FRange} {sp : Option (Nat × Nat)} {o : SlotOp} {s : State}

/-- What the issue of such a syllable leaves. -/
structure StoreFrame (rs : List FRange) (sp : Option (Nat × Nat)) (s t : State) : Prop where
  stored : StoredWithin rs sp s.tile.mem t.tile.mem
  files  : files t.tile.regs = files s.tile.regs
  mem    : t.mem = s.mem

theorem StoreFrame.of_eq {t : State} (tileMem : t.tile.mem = s.tile.mem) (files : Safety.files t.tile.regs = Safety.files s.tile.regs)
    (mem : t.mem = s.mem) : StoreFrame rs sp s t := ⟨tileMem ▸ .refl rs sp _, files, mem⟩

theorem noteHold_of_id (reach : o.reach = id) (held : o.held = id) (s : State) : noteHold [o] s = s := by
  have reached : (guarded [o] s).foldl (fun t o => o.reach t) s = s := by
    rw [guarded_singleton]
    split
    · rw [List.foldl_cons, reach]; rfl
    · rfl
  simp only [noteHold, reached]
  split
  · rfl
  · split
    · next h =>
      have mem := List.mem_of_mem_filter (h ▸ List.mem_singleton_self _)
      obtain rfl := List.mem_singleton.mp (guarded_subset o s mem)
      rw [held]
      rfl
    · rfl

/-- With no result in flight, the drain of a halt lands nothing. -/
theorem drainResults_of_inflight_nil {r : Regs} (h : r.inflight = []) : drainResults r = r := by
  cases r
  cases h
  rfl

theorem stopTile_regs {t : Tile} (h : t.regs.inflight = []) : (stopTile t).regs = t.regs := by
  unfold stopTile
  split
  · exact drainResults_of_inflight_nil h
  · rfl

theorem takeFault_tile_regs (f : TFault) (h : s.tile.regs.inflight = []) : (takeFault f s).tile.regs = s.tile.regs := by
  have recorded (fs : List TFault) : (fs.foldl (recordFault s.cur) s).tile.regs = s.tile.regs :=
    recordFaults_tile Tile.regs (fun _ _ => rfl) s.cur fs s
  rw [takeFault, onCtl_tile_regs, takeFaults]
  split
  · rfl
  · rw [onTile_tile, haltOthers_tile_eq, stopTile_regs (by rw [recorded, h]), recorded]

theorem advance_files (i s : State) : files (advance i s).tile.regs = files s.tile.regs :=
  advance_frame (fun s => files s.tile.regs) (fun _ _ => rfl) (fun _ => rfl) i s

/-- Whether it issues, is held or faults, such a syllable changes no more than its effect does. -/
theorem OnlyStores.issue (k : OnlyStores rs sp o s) (drained : s.tile.regs.inflight = []) : StoreFrame rs sp s (issueOps [o] s) := by
  have sides : SidesKeepMem o :=
    ⟨fun _ => by rw [k.judge]; rfl, fun _ => by rw [k.reach]; rfl, fun _ => by rw [k.held]; rfl, fun _ _ => by rw [k.post]⟩
  have fault (f : TFault) : StoreFrame rs sp s (takeFault f s) :=
    .of_eq (takeFault_tile_mem f s) (by rw [takeFault_tile_regs f drained]) (takeFault_mem f s)
  rcases issue_cases o s with h | ⟨f, -, -, h⟩ | ⟨f, -, -, h⟩ | ⟨-, -, h⟩ | ⟨-, -, h⟩ | ⟨n, h⟩ | ⟨-, h⟩ | ⟨-, h⟩ <;> rw [h]
  · exact .of_eq rfl rfl rfl
  · rw [k.judge]; exact fault f
  · exact fault f
  · rw [noteHold_of_id k.reach k.held]; exact .of_eq rfl rfl rfl
  · rw [noteHold_of_id k.reach k.held]; exact .of_eq rfl rfl rfl
  · exact .of_eq rfl rfl rfl
  · exact .of_eq (advance_tile_mem s s) (advance_files s s) (advance_mem s s)
  · refine ⟨performedBy_tile_mem sides s ▸ k.eff, ?_, ?_⟩
    · rw [performedBy, k.post]
      exact (advance_files _ _).trans k.files
    · rw [performedBy, k.post]
      exact (advance_mem _ _).trans k.mem

end

@[simp] theorem latchSa_mem (x : Src) (v : Word) (s : State) : (latchSa x v s).mem = s.mem := by
  unfold latchSa refresh
  split <;> rfl

theorem latchSa_files (x : Src) (v : Word) (s : State) : files (latchSa x v s).tile.regs = files s.tile.regs := by
  unfold latchSa refresh
  split <;> rfl

theorem OnlyStores.of_onMem {rs : List FRange} {sp : Option (Nat × Nat)} {o : SlotOp} {s : State} {f : TMem → TMem} (judge : o.judge = id)
    (reach : o.reach = id) (held : o.held = id) (post : o.post = fun _ s => s) (eff : o.eff s s = onMem f s)
    (within : StoredWithin rs sp s.tile.mem (f s.tile.mem)) : OnlyStores rs sp o s :=
  ⟨judge, reach, held, post, by rwa [eff], by rw [eff, onMem_tile_regs], by rw [eff, onMem_mem]⟩

theorem vstoreOp_onlyStores (h : Hdr) (w : Nat) (r : Reg) (fault : State → Option TFault) (es : Regs → List (Nat × Word)) (s : State) :
    OnlyStores (elemsAccess (w / 8) true (es s.tile.regs)) none (vstoreOp h w r fault es) s :=
  .of_onMem rfl rfl rfl rfl rfl (storeElems_within w _ _ _)

theorem sts_onlyStores (h : Hdr) (w : Width) (r : Reg) (base : Src) (disp : BitVec 26) (s : State) :
    OnlyStores (storedSpad s (.sts h w r base disp)) none (stsOp h w r base disp) s := by
  refine ⟨rfl, rfl, rfl, rfl, ?_, latchSa_files _ _ s, latchSa_mem _ _ s⟩
  simp only [stsOp, onMem_tile_mem, latchSa_tile_mem]
  exact spadStore_within _ _ _ _

theorem stp_onlyStores (h : Hdr) (w : Width) (r : Reg) (disp : BitVec 14) (s : State) :
    OnlyStores [] (some (disp.toNat, Width.size w)) (stpOp h w r disp) s :=
  .of_onMem (f := spillStore disp.toNat (Width.size w) (readG s.tile.regs r).toNat) rfl rfl rfl rfl rfl (spillStore_within _ _ _ _)

theorem vstp_onlyStores (h : Hdr) (r : Reg) (page : BitVec 6) (s : State) :
    OnlyStores [] (some (256 * page.toNat, 256)) (vstpOp h r page) s :=
  .of_onMem (f := spillStore (256 * page.toNat) 256 (readV s.tile.regs r).toNat) rfl rfl rfl rfl rfl (spillStore_within _ _ _ _)

theorem swinit_onlyStores (h : Hdr) (card aux : Reg) (s : State) :
    OnlyStores [acc (readG s.tile.regs card).toNat 16 true] none (swinitOp h card aux) s :=
  .of_onMem rfl rfl rfl rfl (by rw [swinitOp]) (spadStore_within _ _ _ _)

theorem swadd_onlyStores (h : Hdr) (card aux : Reg) (s : State) :
    OnlyStores [acc (readG s.tile.regs card).toNat 16 true] none (swaddOp h card aux) s :=
  .of_onMem (f := syncAdd _ _) rfl rfl rfl rfl rfl (spadStore_within _ _ _ _)

/-- The storing syllables of O56 store at the addresses that their meanings use. -/
theorem onlyStores_of_slotOp {i : Instr} {o : SlotOp} {s : State} (h : slotOp i = some o)
    (addressed : storedSpad s i ≠ [] ∨ (storedSpill i).isSome = true ∨ (vmemRule s i).isSome = true) (stores : storesTile i = true) :
    OnlyStores (storedSpad s i) (storedSpill i) o s := by
  cases i <;> cases h
  case sts => exact sts_onlyStores _ _ _ _ _ s
  case stp => exact stp_onlyStores _ _ _ _ s
  case vstp => exact vstp_onlyStores _ _ _ s
  case swinit => exact swinit_onlyStores _ _ _ s
  case swadd => exact swadd_onlyStores _ _ _ s
  case vst h ty k r base disp => exact vstoreOp_onlyStores h ty.bits r _ (fun r => unitElems r ty k base disp) s
  case vsts h ty k r base stride disp => exact vstoreOp_onlyStores h ty.bits r _ (fun r => strideElems r ty k base stride disp) s
  case vscat h ty k r base index disp => exact vstoreOp_onlyStores h 32 r _ (fun r => indexElems r ty k base index disp) s
  case tld | mzr | mwr => simp [storedSpad, storedSpill, vmemRule] at addressed
  all_goals cases stores

theorem slotOp_of_storesTile {i : Instr} (h : storesTile i = true) : ∃ o, slotOp i = some o := by
  cases i
  case stp | sts | vstp | vst | vsts | vscat | swinit | swadd | tld | mzr | mwr => exact ⟨_, rfl⟩
  all_goals cases h

/-- Settles O56: a storing syllable changes no more than its effect, which stores within its ranges; another changes no memory of its tile,
by issue or by effect. -/
theorem storesChangeOnlyTheirBytes : Obligations.StoresChangeOnlyTheirBytes := by
  refine ⟨fun s t i stores addressed drained run => ?_, fun s t i o op plain run => ?_⟩
  · obtain ⟨o, op⟩ := slotOp_of_storesTile stores
    rw [exec_syllable op, run_next] at run
    cases run
    obtain ⟨⟨spad, spill, cpart, tstore, thdr, rstore, rentry, acc, aovf⟩, files, mem⟩ := (onlyStores_of_slotOp op addressed stores).issue drained
    exact ⟨spad, spill, cpart, tstore, thdr, rstore, rentry, acc, aovf, files, mem⟩
  · rw [exec_syllable op, run_next] at run
    cases run
    rcases issue_tile_mem (sidesKeepMem_of_slotOp op) s with kept | ⟨-, eff⟩
    · exact kept
    · exact eff.trans (effKeepsMem_of_slotOp op plain s s)

end Sys2Proof.Proofs
end

section
/-! Proofs for 02_encoding.md: the fields of a syllable and the codes in them, each read back as it was put together (R39, R50, R51, R53). -/

namespace Sys2Proof.Proofs

open Sys2Proof Sys2Proof.Machine Sys2Proof.Safety Sys2Proof.Laws

/-! ## Splitting a word and putting it together -/

section

variable {m n : Nat}

@[simp] theorem hiBits_append (a : BitVec m) (b : BitVec n) : hiBits m n (a ++ b) = a := BitVec.extractLsb'_append_eq_left
@[simp] theorem loBits_append (a : BitVec m) (b : BitVec n) : loBits m n (a ++ b) = b := BitVec.extractLsb'_append_eq_right

@[simp] theorem hiBits_append_loBits (x : BitVec (m + n)) : hiBits m n x ++ loBits m n x = x := by
  rw [hiBits, loBits, BitVec.extractLsb'_append_extractLsb'_eq_extractLsb' (by omega)]
  exact BitVec.extractLsb'_eq_self

theorem append_loBits {x : BitVec (m + n)} {a : BitVec m} (h : hiBits m n x = a) : a ++ loBits m n x = x := by
  rw [← h, hiBits_append_loBits]

theorem hiBits_append_of_loBits {x : BitVec (m + n)} {b : BitVec n} (h : loBits m n x = b) : hiBits m n x ++ b = x := by
  rw [← h, hiBits_append_loBits]

end

@[simp] theorem isSet_bit (b : Bool) : isSet (bit b) = b := by cases b <;> rfl
@[simp] theorem bit_isSet : ∀ x : BitVec 1, bit (isSet x) = x := by decide
@[simp] theorem isSet_iff : ∀ {x : BitVec 1}, isSet x = true ↔ x = 1 := by decide
theorem flag_ne_one : ∀ {x : BitVec 1}, ¬x = 1 ↔ x = 0 := by decide
@[simp] theorem bit_false : bit false = 0 := rfl

/-! ## Fields -/

@[simp] theorem Syllable.unpack_pack (s : Syllable) : Syllable.unpack s.pack = s := by
  simp only [Syllable.unpack, Syllable.pack, hiBits_append, loBits_append, isSet_bit]
@[simp] theorem Syllable.pack_unpack (w : BitVec 64) : (Syllable.unpack w).pack = w := by
  simp only [Syllable.unpack, Syllable.pack, bit_isSet, hiBits_append_loBits]

theorem Syllable.pack_inj {s t : Syllable} : s.pack = t.pack ↔ s = t :=
  ⟨fun h => by rw [← Syllable.unpack_pack s, h, Syllable.unpack_pack], fun h => by rw [h]⟩

@[simp] theorem SRR.unpack_pack (f : SRR) : SRR.unpack f.pack = f := by simp only [SRR.unpack, SRR.pack, hiBits_append, loBits_append]
@[simp] theorem SRI.unpack_pack (f : SRI) : SRI.unpack f.pack = f := by simp only [SRI.unpack, SRI.pack, hiBits_append, loBits_append]
@[simp] theorem SRIC.unpack_pack (f : SRIC) : SRIC.unpack f.pack = f := by simp only [SRIC.unpack, SRIC.pack, hiBits_append, loBits_append]
@[simp] theorem SBRB.unpack_pack (f : SBRB) : SBRB.unpack f.pack = f := by simp only [SBRB.unpack, SBRB.pack, hiBits_append, loBits_append]
@[simp] theorem SBRT.unpack_pack (f : SBRT) : SBRT.unpack f.pack = f := by simp only [SBRT.unpack, SBRT.pack, hiBits_append, loBits_append]
@[simp] theorem SLP.unpack_pack (f : SLP) : SLP.unpack f.pack = f := by simp only [SLP.unpack, SLP.pack, hiBits_append, loBits_append]
@[simp] theorem SMEM.unpack_pack (f : SMEM) : SMEM.unpack f.pack = f := by simp only [SMEM.unpack, SMEM.pack, hiBits_append, loBits_append]
@[simp] theorem SMEMA.unpack_pack (f : SMEMA) : SMEMA.unpack f.pack = f := by simp only [SMEMA.unpack, SMEMA.pack, hiBits_append, loBits_append]
@[simp] theorem VRR.unpack_pack (f : VRR) : VRR.unpack f.pack = f := by simp only [VRR.unpack, VRR.pack, hiBits_append, loBits_append]
@[simp] theorem VMEM.unpack_pack (f : VMEM) : VMEM.unpack f.pack = f := by simp only [VMEM.unpack, VMEM.pack, hiBits_append, loBits_append]
@[simp] theorem MC.unpack_pack (f : MC) : MC.unpack f.pack = f := by simp only [MC.unpack, MC.pack, hiBits_append, loBits_append]
@[simp] theorem CJ.unpack_pack (f : CJ) : CJ.unpack f.pack = f := by simp only [CJ.unpack, CJ.pack, hiBits_append, loBits_append]

theorem SRR.pack_eq_iff {f : SRR} {w : BitVec 47} : f.pack = w ↔ SRR.unpack w = f :=
  ⟨fun h => by rw [← h, unpack_pack], fun h => by simp only [← h, SRR.pack, SRR.unpack, hiBits_append_loBits]⟩
theorem SRI.pack_eq_iff {f : SRI} {w : BitVec 47} : f.pack = w ↔ SRI.unpack w = f :=
  ⟨fun h => by rw [← h, unpack_pack], fun h => by simp only [← h, SRI.pack, SRI.unpack, hiBits_append_loBits]⟩
theorem SRIC.pack_eq_iff {f : SRIC} {w : BitVec 47} : f.pack = w ↔ SRIC.unpack w = f :=
  ⟨fun h => by rw [← h, unpack_pack], fun h => by simp only [← h, SRIC.pack, SRIC.unpack, hiBits_append_loBits]⟩
theorem SBRB.pack_eq_iff {f : SBRB} {w : BitVec 47} : f.pack = w ↔ SBRB.unpack w = f :=
  ⟨fun h => by rw [← h, unpack_pack], fun h => by simp only [← h, SBRB.pack, SBRB.unpack, hiBits_append_loBits]⟩
theorem SBRT.pack_eq_iff {f : SBRT} {w : BitVec 47} : f.pack = w ↔ SBRT.unpack w = f :=
  ⟨fun h => by rw [← h, unpack_pack], fun h => by simp only [← h, SBRT.pack, SBRT.unpack, hiBits_append_loBits]⟩
theorem SLP.pack_eq_iff {f : SLP} {w : BitVec 47} : f.pack = w ↔ SLP.unpack w = f :=
  ⟨fun h => by rw [← h, unpack_pack], fun h => by simp only [← h, SLP.pack, SLP.unpack, hiBits_append_loBits]⟩
theorem SMEM.pack_eq_iff {f : SMEM} {w : BitVec 47} : f.pack = w ↔ SMEM.unpack w = f :=
  ⟨fun h => by rw [← h, unpack_pack], fun h => by simp only [← h, SMEM.pack, SMEM.unpack, hiBits_append_loBits]⟩
theorem SMEMA.pack_eq_iff {f : SMEMA} {w : BitVec 47} : f.pack = w ↔ SMEMA.unpack w = f :=
  ⟨fun h => by rw [← h, unpack_pack], fun h => by simp only [← h, SMEMA.pack, SMEMA.unpack, hiBits_append_loBits]⟩
theorem VRR.pack_eq_iff {f : VRR} {w : BitVec 47} : f.pack = w ↔ VRR.unpack w = f :=
  ⟨fun h => by rw [← h, unpack_pack], fun h => by simp only [← h, VRR.pack, VRR.unpack, hiBits_append_loBits]⟩
theorem VMEM.pack_eq_iff {f : VMEM} {w : BitVec 47} : f.pack = w ↔ VMEM.unpack w = f :=
  ⟨fun h => by rw [← h, unpack_pack], fun h => by simp only [← h, VMEM.pack, VMEM.unpack, hiBits_append_loBits]⟩
theorem MC.pack_eq_iff {f : MC} {w : BitVec 47} : f.pack = w ↔ MC.unpack w = f :=
  ⟨fun h => by rw [← h, unpack_pack], fun h => by simp only [← h, MC.pack, MC.unpack, hiBits_append_loBits]⟩
theorem CJ.pack_eq_iff {f : CJ} {w : BitVec 47} : f.pack = w ↔ CJ.unpack w = f :=
  ⟨fun h => by rw [← h, unpack_pack], fun h => by simp only [← h, CJ.pack, CJ.unpack, hiBits_append_loBits]⟩

/-! ## Codes -/

theorem ElemTy.ofCode_eq_some {c t} : ElemTy.ofCode c = some t ↔ t.code = c := by cases t <;> revert c <;> decide
theorem Width.ofCode_eq_some {c t} : Width.ofCode c = some t ↔ t.code = c := by cases t <;> revert c <;> decide
theorem FenceKind.ofCode_eq_some {c t} : FenceKind.ofCode c = some t ↔ t.code = c := by cases t <;> revert c <;> decide
theorem VCond.ofCode_eq_some {c t} : VCond.ofCode c = some t ↔ t.code = c := by cases t <;> revert c <;> decide
theorem FCond.ofCode_eq_some {c t} : FCond.ofCode c = some t ↔ t.code = c := by cases t <;> revert c <;> decide
theorem MulhOp.ofCode_eq_some {c t} : MulhOp.ofCode c = some t ↔ t.code = c := by cases t <;> revert c <;> decide
theorem DivOp.ofCode_eq_some {c t} : DivOp.ofCode c = some t ↔ t.code = c := by cases t <;> revert c <;> decide
theorem PandOp.ofCode_eq_some {c t} : PandOp.ofCode c = some t ↔ t.code = c := by cases t <;> revert c <;> decide
theorem AmoOp.ofCode_eq_some {c t} : AmoOp.ofCode c = some t ↔ t.code = c := by cases t <;> revert c <;> decide
theorem RedOp.ofCode_eq_some {c t} : RedOp.ofCode c = some t ↔ t.code = c := by cases t <;> revert c <;> decide
theorem KopOp.ofCode_eq_some {c t} : KopOp.ofCode c = some t ↔ t.code = c := by cases t <;> revert c <;> decide
theorem BarKind.ofCode_eq_some {c t} : BarKind.ofCode c = some t ↔ t.code = c := by cases t <;> revert c <;> decide
theorem Window.ofCode_eq_some {c t} : Window.ofCode c = some t ↔ t.code = c := by cases t <;> revert c <;> decide
theorem QSel.ofCode_eq_some {c t} : QSel.ofCode c = some t ↔ t.code = c := by
  cases t with
  | one q => revert c q; decide
  | all => revert c; decide
theorem Scope.ofCode_eq_some {sc e t} : Scope.ofCode sc e = some t ↔ t.code = sc ∧ t.entry = e := by
  cases t with
  | group g => revert sc e g; decide
  | tile | region | device | system => revert sc e; decide
theorem ScopeDisp.ofCode_eq_some {sc d t} : ScopeDisp.ofCode sc d = some t ↔ t.code = sc ∧ t.field = d := by
  constructor
  · intro h
    unfold ScopeDisp.ofCode at h
    split at h <;> cases h <;> simp_all [ScopeDisp.code, ScopeDisp.field, BitVec.toNat_eq_nat, -Nat.reduceAdd]
  · rintro ⟨rfl, rfl⟩
    cases t <;> simp only [ScopeDisp.code, ScopeDisp.field, ScopeDisp.ofCode, hiBits_append, loBits_append] <;> rfl

@[simp] theorem ElemTy.ofCode_code (t : ElemTy) : ElemTy.ofCode t.code = some t := ElemTy.ofCode_eq_some.mpr rfl
@[simp] theorem Width.ofCode_code (t : Width) : Width.ofCode t.code = some t := Width.ofCode_eq_some.mpr rfl
@[simp] theorem FenceKind.ofCode_code (t : FenceKind) : FenceKind.ofCode t.code = some t := FenceKind.ofCode_eq_some.mpr rfl
@[simp] theorem VCond.ofCode_code (t : VCond) : VCond.ofCode t.code = some t := VCond.ofCode_eq_some.mpr rfl
@[simp] theorem FCond.ofCode_code (t : FCond) : FCond.ofCode t.code = some t := FCond.ofCode_eq_some.mpr rfl
@[simp] theorem MulhOp.ofCode_code (t : MulhOp) : MulhOp.ofCode t.code = some t := MulhOp.ofCode_eq_some.mpr rfl
@[simp] theorem DivOp.ofCode_code (t : DivOp) : DivOp.ofCode t.code = some t := DivOp.ofCode_eq_some.mpr rfl
@[simp] theorem PandOp.ofCode_code (t : PandOp) : PandOp.ofCode t.code = some t := PandOp.ofCode_eq_some.mpr rfl
@[simp] theorem AmoOp.ofCode_code (t : AmoOp) : AmoOp.ofCode t.code = some t := AmoOp.ofCode_eq_some.mpr rfl
@[simp] theorem RedOp.ofCode_code (t : RedOp) : RedOp.ofCode t.code = some t := RedOp.ofCode_eq_some.mpr rfl
@[simp] theorem KopOp.ofCode_code (t : KopOp) : KopOp.ofCode t.code = some t := KopOp.ofCode_eq_some.mpr rfl
@[simp] theorem BarKind.ofCode_code (t : BarKind) : BarKind.ofCode t.code = some t := BarKind.ofCode_eq_some.mpr rfl
@[simp] theorem Window.ofCode_code (t : Window) : Window.ofCode t.code = some t := Window.ofCode_eq_some.mpr rfl
@[simp] theorem QSel.ofCode_code (t : QSel) : QSel.ofCode t.code = some t := QSel.ofCode_eq_some.mpr rfl
@[simp] theorem Scope.ofCode_code (t : Scope) : Scope.ofCode t.code t.entry = some t := Scope.ofCode_eq_some.mpr ⟨rfl, rfl⟩
@[simp] theorem ScopeDisp.ofCode_code (t : ScopeDisp) : ScopeDisp.ofCode t.code t.field = some t := ScopeDisp.ofCode_eq_some.mpr ⟨rfl, rfl⟩

@[simp] theorem Rnd.ofCode_code (t : Rnd) : Rnd.ofCode t.code = t := by cases t <;> rfl
@[simp] theorem Order.ofCode_code (t : Order) : Order.ofCode t.code = t := by cases t <;> rfl
@[simp] theorem Cond.ofCode_code (t : Cond) : Cond.ofCode t.code = t := by cases t <;> rfl
@[simp] theorem Dir.ofCode_code (t : Dir) : Dir.ofCode t.code = t := by cases t <;> rfl
@[simp] theorem Rnd.code_ofCode : ∀ c, (Rnd.ofCode c).code = c := by decide
@[simp] theorem Order.code_ofCode : ∀ c, (Order.ofCode c).code = c := by decide
@[simp] theorem Cond.code_ofCode : ∀ c, (Cond.ofCode c).code = c := by decide
@[simp] theorem Dir.code_ofCode : ∀ c, (Dir.ofCode c).code = c := by decide
@[simp] theorem Rnd.code_rne : Rnd.rne.code = 0 := rfl

/-! ## Narrow values in wide fields -/

@[simp] theorem predTop_predField : ∀ p, predTop (predField p) = true := by decide
@[simp] theorem predLow_predField : ∀ p, predLow (predField p) = p := by decide
@[simp] theorem predField_predLow : ∀ f, predTop f = true → predField (predLow f) = f := by decide
@[simp] theorem maskTop_maskField : ∀ k, maskTop (maskField k) = true := by decide
@[simp] theorem maskLow_maskField : ∀ k, maskLow (maskField k) = k := by decide
@[simp] theorem maskField_maskLow : ∀ f, maskTop f = true → maskField (maskLow f) = f := by decide
@[simp] theorem flag_high : ∀ b, ((bit b).setWidth 3).extractLsb' 1 2 = 0 := by decide
@[simp] theorem flag_low : ∀ b, ((bit b).setWidth 3).extractLsb' 0 1 = bit b := by decide
@[simp] theorem flag_of_high : ∀ f : BitVec 3, f.extractLsb' 1 2 = 0 → (f.extractLsb' 0 1).setWidth 3 = f := by decide

end Sys2Proof.Proofs
end

section
/-! Proofs for 02_encoding.md: decoding and encoding, each the other's inverse row by row of the opcode tables (R39, R42, R50 to R54). -/

namespace Sys2Proof.Proofs

open Sys2Proof Sys2Proof.Machine Sys2Proof.Safety Sys2Proof.Laws

/-! ## The checks of a row -/

@[simp] theorem require_eq_ok {c : Bool} {e : DecodeErr} {i j : Instr} : require c e i = .ok j ↔ c = true ∧ i = j := by
  unfold require
  split <;> simp_all

@[simp] theorem withCode_some {α : Type} (a : α) (k : α → Except DecodeErr Instr) : withCode (some a) k = k a := rfl

theorem withCode_eq_ok {α : Type} {o : Option α} {k : α → Except DecodeErr Instr} {i : Instr} :
    withCode o k = .ok i ↔ ∃ a, o = some a ∧ k a = .ok i := by
  cases o <;> simp [withCode]

section

variable {f : SRR} {i : SRI} {v : VRR}

@[simp] theorem SRR.plain_iff {s : BitVec 3} : f.plain s = true ↔ f.sub = s ∧ f.aux = 0 ∧ f.ext = 0 := by simp [SRR.plain, and_assoc]
@[simp] theorem SRR.noAux_iff : f.noAux = true ↔ f.aux = 0 ∧ f.ext = 0 := by simp [SRR.noAux]
@[simp] theorem SRR.noA_iff : f.noA = true ↔ f.a = 0 ∧ f.ha = 0 := by simp [SRR.noA]
@[simp] theorem SRR.noB_iff : f.noB = true ↔ f.b = 0 ∧ f.hb = 0 := by simp [SRR.noB]
@[simp] theorem SRI.noA_iff : i.noA = true ↔ i.a = 0 ∧ i.ha = 0 := by simp [SRI.noA]
@[simp] theorem VRR.noB_iff : v.noB = true ↔ v.vb = 0 ∧ v.hb = 0 := by simp [VRR.noB]
@[simp] theorem VRR.noC_iff : v.noC = true ↔ v.vc = 0 ∧ v.hc = 0 := by simp [VRR.noC]
@[simp] theorem VRR.noRnd_iff : v.noRnd = true ↔ v.rnd = 0 := by simp [VRR.noRnd]
@[simp] theorem VRR.noSat_iff : v.noSat = true ↔ v.sat = 0 := by simp [VRR.noSat]
@[simp] theorem VRR.noZ_iff : v.noZ = true ↔ v.z = 0 := by simp [VRR.noZ]
@[simp] theorem VRR.noSub_iff : v.noSub = true ↔ v.sub = 0 := by simp [VRR.noSub]

end

/-! ## A syllable by its class -/

/-- What the opcode tables make of a syllable's fields, before the operands are judged. -/
def decodeFields (s : Syllable) : Except DecodeErr Instr :=
  match s.tmpl.toNat with
  | 0 => decodeS s.hdr s.op s.pay
  | 1 => decodeV s.hdr s.op s.pay
  | 2 => decodeM s.hdr s.op s.pay
  | _ => decodeC s.hdr s.op s.pay

/-- A word decodes where its template is its opcode's class, the tables have its row, and the operands are well formed. -/
theorem decodeSyllable_eq_ok {w : Word} {i : Instr} : decodeSyllable w = .ok i ↔
    (Syllable.unpack w).op.extractLsb' 6 2 = (Syllable.unpack w).tmpl ∧ decodeFields (Syllable.unpack w) = .ok i ∧ wellFormed i = true := by
  simp only [decodeSyllable]
  split
  · next mismatch => simp [mismatch]
  · next same =>
    rw [not_not] at same
    split
    · next j row =>
      have row : decodeFields (Syllable.unpack w) = .ok j := row
      simp only [same, row, true_and, Except.ok.injEq]
      split
      · next wf => simpa using fun same : j = i => same ▸ wf
      · next wf => simpa using fun same : j = i => same ▸ Bool.eq_false_iff.mpr wf
    · next err row =>
      have row : decodeFields (Syllable.unpack w) = .error err := row
      simp [row]

/-- What the encoder puts together the tables read back: every operand stands in its field, and the other fields are zero. -/
theorem decodeFields_of_encode {i : Instr} {w : Word} (e : encodeSyllable i = some w) : decodeFields (Syllable.unpack w) = .ok i := by
  cases i <;> cases e <;> rw [Syllable.unpack_pack]
  case nop | ret | endTask | yield | jdone | mzr | mdrn => rfl
  case addi | andi | ori | xori =>
    change Except.ok _ = _
    simp [SRI.srcA]
  case vfcmpK | vfcmpP =>
    change withCode _ _ = _
    simp [VRR.srcA, VRR.srcB, Src.zero, -Nat.reduceAdd]
  case cpinvLayer | cpinvAll =>
    change ite _ _ _ = _
    simp [SRR.srcA, Src.zero]
  case mulh | div | pand | lds | sts | ldp | stp | ldg | stg | amo | acas | red | fence | waitm | bar | board | cdrn | ckill | vadd | vsub | vmul | vmulh
      | vmin | vmax | vand | vor | vxor | vshl | vshr | vabs | vcmp | vsel | vmov | vbcast | vext | vins | vperm | vred | vscan | vfadd | vfsub | vfmul
      | vfma | vfmin | vfmax | vfdiv | vcvt | qnt | scacc | bsc | pln | upl | tli | vld | vst | vlds | vsts | vgath | vscat | kop | vmadd | vpopc | vclz
      | vpack | vunpk | vfrnd =>
    change withCode _ _ = _
    simp [SRR.srcA, SRR.srcB, VRR.srcA, VRR.srcB, VRR.srcC, VRR.mask, Src.zero, -Nat.reduceAdd]
  all_goals
    change require _ _ _ = _
    simp [SRR.srcA, SRR.srcB, SRI.srcA, Src.zero, -Nat.reduceAdd]

/-! A word that a row of the tables accepts is the one that the encoder puts together: the row's checks fix every field that is no operand. -/

theorem encode_of_decodeS {h : Hdr} {op : BitVec 8} {w : BitVec 47} {i : Instr} (e : decodeS h op w = .ok i) :
    encodeSyllable i = some (Syllable.pack ⟨h, 0, op, w⟩) := by
  unfold decodeS at e
  cases srr : SRR.unpack w
  cases sri : SRI.unpack w
  cases sric : SRIC.unpack w
  cases sbrb : SBRB.unpack w
  cases sbrt : SBRT.unpack w
  cases slp : SLP.unpack w
  cases smem : SMEM.unpack w
  cases smema : SMEMA.unpack w
  simp only [srr, sri, smem, smema, sric, sbrb, sbrt, slp] at e
  generalize row : op.toNat = n at e
  split at e
  case h_63 => cases e
  all_goals
    revert e
    simp only [BitVec.toNat_eq_nat, withCode_eq_ok, require_eq_ok, Bool.and_eq_true, beq_iff_eq, forall_exists_index, and_imp,
      SRR.plain_iff, SRR.noAux_iff, SRR.noA_iff, SRR.noB_iff, SRI.noA_iff, SRR.srcA, SRR.srcB, SRI.srcA,
      MulhOp.ofCode_eq_some, DivOp.ofCode_eq_some, PandOp.ofCode_eq_some, Width.ofCode_eq_some, AmoOp.ofCode_eq_some,
      FenceKind.ofCode_eq_some, BarKind.ofCode_eq_some, Scope.ofCode_eq_some, ScopeDisp.ofCode_eq_some] at row ⊢
    intros
    subst_vars
    simp [encodeSyllable, syl, encRR, encRI, encMem, encMemA, Src.zero, Syllable.pack_inj, SRR.pack_eq_iff, SRI.pack_eq_iff,
      SRIC.pack_eq_iff, SBRB.pack_eq_iff, SBRT.pack_eq_iff, SLP.pack_eq_iff, SMEM.pack_eq_iff, SMEMA.pack_eq_iff,
      append_loBits, hiBits_append_of_loBits, -Nat.reduceAdd, *]

theorem encode_of_decodeV {h : Hdr} {op : BitVec 8} {w : BitVec 47} {i : Instr} (e : decodeV h op w = .ok i) :
    encodeSyllable i = some (Syllable.pack ⟨h, 1, op, w⟩) := by
  unfold decodeV at e
  cases vrr : VRR.unpack w
  cases vmem : VMEM.unpack w
  simp only [vrr, vmem] at e
  generalize row : op.toNat = n at e
  split at e
  case h_53 => cases e
  case' h_28 =>
    simp only [withCode_eq_ok, ElemTy.ofCode_eq_some, FCond.ofCode_eq_some, ite_eq_iff, isSet_iff, flag_ne_one] at e
    obtain ⟨t, rfl, c, cond, ⟨pair, e⟩ | ⟨pair, e⟩⟩ := e
  all_goals
    revert e
    simp only [BitVec.toNat_eq_nat, withCode_eq_ok, require_eq_ok, Bool.and_eq_true, beq_iff_eq, forall_exists_index, and_imp,
      VRR.noB_iff, VRR.noC_iff, VRR.noRnd_iff, VRR.noSat_iff, VRR.noZ_iff, VRR.noSub_iff, VRR.srcA, VRR.srcB, VRR.srcC, VRR.mask,
      ElemTy.ofCode_eq_some, RedOp.ofCode_eq_some, KopOp.ofCode_eq_some, VCond.ofCode_eq_some] at row ⊢
    intros
    subst_vars
    simp [encodeSyllable, syl, encV, encVP, encVM, Src.zero, Syllable.pack_inj, VRR.pack_eq_iff, VMEM.pack_eq_iff,
      append_loBits, hiBits_append_of_loBits, -Nat.reduceAdd, *]

theorem encode_of_decodeM {h : Hdr} {op : BitVec 8} {w : BitVec 47} {i : Instr} (e : decodeM h op w = .ok i) :
    encodeSyllable i = some (Syllable.pack ⟨h, 2, op, w⟩) := by
  unfold decodeM at e
  cases srr : SRR.unpack w
  cases mc : MC.unpack w
  simp only [srr, mc] at e
  generalize row : op.toNat = n at e
  split at e
  case h_16 => cases e
  case' h_12 => split at e
  all_goals
    revert e
    simp only [BitVec.toNat_eq_nat, require_eq_ok, Bool.and_eq_true, beq_iff_eq, and_imp,
      SRR.plain_iff, SRR.noA_iff, SRR.noB_iff, SRR.srcA, SRR.srcB] at row ⊢
    intros
    subst_vars
    simp [encodeSyllable, syl, encRR, Src.zero, Syllable.pack_inj, SRR.pack_eq_iff, MC.pack_eq_iff, append_loBits, -Nat.reduceAdd, *]

theorem encode_of_decodeC {h : Hdr} {op : BitVec 8} {w : BitVec 47} {i : Instr} (e : decodeC h op w = .ok i) :
    encodeSyllable i = some (Syllable.pack ⟨h, 3, op, w⟩) := by
  unfold decodeC at e
  cases cj : CJ.unpack w
  simp only [cj] at e
  generalize row : op.toNat = n at e
  split at e
  case h_15 => cases e
  all_goals
    revert e
    simp only [BitVec.toNat_eq_nat, withCode_eq_ok, require_eq_ok, Bool.and_eq_true, beq_iff_eq, forall_exists_index, and_imp,
      Window.ofCode_eq_some, QSel.ofCode_eq_some] at row ⊢
    intros
    subst_vars
    simp [encodeSyllable, syl, encC, Syllable.pack_inj, CJ.pack_eq_iff, append_loBits, hiBits_append_of_loBits, -Nat.reduceAdd, *]

end Sys2Proof.Proofs
end

section
/-! Proofs for 02_encoding.md: a word has one meaning, a bundle is decoded syllable by syllable as it is fetched (R39, R42, R45, R50 to R54). -/

namespace Sys2Proof.Proofs

open Sys2Proof Sys2Proof.Machine Sys2Proof.Safety Sys2Proof.Laws

/-! ## Syllables -/

theorem encode_of_decodeFields {s : Syllable} {i : Instr} (e : decodeFields s = .ok i) : encodeSyllable i = some s.pack := by
  obtain ⟨h, tmpl, op, pay⟩ := s
  have classes : ∀ t : BitVec 2, t = 0 ∨ t = 1 ∨ t = 2 ∨ t = 3 := by decide
  obtain rfl | rfl | rfl | rfl := classes tmpl
  · exact encode_of_decodeS e
  · exact encode_of_decodeV e
  · exact encode_of_decodeM e
  · exact encode_of_decodeC e

theorem classMatches_of_encode {i : Instr} {w : Word} (e : encodeSyllable i = some w) :
    (Syllable.unpack w).op.extractLsb' 6 2 = (Syllable.unpack w).tmpl := by
  cases i <;> cases e <;> rw [Syllable.unpack_pack] <;> simp

theorem decodeSyllable_iff {w : Word} {i : Instr} : decodeSyllable w = .ok i ↔ wellFormed i = true ∧ encodeSyllable i = some w := by
  rw [decodeSyllable_eq_ok]
  constructor
  · rintro ⟨-, row, wf⟩
    exact ⟨wf, by rw [encode_of_decodeFields row, Syllable.pack_unpack]⟩
  · rintro ⟨wf, e⟩
    exact ⟨classMatches_of_encode e, decodeFields_of_encode e, wf⟩

theorem slotOp_isSome (i : Instr) : (slotOp i).isSome = (encodeSyllable i).isSome := by cases i <;> rfl

/-- Settles O3: decoding inverts encoding, and each constructor has either both a slot and an encoding or neither. -/
theorem aWordHasOneMeaning : Obligations.AWordHasOneMeaning := ⟨fun _ _ => decodeSyllable_iff.mp, slotOp_isSome⟩

/-! ## Bundles -/

/-- The header of an encoded syllable is its slot operation's, and its template the rank of its slot. -/
theorem unpack_of_encode {i : Instr} {o : SlotOp} {w : Word} (op : slotOp i = some o) (e : encodeSyllable i = some w) :
    (Syllable.unpack w).hdr = o.hdr ∧ (Syllable.unpack w).tmpl.toNat = o.slot := by
  cases i <;> cases op <;> cases e <;> rw [Syllable.unpack_pack]
  case vperm h ty two m d a b c => cases two <;> exact ⟨rfl, rfl⟩
  all_goals exact ⟨rfl, rfl⟩

theorem msb_eq_stop (w : Word) : w.msb = (Syllable.unpack w).hdr.stop := by
  conv_lhs => rw [← Syllable.pack_unpack w, Syllable.pack, BitVec.msb_append]
  cases (Syllable.unpack w).hdr.stop <;> rfl

/-- The stop bit is on the last of the syllables alone (R42). -/
def StopsLast (os : List SlotOp) : Prop := os.map (·.hdr.stop) = List.replicate (os.length - 1) false ++ [true]

theorem not_stopsLast_nil : ¬ StopsLast [] := by simp [StopsLast]
theorem stopsLast_singleton {o : SlotOp} : StopsLast [o] ↔ o.hdr.stop = true := by simp [StopsLast]
theorem stopsLast_cons_cons {o p : SlotOp} {os : List SlotOp} : StopsLast (o :: p :: os) ↔ o.hdr.stop = false ∧ StopsLast (p :: os) := by
  simp [StopsLast, List.replicate_succ]

/-- What O2 asks of a syllable of a bundle: it is well formed, `w` is its word and `o` what its slot executes. -/
structure Encoded (i : Instr) (o : SlotOp) (w : Word) : Prop where
  wf   : wellFormed i = true
  word : encodeSyllable i = some w
  op   : slotOp i = some o

section

variable {i : Instr} {o : SlotOp} {w : Word} {ws : List Word} {prev : Option (BitVec 2)}

theorem Encoded.slot_lt (c : Encoded i o w) : o.slot < 4 := (unpack_of_encode c.op c.word).2 ▸ (Syllable.unpack w).tmpl.isLt

theorem rankFalls_eq_false {t : BitVec 2} (above : ∀ p ∈ prev, p.toNat < t.toNat) : rankFalls prev t = false := by
  cases prev with
  | none => rfl
  | some p => simpa [rankFalls, BitVec.le_def] using above p rfl

/-- A syllable that may stand where it does is decoded, and ends its bundle or is followed by the rest (R42, R54). -/
theorem decodeFrom_cons (c : Encoded i o w) (point : prev.isSome = true → o.hdr.pp = false) (above : ∀ p ∈ prev, p.toNat < o.slot) :
    decodeFrom prev (w :: ws) = if o.hdr.stop then .ok [i] else (decodeFrom (some (Syllable.unpack w).tmpl) ws).map (i :: ·) := by
  obtain ⟨hdr, slot⟩ := unpack_of_encode c.op c.word
  have first : (o.hdr.pp && prev.isSome) = false := by cases h : prev.isSome <;> simp [h, point]
  have rises := rankFalls_eq_false (prev := prev) (slot ▸ above)
  rw [decodeFrom]
  simp only [hdr, first, rises, decodeSyllable_iff.mpr ⟨c.wf, c.word⟩, Bool.false_eq_true, if_false]
  split
  · rfl
  · cases decodeFrom (some (Syllable.unpack w).tmpl) ws <;> rfl

/-- The fetch of a word that stops its bundle ends there, and goes on to the next word otherwise (R45). -/
theorem fetchWords_cons {get : Word → Fetched} {a : Word} (c : Encoded i o w) (here : get a = .word w) (n : Nat) :
    fetchWords get (n + 1) a = if o.hdr.stop then .ok [w] else (fetchWords get n (a + 8)).map (w :: ·) := by
  rw [fetchWords, here]
  simp only [msb_eq_stop, (unpack_of_encode c.op c.word).1]
  split
  · rfl
  · cases fetchWords get n (a + 8) <;> rfl

end

/-- The syllables of a bundle with their slot operations and words. -/
inductive EncodedBundle : List Instr → List SlotOp → List Word → Prop where
  | nil : EncodedBundle [] [] []
  | cons {i o w is os ws} : Encoded i o w → EncodedBundle is os ws → EncodedBundle (i :: is) (o :: os) (w :: ws)

theorem encodedBundle_of_forall₂ {is : List Instr} {os : List SlotOp} {ws : List Word}
    (words : is.Forall₂ (fun i w => wellFormed i = true ∧ encodeSyllable i = some w) ws) (ops : is.Forall₂ (fun i o => slotOp i = some o) os) :
    EncodedBundle is os ws := by
  induction words generalizing os with
  | nil =>
    cases ops
    exact .nil
  | cons word _ ih =>
    cases ops with
    | cons op ops => exact .cons ⟨word.1, word.2, op⟩ (ih ops)

namespace EncodedBundle

variable {is : List Instr} {os : List SlotOp} {ws : List Word}

theorem length_eq (b : EncodedBundle is os ws) : ws.length = os.length := by
  induction b with
  | nil => rfl
  | cons _ _ ih => rw [List.length_cons, List.length_cons, ih]

theorem slot_lt (b : EncodedBundle is os ws) : ∀ o ∈ os, o.slot < 4 := by
  induction b with
  | nil => exact fun _ h => nomatch h
  | cons c _ ih => exact List.forall_mem_cons.mpr ⟨c.slot_lt, ih⟩

/-- A bundle in rising slot classes has at most four syllables. -/
theorem length_le (b : EncodedBundle is os ws) (rising : os.Pairwise fun a b => a.slot < b.slot) : os.length ≤ 4 := by
  have distinct : (os.map (·.slot)).Nodup := List.pairwise_map.mpr (rising.imp fun h => Nat.ne_of_lt h)
  have ranks : os.map (·.slot) ⊆ List.range 4 := by
    intro n hn
    obtain ⟨o, ho, rfl⟩ := List.mem_map.mp hn
    exact List.mem_range.mpr (b.slot_lt o ho)
  simpa using (distinct.subperm ranks).length_le

/-- After rank `prev` the syllables decode in turn. -/
theorem decodeFrom_eq (b : EncodedBundle is os ws) {prev : Option (BitVec 2)} (stops : StopsLast os)
    (rising : os.Pairwise fun a b => a.slot < b.slot) (above : ∀ p ∈ prev, ∀ o ∈ os, p.toNat < o.slot)
    (points : ∀ o ∈ if prev.isSome then os else os.tail, o.hdr.pp = false) : decodeFrom prev ws = .ok is := by
  induction b generalizing prev with
  | nil => exact absurd stops not_stopsLast_nil
  | @cons i o w is os ws c b ih =>
    obtain ⟨below, rising⟩ := List.pairwise_cons.mp rising
    rw [decodeFrom_cons c (fun later => points o (by simp [later])) fun p hp => above p hp o (List.mem_cons_self ..)]
    cases b with
    | nil => rw [if_pos (stopsLast_singleton.mp stops)]
    | cons d b =>
      obtain ⟨goes, stops⟩ := stopsLast_cons_cons.mp stops
      rw [goes, ih stops rising (fun p hp q hq => ?_) fun q hq => points q ?_]
      · rfl
      · cases hp
        rw [(unpack_of_encode c.op c.word).2]
        exact below q hq
      · split
        · exact List.mem_cons_of_mem _ hq
        · exact hq

/-- The words of a bundle in memory are fetched to the last, whatever follows them. -/
theorem fetchWords_eq (b : EncodedBundle is os ws) {get : Word → Fetched} {a : Word} {n : Nat} (stops : StopsLast os) (enough : os.length ≤ n)
    (held : ∀ k, ∀ h : k < ws.length, get (a + BitVec.ofNat 64 (8 * k)) = .word ws[k]) : fetchWords get n a = .ok ws := by
  induction b generalizing a n with
  | nil => exact absurd stops not_stopsLast_nil
  | @cons i o w is os ws c b ih =>
    obtain ⟨n, rfl⟩ : ∃ m, n = m + 1 := Nat.exists_eq_succ_of_ne_zero (by rw [List.length_cons] at enough; omega)
    rw [fetchWords_cons c (by simpa using held 0 (Nat.zero_lt_succ _))]
    cases b with
    | nil => rw [if_pos (stopsLast_singleton.mp stops)]
    | cons d b =>
      obtain ⟨goes, stops⟩ := stopsLast_cons_cons.mp stops
      rw [goes, ih stops (Nat.le_of_succ_le_succ enough) fun k hk => ?_]
      · rfl
      · have next := held (k + 1) (Nat.succ_lt_succ hk)
        rwa [Nat.mul_succ, Nat.add_comm, BitVec.ofNat_add, ← BitVec.add_assoc] at next

end EncodedBundle

/-- Settles O2: each syllable by `decodeSyllable_iff`, a bundle of them by induction on its syllables. -/
theorem everySyllableDecodesFromItsWord : Obligations.EverySyllableDecodesFromItsWord := by
  refine ⟨fun _ _ wf e => decodeSyllable_iff.mpr ⟨wf, e⟩, fun is os ws words ops rising points stops => ?_⟩
  have bundle := encodedBundle_of_forall₂ words ops
  refine ⟨bundle.decodeFrom_eq stops rising (fun _ h => nomatch h) fun o ho => ?_, fun _ _ held =>
    bundle.fetchWords_eq stops (bundle.length_le rising) held⟩
  simpa using List.all_eq_true.mp points o ho

/-- Settles O1: the seven words, evaluated. -/
theorem wordsDecodeToTheirInstructions : Obligations.WordsDecodeToTheirInstructions := by
  unfold Obligations.WordsDecodeToTheirInstructions
  decide

end Sys2Proof.Proofs
end

section
/-! Proofs for 02_encoding.md: a syllable whose guard is false, and a bundle that does not decode (R40, R54). -/

namespace Sys2Proof.Proofs

open Sys2Proof Sys2Proof.Machine Sys2Proof.Safety Sys2Proof.Laws

/-- Whatever faults wait at the boundary, the one that is taken there is recorded last (R415). -/
theorem takeFault_ctl (f : TFault) (s : State) : ∃ t, (takeFault f s).tile.ctl = narrowPc f (stopTile (marked f t)).ctl := by
  have cur := recordFaults_cur s.cur (deferredOrder s.tile.ctl.deferred) s
  have own := recordFault_own ((deferredOrder s.tile.ctl.deferred).foldl (recordFault s.cur) s) f
  rw [cur] at own
  refine ⟨((deferredOrder s.tile.ctl.deferred).foldl (recordFault s.cur) s).tile, ?_⟩
  rw [takeFault, onCtl_tile_ctl, takeFaults, if_neg (by simp), onTile_tile, haltOthers_tile_eq, List.foldl_append, List.foldl_cons,
    List.foldl_nil, own]

theorem narrowPc_keeps {β : Type} (g : Ctl → β) (h : ∀ (c : Ctl) a, g { c with pc := a } = g c) (f : TFault) (c : Ctl) :
    g (narrowPc f c) = g c := by
  unfold narrowPc
  split
  · exact h c _
  · rfl

/-- FLTCODE and FLTADDR are those of the fault taken (R413). -/
theorem takeFault_flt (f : TFault) (s : State) : (takeFault f s).tile.ctl.fltcode = f.code ∧ (takeFault f s).tile.ctl.fltaddr = f.addr := by
  obtain ⟨t, h⟩ := takeFault_ctl f s
  rw [h, narrowPc_keeps Ctl.fltcode fun _ _ => rfl, narrowPc_keeps Ctl.fltaddr fun _ _ => rfl]
  exact ⟨stopTile_ctl_keeps Ctl.fltcode (fun _ => rfl) _, stopTile_ctl_keeps Ctl.fltaddr (fun _ => rfl) _⟩

/-- With no level active, the bundle at the program counter that is fetched and does not decode raises ILLEGAL. -/
theorem bundleFetch_of_undecodable {s : State} {ws : List Word} (level : innermost s.tile.ctl = none)
    (fetched : fetchBundle s.tile s.tile.ctl.pc = .ok ws) (undecodable : ∀ is, decodeBundle ws ≠ .ok is) :
    let u := notePages (fetchedPages s.tile s.tile.ctl.pc ws.length) s
    bundleFetch s = takeFault (decodeFault ws u) u := by
  simp only [bundleFetch, refill_eq_none level, fetched]
  split
  · rfl
  · next is decoded => exact absurd decoded (undecodable is)

/-- Settles O5: a false guard leaves only the count of the cycle and the move of the program counter, and the check of a bundle's decoding
comes before any guard is read. -/
theorem falseGuardMakesASyllablePass : Obligations.FalseGuardMakesASyllablePass := by
  refine ⟨fun i o s op off settled banks => ?_, fun s ws level fetched undecodable => ?_⟩
  · rw [exec_syllable op, run_of_off off settled banks]
  · rw [bundleFetch_of_undecodable level fetched undecodable]
    exact takeFault_flt _ _

end Sys2Proof.Proofs
end

section
/-! Proofs for 02_encoding.md: a step of a tile is the issue of the bundle at its program counter (R41 to R45; 03_issue.md R63, R68, R84). -/

namespace Sys2Proof.Proofs

open Sys2Proof Sys2Proof.Machine Sys2Proof.Safety Sys2Proof.Laws

/-! ## From the turn to the bundle -/

/-- A bundle that is fetched and decodes goes on as decoded, its pages noted. -/
theorem bundleFetch_of_decoded {s : State} {ws : List Word} {is : List Instr} (full : refill s.tile = none)
    (fetched : fetchBundle s.tile s.tile.ctl.pc = .ok ws) (decoded : decodeBundle ws = .ok is) :
    bundleFetch s = bundleDecoded ws is (notePages (fetchedPages s.tile s.tile.ctl.pc ws.length) s) := by
  simp only [bundleFetch, full, fetched, decoded]

/-- A decoded bundle that neither a halt, the watchdog nor a fill comes before is issued. -/
theorem bundleDecoded_of_clear {ws : List Word} {is : List Instr} {s : State} (halt : mayHalt s = false)
    (early : s.tile.ctl.wdog < s.tile.place.ppmax) (fill : needsFill is s.tile.ctl = false) :
    let ops := bundleOps ws 0 is
    bundleDecoded ws is s = notePlain is s (issueOps ops (takeBanks (banksTaken ops s) s)) := by
  have watch (honoured : Bool) : watchdogOut honoured s = false := by simp [watchdogOut, early]
  simp [bundleDecoded, bundleReady, halt, watch, fill]

/-- A running tile that nothing holds, with a decoded bundle that nothing comes before, issues it. -/
theorem bundleIssue_of_decoded {s u v : State} {ws : List Word} {is : List Instr} (start : cycleStart s = u)
    (noted : notePages (fetchedPages u.tile u.tile.ctl.pc ws.length) u = v) (run : s.tile.ctl.run = .running) (still : u.tile.ctl.run = .running)
    (waiting : u.tile.ctl.deferred = []) (access : u.tile.ctl.gacc = none) (bubble : u.tile.ctl.bubble = false) (full : refill u.tile = none)
    (fetched : fetchBundle u.tile u.tile.ctl.pc = .ok ws) (decoded : decodeBundle ws = .ok is) (halt : mayHalt v = false)
    (early : v.tile.ctl.wdog < v.tile.place.ppmax) (fill : needsFill is v.tile.ctl = false) :
    let ops := bundleOps ws 0 is
    bundleIssue s = notePlain is v (issueOps ops (takeBanks (banksTaken ops v) v)) := by
  subst start noted
  rw [bundleIssue_of_fetch run still waiting access bubble, bundleFetch_of_decoded full fetched decoded]
  exact bundleDecoded_of_clear halt early fill

/-! ## The issue of a bundle -/

/-- A syllable of a decoded bundle is held again only where it was held before (R26, R379). -/
theorem wait_of_again {i : Instr} {o : SlotOp} (op : slotOp i = some o) (s : State) (again : o.again s = true) : o.wait s = true := by
  cases i <;> cases op
  case ldg | amo | acas | next => exact again
  case vperm h ty two m d a b c => cases two <;> cases again
  all_goals cases again

theorem wait_of_again_of_mem {ws : List Word} {n : Nat} {is : List Instr} {o : SlotOp} (h : o ∈ bundleOps ws n is) (s : State)
    (again : o.again s = true) : o.wait s = true := by
  fun_induction bundleOps with
  | case1 w ws n i is p op ih =>
    obtain rfl | rest := List.mem_cons.mp h
    · exact wait_of_again (o := p) op s again
    · exact ih rest
  | case2 w ws n i is op ih => exact ih h
  | case3 => cases h

theorem firstFault_eq_none {α : Type} {f : α → Option TFault} {xs : List α} (h : ∀ x ∈ xs, f x = none) : firstFault f xs = none := by
  induction xs with
  | nil => rfl
  | cons x xs ih =>
    obtain ⟨here, rest⟩ := List.forall_mem_cons.mp h
    simp only [firstFault, here, ih rest]

section

variable {ops : List SlotOp} {s : State}

/-- A bundle that nothing holds and whose checks find no fault is issued. -/
theorem issueOps_of_clear (settled : interlocked s.tile.regs = false) (free : isHeld ops s = false)
    (again : ∀ o ∈ guarded ops s, o.again s = true → o.wait s = true)
    (banks : s.tile.ctl.bankLeft.getD (bankHold ((guarded ops s).flatMap (·.access s))) = 0)
    (faultless : ∀ o ∈ guarded ops s, o.fault5 s = none ∧ o.fault6 s = none) : issueOps ops s = issueNow ops s := by
  have five : firstOf SlotOp.fault5 (guarded ops s) s = none := firstFault_eq_none fun o h => (faultless o h).1
  have six : firstOf SlotOp.fault6 (guarded ops s) s = none := firstFault_eq_none fun o h => (faultless o h).2
  have fresh : (guarded ops s).any (·.again s) = false := by
    rw [isHeld, List.any_eq_false] at free
    refine List.any_eq_false.mpr fun o h held => free o h ?_
    rw [again o h held, Bool.or_true]
  have last : bankCycle ops 0 s = issueNow ops s := by simp [bankCycle, fresh, six]
  cases left : s.tile.ctl.bankLeft with
  | some n =>
    obtain rfl : n = 0 := by simpa [left] using banks
    simp [issueOps, settled, left, last]
  | none =>
    replace banks : bankHold ((guarded ops s).flatMap (·.access s)) = 0 := by simpa [left] using banks
    simp [issueOps, settled, left, five, free, banks, last]

theorem noteHold_located (w : Word) (n : Nat) (o : SlotOp) (s : State) : noteHold [located w n o] s = noteHold [o] s := by
  have located_on : (located w n o).on s = o.on s := rfl
  have located_wait : (located w n o).wait s = o.wait s := rfl
  cases on : o.on s with
  | false =>
    simp only [noteHold, guarded, List.filter_singleton, located_on, on]
    rfl
  | true =>
    cases wait : o.wait s <;> simp only [noteHold, guarded, List.filter_singleton, located_on, on, cond_true, located_wait, wait] <;> rfl

/-- Where its faults are no ILLEGAL, a syllable of a bundle of one issues as it does alone: the word of the bundle is not in their records. -/
theorem issueOps_located {o : SlotOp} {w : Word} {n : Nat}
    (legal : o.on s = true → ∀ f, o.fault5 s = some f ∨ o.fault6 s = some f → f.code ≠ 0x01) :
    issueOps [located w n o] s = issueOps [o] s := by
  have same {f : Option TFault} (h : ∀ x, f = some x → x.code ≠ 0x01) : f.map (placed w n) = f := by
    cases f with
    | none => rfl
    | some x => rw [Option.map_some, placed, if_neg (h x rfl)]
  by_cases on : o.on s = true
  · have five : (located w n o).fault5 s = o.fault5 s := same fun x hx => legal on x (.inl hx)
    have six : (located w n o).fault6 s = o.fault6 s := same fun x hx => legal on x (.inr hx)
    have here : guarded [located w n o] s = [located w n o] := guarded_one_on on
    have alone : guarded [o] s = [o] := guarded_one_on on
    simp only [issueOps, bankCycle, isHeld, judged, noteHold_located, issueNow, here, alone, firstOf, firstFault, five, six]
    rfl
  · have here : guarded [located w n o] s = [] := guarded_one_off (Bool.not_eq_true _ ▸ on)
    have alone : guarded [o] s = [] := guarded_one_off (Bool.not_eq_true _ ▸ on)
    simp only [issueOps, bankCycle, isHeld, noteHold_located, issueNow, here, alone, firstOf, firstFault]
    rfl

theorem bundleOps_one {w : Word} {i : Instr} {o : SlotOp} (op : slotOp i = some o) : bundleOps [w] 0 [i] = [located w 0 o] := by
  simp [bundleOps, op]

end

/-- Settles O43: the turn runs the bundle that its fetch and decoding find, the syllables act in slot order, and one alone acts as itself. -/
theorem aStepRunsTheDecodedBundle : Obligations.AStepRunsTheDecodedBundle := by
  intro s p rest ws is agenda tile power s1 s2 s3 ops s4 run still waiting access bubble full fetched decoded halt early fill
  have issue : exec .bundleIssue s1 = .next (notePlain is s3 (issueOps ops s4)) := congrArg Host.Outcome.next
    (bundleIssue_of_decoded (s := s1) (u := s2) (v := s3) rfl rfl run still waiting access bubble full fetched decoded halt early fill)
  refine ⟨⟨issue, ?_⟩, fun settled free banks faultless o1 o2 two => ?_, fun w i o oneWord oneInstr op legal => ?_⟩
  · rw [step_cons agenda, takeTurn_issue (standsFatal_of_power power _) tile]
    exact congrArg (keepAgenda rest) issue
  · have again : ∀ o ∈ guarded ops s4, o.again s4 = true → o.wait s4 = true := fun o h =>
      wait_of_again_of_mem (List.mem_of_mem_filter h) s4
    rw [issueOps_of_clear settled free again banks faultless, issueNow, two]
    rfl
  · have one : ops = [located w 0 o] := by simp only [ops, oneWord, oneInstr, bundleOps_one op]
    change exec i s4 = .next (issueOps ops s4)
    rw [one]
    rw [issueOps_located legal, exec_syllable op, run_next]

end Sys2Proof.Proofs
end

section
/-! Proofs for 02_encoding.md: the steps that end an access the tile is held on and a store of its queue (R44, R345, R346, R353, R359). -/

namespace Sys2Proof.Proofs

open Sys2Proof Sys2Proof.Machine Sys2Proof.Safety Sys2Proof.Laws

section
variable {s s' : State} {a : GAccess} {e : SqEntry} {n : Nat} {bs : List Byte}

/-! ## The access the tile is held on (R345) -/

theorem landLoad_lost (v : Word) (lost : a.lost = true) : landLoad a v s = s := if_pos lost

/-- With no other result in flight, the result of an access lands in its register alone (R44). -/
theorem landLoad_alone (v : Word) (lost : a.lost = false) (idle : s.tile.regs.inflight = []) :
    landLoad a v s = onRegs (setG a.dest v) s := by
  rw [landLoad, if_neg (by simp [lost])]
  refine onRegs_congr ?_
  rw [landDue_singleton (p := { res := .g a.dest v, due := 0, ready := 0, slot := 0, flags := 0 }) (by simp [idle]) rfl]
  simp [landOne, applyResult, ← idle]

theorem ldgComplete_of_wait (held : s.tile.ctl.gacc = some a) (waits : performAccess a s = .wait s') : ldgComplete s = s' := by
  simp only [ldgComplete, held, waits]

theorem ldgComplete_of_done (held : s.tile.ctl.gacc = some a) (ends : performAccess a s = .done bs s') :
    ldgComplete s = endAccess a (landLoad a (accessResult a bs) s') := by
  simp only [ldgComplete, held, ends]

theorem ldgComplete_of_fail {x : XFault} (held : s.tile.ctl.gacc = some a) (fails : performAccess a s = .fail x s') :
    ldgComplete s = raiseDeferred (xTFault x a.va (accessSource a.kind)) (endAccess a s') := by
  simp only [ldgComplete, held, fails]

/-- Only an access that goes over PCIe to the host ends without a completion (R345). -/
theorem pcieTimeout_of_overPcie {t : TlbEnt} {u : State} (held : s.tile.ctl.gacc = some a) (out : outgoing a s = (some t, u))
    (pcie : overPcie a t = true) :
    pcieTimeout s = endAccess a (landLoad a (Config.lostRead u.fresh) { u with fresh := u.fresh + 1 }) := by
  simp only [pcieTimeout, held, out, pcie, if_true]

theorem pcieTimeout_of_elsewhere {t : Option TlbEnt} {u : State} (held : s.tile.ctl.gacc = some a) (out : outgoing a s = (t, u))
    (pcie : ∀ e, t = some e → overPcie a e = false) : pcieTimeout s = s := by
  cases t with
  | none => simp only [pcieTimeout, held, out]
  | some e => simp [pcieTimeout, held, out, pcie e rfl]

/-! ## The marks of the clock (R363, R364) -/

theorem waitmTimeout_of_reached {due : Nat} (waiting : s.tile.ctl.waitDue = some due) (reached : due ≤ s.mod.time.toNat) :
    waitmTimeout s = onCtl (fun c => { c with waitOut := true }) s := by
  simp only [waitmTimeout, waiting, if_pos reached]

theorem pollWake_of_reached {m : Monitor} (armed : s.tile.eng.mon = some m) (poll : m.sector = none)
    (reached : m.since.toNat + 1024 ≤ s.mod.time.toNat) :
    pollWake s = withMonitor (some { m with wake := true, since := m.since + 1024 }) s := by
  have due : (m.sector.isNone && decide (m.since.toNat + 1024 ≤ s.mod.time.toNat)) = true := by simp [poll, reached]
  simp only [pollWake, withMonitor, onEng, onTile, armed, Option.map_some, if_pos due]

/-! ## A store of the queue (R346) -/

section Store
variable (entry : s.tile.eng.sq[n]? = some e) (ready : sqReady s n = true) (store : ∀ raise, e.kind ≠ .jdone raise)
include entry ready store

theorem storeQueuePerform_sent (sent : e.sent = true) : storeQueuePerform n s = postTrap (performed n e s) := by
  simp only [storeQueuePerform, entry, ready, sent, if_true]

theorem storeQueuePerform_done (sent : e.sent = false) (ends : performEntry e s = .done bs s') :
    storeQueuePerform n s =
      if awaitsFar e s' then sqMark n (fun e => { e with sent := true }) s' else postTrap (performed n e s') := by
  simp only [storeQueuePerform, entry, ready, sent, ends, if_true, Bool.false_eq_true, if_false]

theorem storeQueuePerform_block {p : Hold} (sent : e.sent = false) (blocks : performEntry e s = .block p s') :
    storeQueuePerform n s = holdEntry n p s' := by
  simp only [storeQueuePerform, entry, ready, sent, blocks, if_true, Bool.false_eq_true, if_false]

theorem storeQueuePerform_fail {x : XFault} (sent : e.sent = false) (fails : performEntry e s = .fail x s') :
    storeQueuePerform n s = postTrap (raiseDeferred (xTFault x e.va (sqSource e.kind)) (sqRemove n s')) := by
  simp only [storeQueuePerform, entry, ready, sent, fails, if_true, Bool.false_eq_true, if_false]

end Store

theorem storeQueuePerform_jdone {raise : BitVec 32} (entry : s.tile.eng.sq[n]? = some e) (ready : sqReady s n = true)
    (kind : e.kind = .jdone raise) : storeQueuePerform n s = postTrap (performJdone n raise s) := by
  simp only [storeQueuePerform, entry, ready, if_true, kind]

/-- A store is no JDONE. -/
theorem ne_jdone_of_store (store : e.kind = .stg ∨ ∃ op, e.kind = .red op) (raise : BitVec 32) : e.kind ≠ .jdone raise := by
  obtain kind | ⟨op, kind⟩ := store <;> simp [kind]

theorem performed_of_store (store : e.kind = .stg ∨ ∃ op, e.kind = .red op) : performed n e s = sqRemove n s := by
  obtain kind | ⟨op, kind⟩ := store <;> simp only [performed, kind]

theorem awaitsFar_of_store (store : e.kind = .stg ∨ ∃ op, e.kind = .red op) : awaitsFar e s = goesFar e.va s := by
  obtain kind | ⟨op, kind⟩ := store <;> simp only [awaitsFar, kind]

theorem performed_of_mbxw {idx : BitVec 4} (kind : e.kind = .mbxw idx) :
    performed n e s = queueRec s.tile.place.vd 0 { slots := [outboxRec s.mod.time (ownBind s) s.tile.place e.data idx], tile := some s.cur }
      (sqMark n (fun e => { e with done := true }) s) := by
  simp only [performed, kind]

/-- A field under others, and above `k` bits more, of a word put together from its fields. -/
theorem extractLsb'_of_under {m n k l : Nat} {a : BitVec m} {x : BitVec n} {f : BitVec l} (h : x.extractLsb' k l = f) (fits : k + l ≤ n) :
    (a ++ x).extractLsb' k l = f := by
  rw [BitVec.extractLsb'_append_eq_of_add_le fits, h]

/-- The notification of an MBXW holds the TIME, the value and the word of its write (R401). -/
theorem outboxRec_fields (time v : Word) (b : Bind) (p : Place) (idx : BitVec 4) :
    let x := outboxRec time b p v idx
    x.extractLsb' 192 64 = time ∧ x.extractLsb' 128 64 = v ∧ x.extractLsb' 64 4 = idx ∧ x.extractLsb' 0 8 = 0x11 := by
  have word : (idx ++ ((0 : BitVec 56) ++ (0x11 : BitVec 8))).extractLsb' 64 4 = idx := BitVec.extractLsb'_append_eq_left
  have tag : ((0 : BitVec 56) ++ (0x11 : BitVec 8)).extractLsb' 0 8 = 0x11 := BitVec.extractLsb'_append_eq_right
  refine ⟨BitVec.extractLsb'_append_eq_left, extractLsb'_of_under BitVec.extractLsb'_append_eq_left (by decide), ?_, ?_⟩
  · iterate 7 refine extractLsb'_of_under ?_ (by decide)
    exact word
  · iterate 8 refine extractLsb'_of_under ?_ (by decide)
    exact tag

end

/-- Settles O29: each step does what its access comes to. -/
theorem globalAccessesComplete : Obligations.GlobalAccessesComplete := by
  intro s a n e bs s' due m
  refine ⟨fun held => ⟨fun waits => ?_, fun _ => rfl, fun _ _ _ => ⟨rfl, rfl⟩, fun ends => ⟨?_, landLoad_lost _, landLoad_alone _⟩,
      fun x fails => ?_⟩,
    fun entry ready store => ⟨fun sent => ?_, fun sent ends => ?_, fun p sent blocks => ?_, fun x sent fails => ?_⟩,
    fun idx entry ready kind sent ends => ?_, fun raise entry ready kind => ⟨fun r => ?_, fun r => ?_, fun r => ?_⟩,
    fun waiting reached => ?_, fun armed poll reached => ?_,
    fun t u held => ⟨fun out pcie => ?_, fun elsewhere => ?_⟩⟩
  · exact congrArg Host.Outcome.next (ldgComplete_of_wait held waits)
  · exact congrArg Host.Outcome.next (ldgComplete_of_done held ends)
  · exact congrArg Host.Outcome.next (ldgComplete_of_fail held fails)
  · refine congrArg Host.Outcome.next ?_
    rw [storeQueuePerform_sent entry ready (ne_jdone_of_store store) sent, performed_of_store store]
  · refine congrArg Host.Outcome.next ?_
    rw [storeQueuePerform_done entry ready (ne_jdone_of_store store) sent ends, performed_of_store store, awaitsFar_of_store store]
  · exact congrArg Host.Outcome.next (storeQueuePerform_block entry ready (ne_jdone_of_store store) sent blocks)
  · exact congrArg Host.Outcome.next (storeQueuePerform_fail entry ready (ne_jdone_of_store store) sent fails)
  · obtain ⟨time, value, word, tag⟩ := outboxRec_fields s'.mod.time e.data (ownBind s') s'.tile.place idx
    refine ⟨_, time, value, word, tag, congrArg Host.Outcome.next ?_⟩
    rw [storeQueuePerform_done entry ready (by simp [kind]) sent ends, performed_of_mbxw kind]
    simp [awaitsFar, kind]
  · refine congrArg Host.Outcome.next ?_
    rw [storeQueuePerform_jdone entry ready kind, performJdone, r]
  · refine congrArg Host.Outcome.next ?_
    rw [storeQueuePerform_jdone entry ready kind, performJdone, r]
  · refine congrArg Host.Outcome.next ?_
    rw [storeQueuePerform_jdone entry ready kind, performJdone, r]
  · exact congrArg Host.Outcome.next (waitmTimeout_of_reached waiting reached)
  · exact congrArg Host.Outcome.next (pollWake_of_reached armed poll reached)
  · exact congrArg Host.Outcome.next (pcieTimeout_of_overPcie held out pcie)
  · refine congrArg Host.Outcome.next ?_
    obtain none | ⟨out, inside⟩ := elsewhere
    · exact pcieTimeout_of_elsewhere held none (by simp)
    · exact pcieTimeout_of_elsewhere held out (by simpa using inside)

end Sys2Proof.Proofs
end

section
/-! Proofs for 02_encoding.md: the syllables whose result goes to a register, each as its rule gives it (R117 to R189). -/

namespace Sys2Proof.Proofs

open Sys2Proof Sys2Proof.Machine Sys2Proof.Safety Sys2Proof.Laws

/-! ## The values of the scalar rules -/

theorem mulhValue_s (x y : Word) : mulhValue .s x y = BitVec.ofInt 64 (Int.fdiv (x.toInt * y.toInt) (2 ^ 64)) := by
  rw [mulhValue, Int.fdiv_eq_ediv_of_nonneg _ (by decide)]

theorem mulhValue_su (x y : Word) : mulhValue .su x y = BitVec.ofInt 64 (Int.fdiv (x.toInt * y.toNat) (2 ^ 64)) := by
  rw [mulhValue, Int.fdiv_eq_ediv_of_nonneg _ (by decide)]

/-- An arithmetic right shift is a division rounded down. -/
theorem sshiftRight_eq_ofInt_fdiv (x : Word) (n : Nat) : x.sshiftRight n = BitVec.ofInt 64 (Int.fdiv x.toInt (2 ^ n)) := by
  rw [BitVec.sshiftRight, Int.shiftRight_eq_div_pow, Int.fdiv_eq_ediv_of_nonneg _ (by positivity)]
  norm_cast

/-- Shifted by 64 places or more, only the sign is left (R120). -/
theorem shrValue_true (x n : Word) : shrValue true x n = BitVec.ofInt 64 (Int.fdiv x.toInt (2 ^ min n.toNat 64)) := by
  rw [← sshiftRight_eq_ofInt_fdiv]
  by_cases short : n.toNat < 64
  · rw [shrValue, if_pos rfl, if_pos short, Nat.min_eq_left short.le]
  · rw [shrValue, if_pos rfl, if_neg short, Nat.min_eq_right (by omega)]
    ext i hi
    cases sign : x.msb
    · simp [BitVec.getElem_sshiftRight, sign]
    · simp only [BitVec.getElem_sshiftRight, sign, if_true, BitVec.getElem_allOnes, show ¬64 + i < 64 by omega, dite_false]

theorem toNat_shiftCount (n : BitVec 6) : (n.setWidth 64).toNat = n.toNat ∧ n.toNat < 64 :=
  ⟨BitVec.toNat_setWidth_of_le (by decide), n.isLt⟩

theorem shlValue_setWidth (x : Word) (n : BitVec 6) : shlValue x (n.setWidth 64) = x <<< n.toNat := by
  obtain ⟨count, small⟩ := toNat_shiftCount n
  rw [shlValue, count, if_pos small]

theorem shrValue_false_setWidth (x : Word) (n : BitVec 6) : shrValue false x (n.setWidth 64) = x >>> n.toNat := by
  obtain ⟨count, small⟩ := toNat_shiftCount n
  rw [shrValue, count, if_neg (by decide), if_pos small]

theorem shrValue_true_setWidth (x : Word) (n : BitVec 6) : shrValue true x (n.setWidth 64) = x.sshiftRight n.toNat := by
  obtain ⟨count, small⟩ := toNat_shiftCount n
  rw [shrValue, count, if_pos rfl, if_pos small]

theorem minValue_false (x y : Word) : minValue false x y = BitVec.ofInt 64 (min x.toInt y.toInt) := by
  by_cases less : x.toInt < y.toInt
  · simp [minValue, BitVec.slt_eq_decide, less, less.le]
  · simp [minValue, BitVec.slt_eq_decide, less, not_lt.mp less]

theorem minValue_true (x y : Word) : minValue true x y = BitVec.ofNat 64 (min x.toNat y.toNat) := by
  by_cases less : x.toNat < y.toNat
  · simp [minValue, BitVec.ult_eq_decide, less, less.le]
  · simp [minValue, BitVec.ult_eq_decide, less, not_lt.mp less]

theorem maxValue_false (x y : Word) : maxValue false x y = BitVec.ofInt 64 (max x.toInt y.toInt) := by
  by_cases less : x.toInt < y.toInt
  · simp [maxValue, BitVec.slt_eq_decide, less, less.le]
  · simp [maxValue, BitVec.slt_eq_decide, less, not_lt.mp less]

theorem maxValue_true (x y : Word) : maxValue true x y = BitVec.ofNat 64 (max x.toNat y.toNat) := by
  by_cases less : x.toNat < y.toNat
  · simp [maxValue, BitVec.ult_eq_decide, less, less.le]
  · simp [maxValue, BitVec.ult_eq_decide, less, not_lt.mp less]

/-- The field that EXT takes (R126). -/
theorem extField_eq (x : Word) (pos len1 : BitVec 6) :
    field x.toNat (pos.toNat + len1.toNat) pos.toNat = x.toNat / 2 ^ pos.toNat % 2 ^ (len1.toNat + 1) := by
  rw [field, show pos.toNat + len1.toNat + 1 - pos.toNat = len1.toNat + 1 by omega]

/-! ## Syllables that only send a result to a register (R43, R49) -/

/-- A state without the latches of S and V and the results in flight, which are all that the effect of such a syllable changes. -/
def unlatched (s : State) : State := onRegs (fun r => { r with sa := 0, sb := 0, va := 0, vb := 0, vc := 0, inflight := [] }) s

@[simp] theorem unlatched_pushAt (slot cls ready : Nat) (flags : BitVec 5) (res : Result) (s : State) :
    unlatched (pushAt slot cls ready flags res s) = unlatched s := rfl
@[simp] theorem unlatched_pushRes (slot cls : Nat) (flags : BitVec 5) (res : Result) (s : State) :
    unlatched (pushRes slot cls flags res s) = unlatched s := rfl

theorem unlatched_refresh {f : Regs → Regs} (latch : ∀ s, unlatched (onRegs f s) = unlatched s) (x : Src) (s : State) :
    unlatched (refresh x f s) = unlatched s := by
  unfold refresh
  split
  · rfl
  · exact latch s

section
variable (s : State) (a b c : Src)

@[simp] theorem unlatched_latchSa (v : Word) : unlatched (latchSa a v s) = unlatched s := unlatched_refresh (fun _ => rfl) a s
@[simp] theorem unlatched_latchSb (v : Word) : unlatched (latchSb a v s) = unlatched s := unlatched_refresh (fun _ => rfl) a s
@[simp] theorem unlatched_latchVa (v : VWord) : unlatched (latchVa a v s) = unlatched s := unlatched_refresh (fun _ => rfl) a s
@[simp] theorem unlatched_latchVb (v : VWord) : unlatched (latchVb a v s) = unlatched s := unlatched_refresh (fun _ => rfl) a s
@[simp] theorem unlatched_latchVc (v : VWord) : unlatched (latchVc a v s) = unlatched s := unlatched_refresh (fun _ => rfl) a s

@[simp] theorem unlatched_readS1 : unlatched (readS1 a s) = unlatched s := unlatched_latchSa s a _
@[simp] theorem unlatched_readS2 : unlatched (readS2 a b s) = unlatched s := by simp [readS2]
@[simp] theorem unlatched_readV1 : unlatched (readV1 a s) = unlatched s := unlatched_latchVa s a _
@[simp] theorem unlatched_readV2 : unlatched (readV2 a b s) = unlatched s := by simp [readV2]
@[simp] theorem unlatched_readV3 : unlatched (readV3 a b c s) = unlatched s := by simp [readV3]
@[simp] theorem unlatched_readVg : unlatched (readVg a s) = unlatched s := unlatched_latchVa s a _
@[simp] theorem unlatched_readVgB (i : State) : unlatched (readVgB b i s) = unlatched s := unlatched_latchVb s b _

@[simp] theorem unlatched_toG (slot cls : Nat) (d : Reg) (v : Word) : unlatched (toG slot cls d v s) = unlatched s := rfl
@[simp] theorem unlatched_toPair (i : State) (pd pe : BitVec 5) (c : Bool) : unlatched (toPair i pd pe c s) = unlatched s := rfl
@[simp] theorem unlatched_toV (i : State) (cls : Nat) (d : Reg) (o : VOut) : unlatched (toV i cls d o s) = unlatched s := rfl

end

/-- A syllable of header `h` that holds, checks and follows up nothing of its own, whose effect at `s` is `u`, by a result in flight and
latches. -/
structure RegisterOp (h : Hdr) (s u : State) (o : SlotOp) : Prop where
  plain : o = { hdr := h, slot := o.slot, eff := o.eff }
  eff   : o.eff s s = u
  keeps : unlatched u = unlatched s

section
variable {s u : State} {h : Hdr} {i : Instr}

/-- Each scalar syllable that writes a general register has the effect of its rule (R117 to R128). -/
theorem registerOp_of_scalarRule (rule : scalarRule s i = some (h, u)) : ∃ o, slotOp i = some o ∧ RegisterOp h s u o := by
  cases i
  case nop | add | addi | sub | mul | div | and | andi | or | ori | xor | xori | shl | clz | popc | ins | movi | movh | sel | mget | mstat
      | cstat =>
    cases rule; exact ⟨_, rfl, rfl, rfl, by simp⟩
  case mulh o _ _ _ =>
    cases o
    case s => cases rule; exact ⟨_, rfl, rfl, congrArg (toG 0 1 _ · _) (mulhValue_s _ _), by simp⟩
    case u => cases rule; exact ⟨_, rfl, rfl, rfl, by simp⟩
    case su => cases rule; exact ⟨_, rfl, rfl, congrArg (toG 0 1 _ · _) (mulhValue_su _ _), by simp⟩
  case shr arith _ _ _ =>
    cases arith
    · cases rule; exact ⟨_, rfl, rfl, rfl, by simp⟩
    · cases rule; exact ⟨_, rfl, rfl, congrArg (toG 0 0 _ · _) (shrValue_true _ _), by simp⟩
  case shli => cases rule; exact ⟨_, rfl, rfl, congrArg (toG 0 0 _ · _) (shlValue_setWidth _ _), by simp⟩
  case shri arith _ _ _ =>
    cases arith
    · cases rule; exact ⟨_, rfl, rfl, congrArg (toG 0 0 _ · _) (shrValue_false_setWidth _ _), by simp⟩
    · cases rule; exact ⟨_, rfl, rfl, congrArg (toG 0 0 _ · _) (shrValue_true_setWidth _ _), by simp⟩
  case min unsigned _ _ _ =>
    cases unsigned
    · cases rule; exact ⟨_, rfl, rfl, congrArg (toG 0 0 _ · _) (minValue_false _ _), by simp⟩
    · cases rule; exact ⟨_, rfl, rfl, congrArg (toG 0 0 _ · _) (minValue_true _ _), by simp⟩
  case max unsigned _ _ _ =>
    cases unsigned
    · cases rule; exact ⟨_, rfl, rfl, congrArg (toG 0 0 _ · _) (maxValue_false _ _), by simp⟩
    · cases rule; exact ⟨_, rfl, rfl, congrArg (toG 0 0 _ · _) (maxValue_true _ _), by simp⟩
  case ext signed _ _ _ _ =>
    cases signed
    · cases rule; exact ⟨_, rfl, rfl, congrArg (fun v => toG 0 0 _ (BitVec.ofNat 64 v) _) (extField_eq _ _ _), by simp⟩
    · cases rule; exact ⟨_, rfl, rfl, congrArg (fun v => toG 0 0 _ (BitVec.ofInt 64 (sextN _ v)) _) (extField_eq _ _ _), by simp⟩
  all_goals cases rule

theorem pandValue_xor (x y : Bool) : pandValue .xor x y = xor x y := by cases x <;> cases y <;> rfl

/-- Each scalar syllable that writes a predicate pair has the effect of its rule (R129 to R132). -/
theorem registerOp_of_pairRule (rule : pairRule s i = some (h, u)) : ∃ o, slotOp i = some o ∧ RegisterOp h s u o := by
  cases i
  case cmp | cmpi | pset => cases rule; exact ⟨_, rfl, rfl, rfl, by simp⟩
  case pand o _ _ _ _ =>
    cases o
    case xor => cases rule; exact ⟨_, rfl, rfl, congrArg (toPair _ _ _ · _) (pandValue_xor _ _), by simp⟩
    all_goals cases rule; exact ⟨_, rfl, rfl, rfl, by simp⟩
  all_goals cases rule

/-- VSEL picks the source of each lane, and so its field there (R175). -/
theorem vselOut_eq (r : Regs) (ty : ElemTy) (k : BitVec 3) (x y : VWord) :
    lanesOut ty.bits (lanesOf ty.bits) (BitVec.allOnes 256) false false
        (fun i => (laneN (if (readK r k).getLsbD i then x else y).toNat i ty.bits, 0)) =
      lanesOut ty.bits (lanesOf ty.bits) (readK r 0) false false
        (fun i => (if (readK r k).getLsbD i then laneN x.toNat i ty.bits else laneN y.toNat i ty.bits, 0)) := by
  refine congrArg _ (funext fun i => ?_)
  rw [apply_ite (fun v : VWord => laneN v.toNat i ty.bits)]

/-- Each lane-wise integer syllable has the effect of its rule (R170, R171, R175 to R178). -/
theorem registerOp_of_laneRule (rule : laneRule s i = some (h, u)) : ∃ o, slotOp i = some o ∧ RegisterOp h s u o := by
  cases i
  case vadd | vsub | vmul | vmulh | vmin | vmax | vand | vor | vxor | vshl | vshr | vabs | vpopc | vclz | vmov | vmadd | vbcast | vpack
      | vunpk =>
    cases rule; exact ⟨_, rfl, rfl, rfl, by simp⟩
  case vsel => cases rule; exact ⟨_, rfl, rfl, congrArg (toV _ 3 _ · _) (vselOut_eq _ _ _ _ _), by simp⟩
  case vperm two _ _ _ _ _ => cases two <;> cases rule <;> exact ⟨_, rfl, rfl, rfl, by simp⟩
  all_goals cases rule

/-- Each other syllable of the V slot that stores nothing has the effect of its rule (R172 to R189). -/
theorem registerOp_of_vectorRule (rule : vectorRule s i = some (h, u)) (plain : storesTile i = false) :
    ∃ o, slotOp i = some o ∧ RegisterOp h s u o := by
  cases i
  case vext | vins | vcmp | kop | vred | vscan | pln | upl | vfadd | vfsub | vfmul | vfma | vfmin | vfmax | vfdiv | vfrnd | vfcmpK | vfcmpP
      | vcvt | qnt | bsc | scacc | tli | vldp =>
    cases rule; exact ⟨_, rfl, rfl, rfl, by simp⟩
  case vstp => cases plain
  all_goals cases rule

end

end Sys2Proof.Proofs
end

section
/-! Proofs for 02_encoding.md: what the issue of a syllable whose result goes to a register leaves as it was (R43, R49). -/

namespace Sys2Proof.Proofs

open Sys2Proof Sys2Proof.Machine Sys2Proof.Safety Sys2Proof.Laws

/-! ## What no counted cycle and no move of the program counter changes -/

/-- A state without what a cycle, the move of the program counter and the latches change in the tile in focus. -/
def still (s : State) : State := onCtl keptCtl (onRegs files s)

theorem still_of_unlatched {s u : State} (h : unlatched u = unlatched s) : still u = still s :=
  (congrArg still h : still (unlatched u) = still (unlatched s))

theorem still_onCtl {f : Ctl → Ctl} (h : ∀ c, keptCtl (f c) = keptCtl c) (s : State) : still (onCtl f s) = still s := by
  simp only [still, onCtl, onRegs, onTile, h]

@[simp] theorem still_heldCounted (s : State) : still (heldCounted s) = still s := rfl
@[simp] theorem still_heldHaltable (s : State) : still (heldHaltable s) = still s := rfl

theorem still_iterationEnd (t0 : Tile) (pc next : Word) (n : Nat) (s : State) : still (iterationEnd t0 pc next n s) = still s := by
  induction n generalizing s with
  | zero => rfl
  | succ n ih =>
    simp only [iterationEnd]
    split
    · rfl
    · split
      · split
        · split <;> rfl
        · rw [ih]; split <;> rfl
      · rfl

@[simp] theorem still_advance (i s : State) : still (advance i s) = still s := by
  unfold advance
  split
  · rfl
  · exact still_iterationEnd _ _ _ _ _

@[simp] theorem still_endCycle (point : Bool) (i s : State) : still (endCycle point i s) = still s := by
  refine still_onCtl (fun c => ?_) (onRegs countCycle s)
  unfold emptyBuffer
  cases gacc : c.gacc <;> split <;> simp [keptCtl, gacc]

/-! ## The results in flight and RBASE -/

@[simp] theorem inflight_advance (i s : State) : (advance i s).tile.regs.inflight = s.tile.regs.inflight :=
  advance_frame (·.tile.regs.inflight) (fun _ _ => rfl) (fun _ => rfl) i s

theorem map_res_countCycle (r : Regs) : (countCycle r).inflight.map (·.res) = r.inflight.map (·.res) := by
  simp [countCycle]

/-- With no level active, no iteration ends, and nothing rotates (R85). -/
theorem advance_regs_of_noLevel (i : State) {s : State} (level : innermost s.tile.ctl = none) : (advance i s).tile.regs = s.tile.regs := by
  unfold advance
  split
  · rfl
  · simp only [iterationEnd, level]
    rfl

/-! ## The issue -/

/-- What the issue of a syllable at `s`, whose effect there is `u`, leaves in `t`. -/
structure ResultFrame (s u t : State) : Prop where
  still    : still t = still s
  inflight : t.tile.regs.inflight.map (·.res) = u.tile.regs.inflight.map (·.res) ∨ t.tile.regs.inflight = []
  rbase    : innermost s.tile.ctl = none → t.tile.regs.rbVb = s.tile.regs.rbVb ∧ t.tile.regs.rbPb = s.tile.regs.rbPb

section
variable {s u : State} {h : Hdr} {o : SlotOp}

/-- A cycle in which nothing takes effect. -/
theorem ResultFrame.of_held {t : State} (kept : Proofs.still t = Proofs.still s) (drained : t.tile.regs.inflight = [])
    (rb : t.tile.regs.rbVb = s.tile.regs.rbVb ∧ t.tile.regs.rbPb = s.tile.regs.rbPb) : ResultFrame s u t :=
  ⟨kept, .inr drained, fun _ => rb⟩

/-- The cycle in which the program counter moves on from `v`, which differs from `s` in latches and results in flight alone. -/
theorem ResultFrame.of_advance {v : State} (point : Bool) (keeps : unlatched v = unlatched s)
    (results : v.tile.regs.inflight = u.tile.regs.inflight ∨ v.tile.regs.inflight = []) :
    ResultFrame s u (endCycle point s (advance s v)) where
  still := by rw [still_endCycle, still_advance, still_of_unlatched keeps]
  inflight := by
    rw [endCycle_regs, map_res_countCycle, inflight_advance]
    exact results.imp (congrArg _) fun none => by simp [countCycle, none]
  rbase := fun level => by
    have ctl : v.tile.ctl = s.tile.ctl := congrArg (·.tile.ctl) keeps
    rw [endCycle_regs]
    change (advance s v).tile.regs.rbVb = _ ∧ (advance s v).tile.regs.rbPb = _
    rw [advance_regs_of_noLevel s (ctl ▸ level)]
    exact ⟨congrArg (·.tile.regs.rbVb) keeps, congrArg (·.tile.regs.rbPb) keeps⟩

/-- Such a syllable, alone in its bundle, is held, passes with its guard false, or takes effect: it faults nowhere. -/
theorem RegisterOp.issue (k : RegisterOp h s u o) (drained : s.tile.regs.inflight = []) : ResultFrame s u (issueOps [o] s) := by
  obtain ⟨plain, eff, keeps⟩ := k
  have fault5 : o.fault5 s = none := by rw [plain]
  have fault6 : o.fault6 s = none := by rw [plain]
  have reach : o.reach = id := by rw [plain]
  have held : o.held = id := by rw [plain]
  have post : o.post = fun _ s => s := by rw [plain]
  have cycle (t : State) (same : t.tile.regs = s.tile.regs) : (onRegs heldCycle t).tile.regs.inflight = [] := by
    simp [heldCycle, same, drained]
  rcases issue_cases o s with e | ⟨f, -, f5, -⟩ | ⟨f, -, f6, -⟩ | ⟨-, -, e⟩ | ⟨-, -, e⟩ | ⟨n, e⟩ | ⟨-, e⟩ | ⟨-, e⟩
  · rw [e]; exact .of_held rfl (cycle s rfl) ⟨rfl, rfl⟩
  · cases fault5.symm.trans f5
  · cases fault6.symm.trans f6
  · rw [e, noteHold_of_id reach held]; exact .of_held rfl (cycle s rfl) ⟨rfl, rfl⟩
  · rw [e, noteHold_of_id reach held]; exact .of_held rfl (cycle _ rfl) ⟨rfl, rfl⟩
  · rw [e]; exact .of_held rfl (cycle _ rfl) ⟨rfl, rfl⟩
  · rw [e]; exact .of_advance _ rfl (.inr drained)
  · rw [e, performedBy, post, eff]; exact .of_advance _ keeps (.inl rfl)

end

theorem registerOp_of_rule {s u : State} {i : Instr} {h : Hdr}
    (rule : scalarRule s i = some (h, u) ∨ pairRule s i = some (h, u) ∨ laneRule s i = some (h, u)
      ∨ (vectorRule s i = some (h, u) ∧ storesTile i = false)) : ∃ o, slotOp i = some o ∧ RegisterOp h s u o := by
  obtain scalar | pair | lane | ⟨vector, plain⟩ := rule
  · exact registerOp_of_scalarRule scalar
  · exact registerOp_of_pairRule pair
  · exact registerOp_of_laneRule lane
  · exact registerOp_of_vectorRule vector plain

/-- Settles O55: such a syllable is held, passes, or sends its rule's result on its way. -/
theorem resultSyllablesChangeNothingElse : Obligations.ResultSyllablesChangeNothingElse := by
  intro s i h u t rule drained run
  obtain ⟨o, op, result⟩ := registerOp_of_rule rule
  rw [exec_syllable op, run_next] at run
  cases run
  obtain ⟨still, inflight, rbase⟩ := result.issue drained
  have keep {β : Type} (f : State → β) : f (Proofs.still (issueOps [o] s)) = f (Proofs.still s) := congrArg f still
  exact ⟨keep (·.tile.regs), keep (·.tile.mem), keep (·.tile.eng), keep (·.tile.place), keep (·.tile.ctl), keep State.others, keep State.cur,
    keep State.mem, keep State.binds, keep State.vds, keep State.clusters, keep State.flume, keep State.mod, keep State.packets,
    keep State.doe, keep State.links, keep State.agenda, inflight, rbase⟩

end Sys2Proof.Proofs
end

section
/-! Proofs for 03_issue.md: taken transfers, and the LOOP and CALLSTK faults of those that may not be taken (R74, R88, R89, R93 to R98). -/

namespace Sys2Proof.Proofs

open Sys2Proof Sys2Proof.Machine Sys2Proof.Safety Sys2Proof.Laws

/-! ## Targets -/

/-- Scaling by 8 is a shift by 3. -/
theorem eight_mul_eq_shiftLeft (x : Word) : (8 : Word) * x = x <<< 3 := by
  rw [BitVec.shiftLeft_eq_mul_twoPow, BitVec.mul_comm]
  rfl

theorem relTarget_eq (s : State) (disp : BitVec 32) : relTarget s disp = s.tile.ctl.pc + (8 : Word) * disp.signExtend 64 := by
  rw [relTarget, eight_mul_eq_shiftLeft]

theorem brtTarget_eq (t0 t1 t2 t3 : BitVec 5) (stride1 : BitVec 3) (disp : BitVec 20) (s : State) :
    brtTarget t0 t1 t2 t3 stride1 disp s
      = s.tile.ctl.pc + (8 : Word) * disp.signExtend 64 + BitVec.ofNat 64 (32 * (brtIndex s.tile [t0, t1, t2, t3] * (stride1.toNat + 1))) := by
  rw [brtTarget, eight_mul_eq_shiftLeft, Nat.mul_comm 32]

/-- The alignment that BRI tests on the low three bits. -/
theorem lowThree_eq_zero_iff (x : Word) : x.extractLsb' 0 3 = 0 ↔ x.toNat % 8 = 0 := by
  simp [← BitVec.toNat_inj]

/-! ## What R88 lets be taken -/

/-- Whether a target lies in the innermost active body, where a level is active. -/
def InBody (s : State) (target : Word) : Prop := ∀ l, innermost s.tile.ctl = some l → target ∈ levelAddrs s.tile s.tile.ctl.loops[l]

theorem branchFault_of_inBody {s : State} {target : Word} (h : InBody s target) : branchFault target s = none := by
  unfold branchFault
  split
  · rfl
  · next l hl => exact if_pos (List.contains_iff_mem.mpr (h l hl))

theorem branchFault_of_outside {s : State} {target : Word} {l : Fin 6} (hl : innermost s.tile.ctl = some l)
    (h : target ∉ levelAddrs s.tile s.tile.ctl.loops[l]) : branchFault target s = some (loopFault 6 s) := by
  unfold branchFault
  rw [hl]
  exact if_neg (by simpa using h)

/-! ## A transfer that is taken -/

/-- A syllable whose whole effect is to take a transfer: the program counter's move leaves its target. -/
theorem run_of_transfer {o : SlotOp} {s t : State} {target : Word} (ready : Ready o.hdr (o.access s) s)
    (allowed : o.fault5 s = none) (eff : o.eff s s = takeTransfer target t) (passes : o.wait s = false) (sound : o.fault6 s = none)
    (settled : o.again s = false) (noPoint : o.point = false) (last : o.post = fun _ t => t) :
    ∃ u, o.run s = .next u ∧ u = endCycle o.hdr.pp s (takeTransfer target t) ∧ u.tile.ctl.pc = target ∧ u.tile.ctl.bubble = true := by
  refine ⟨_, ?_, rfl, endCycle_pc .., emptyBuffer_keeps Ctl.bubble (fun _ => rfl) _⟩
  rw [run_of_ready ready allowed passes sound settled, last, eff, noPoint, Bool.or_false]
  rfl

theorem transfer_taken {s t : State} {i : Instr} {h : Hdr} {target : Word} (rule : transferRule s i = some (h, true, target, t))
    (ready : Ready h [] s) :
    ∃ u, exec i s = .next u ∧ u = endCycle h.pp s (takeTransfer target t) ∧ u.tile.ctl.pc = target ∧ u.tile.ctl.bubble = true := by
  cases i with
  | br h' disp =>
    simp only [transferRule, Option.some.injEq, Prod.mk.injEq, ← relTarget_eq] at rule
    obtain ⟨rfl, inside, rfl, rfl⟩ := rule
    have inBody : InBody s (relTarget s disp) := fun l hl => by simpa [hl] using inside
    exact run_of_transfer (o := brOp h' disp) ready (branchFault_of_inBody inBody) rfl rfl rfl rfl rfl rfl
  | brt h' t0 t1 t2 t3 stride1 disp =>
    simp only [transferRule, Option.some.injEq, Prod.mk.injEq, ← brtTarget_eq] at rule
    obtain ⟨rfl, inside, rfl, rfl⟩ := rule
    have inBody : InBody s (brtTarget t0 t1 t2 t3 stride1 disp s) := fun l hl => by simpa [hl] using inside
    exact run_of_transfer (o := brtOp h' t0 t1 t2 t3 stride1 disp) ready (branchFault_of_inBody inBody) rfl rfl rfl rfl rfl rfl
  | bri h' a =>
    simp only [transferRule, Option.some.injEq, Prod.mk.injEq, Bool.and_eq_true, decide_eq_true_eq] at rule
    obtain ⟨rfl, ⟨aligned, inside⟩, rfl, rfl⟩ := rule
    have inBody : InBody s (srcSa s.tile.regs a) := fun l hl => by simpa [hl] using inside
    have allowed : (briOp h' a).fault5 s = none := by
      simp [briOp, (lowThree_eq_zero_iff _).mpr aligned, branchFault_of_inBody inBody]
    exact run_of_transfer (o := briOp h' a) ready allowed rfl rfl rfl rfl rfl rfl
  | call h' disp =>
    simp only [transferRule, Option.some.injEq, Prod.mk.injEq, Bool.and_eq_true, decide_eq_true_eq, ← relTarget_eq] at rule
    obtain ⟨rfl, ⟨noLevel, room⟩, rfl, rfl⟩ := rule
    have allowed : (callOp h' disp).fault5 s = none := by
      simp [callOp, callFault, Option.isNone_iff_eq_none.mp noLevel, room]
    exact run_of_transfer (o := callOp h' disp) ready allowed rfl rfl rfl rfl rfl rfl
  | ret h' =>
    simp only [transferRule, Option.some.injEq, Prod.mk.injEq, Bool.and_eq_true, Bool.not_eq_true'] at rule
    obtain ⟨rfl, ⟨noLevel, filled⟩, rfl, rfl⟩ := rule
    have allowed : (retOp h').fault5 s = none := by
      simp only [retOp, callFault, Option.isNone_iff_eq_none.mp noLevel, filled, Option.isSome_none, Bool.false_eq_true, if_false]
    exact run_of_transfer (o := retOp h') ready allowed rfl rfl rfl rfl rfl rfl
  | lbrk h' level =>
    simp only [transferRule, Option.some.injEq, Prod.mk.injEq] at rule
    obtain ⟨rfl, active, rfl, rfl⟩ := rule
    exact run_of_transfer (o := lbrkOp h' level) ready (if_pos active) rfl rfl rfl rfl rfl rfl
  | _ => cases rule

/-! ## Transfers that may not be taken -/

theorem callFault_of_active {s : State} (active : (innermost s.tile.ctl).isSome = true) : callFault s = some (loopFault 6 s) := if_pos active

theorem bri_outside_takes {s : State} {h : Hdr} {a : Src} {l : Fin 6} (j : Judged h s) (hl : innermost s.tile.ctl = some l)
    (outside : srcSa s.tile.regs a ∉ levelAddrs s.tile s.tile.ctl.loops[l]) (aligned : (srcSa s.tile.regs a).toNat % 8 = 0) :
    Takes (loopFault 6 s) (.bri h a) s := by
  have fault : (briOp h a).fault5 s = some (loopFault 6 s) := by
    simp [briOp, (lowThree_eq_zero_iff _).mpr aligned, branchFault_of_outside hl outside]
  exact run_of_fault5 (o := briOp h a) j fault rfl

/-- Settles O20: a transfer that R88, R93, R94, R95 and R98 let be taken leaves its target, and each of the others faults in step 5. -/
theorem transfers : Obligations.Transfers := by
  refine ⟨fun s i h target t rule ready => transfer_taken rule ready, ?_⟩
  intro s h disp t0 t1 t2 t3 stride1 bd a level j stack
  refine ⟨fun full => ?_, fun empty => ?_, fun active => ⟨fun room => ?_, fun filled => ?_⟩,
    fun l hl => ⟨fun outside => ?_, fun outside => ?_, fun outside aligned => bri_outside_takes j hl outside aligned⟩, fun inactive => ?_⟩
  · exact run_of_fault5 (o := callOp h disp) j (if_pos full) rfl
  · exact run_of_fault5 (o := retOp h) j (if_pos (List.isEmpty_iff.mpr empty)) rfl
  · exact run_of_fault5 (o := callOp h disp) j ((if_neg (Nat.not_le.mpr room)).trans (callFault_of_active active)) rfl
  · exact run_of_fault5 (o := retOp h) j ((if_neg (by simpa using filled)).trans (callFault_of_active active)) rfl
  · exact run_of_fault5 (o := brOp h disp) j (branchFault_of_outside hl outside) rfl
  · exact run_of_fault5 (o := brtOp h t0 t1 t2 t3 stride1 bd) j (branchFault_of_outside hl outside) rfl
  · exact run_of_fault5 (o := lbrkOp h level) j (if_neg (by simp [inactive])) rfl

end Sys2Proof.Proofs
end

section
/-! Proofs for 03_issue.md: LOOP, which arms its level, passes over its body or raises LOOP (R83, R89, R97). -/

namespace Sys2Proof.Proofs

open Sys2Proof Sys2Proof.Machine Sys2Proof.Safety Sys2Proof.Laws

/-! ## The limits of R89, in the order in which they are judged -/

section

variable (s : State) (level : BitVec 3) (count : Reg) (len1 : BitVec 6)

/-- A LOOP's level is above every active one. -/
def LevelAbove : Prop := ∀ l, innermost s.tile.ctl = some l → l.val < level.toNat

/-- A LOOP's body ends no later than the innermost active one. -/
def BodyWithin : Prop :=
  ∀ l, innermost s.tile.ctl = some l →
    (lastOfBody s.tile len1.toNat (nextPc s.tile)).toNat ≤ (levelLast s.tile s.tile.ctl.loops[l]).toNat

end

section

variable {s : State} {level : BitVec 3} {count : Reg} {len1 : BitVec 6}

theorem loopFaultOf_noSuchLevel (h : 5 < level.toNat) : loopFaultOf level count len1 s = some (loopFault 1 s) := if_pos h

theorem loopFaultOf_notAbove (valid : level.toNat ≤ 5) (h : ¬ LevelAbove s level) :
    loopFaultOf level count len1 s = some (loopFault 2 s) := by
  simp only [LevelAbove, not_forall, Nat.not_lt] at h
  obtain ⟨l, hl, le⟩ := h
  simp [-Nat.reducePow, loopFaultOf, Nat.not_lt.mpr valid, hl, le]

theorem loopFaultOf_countTooLarge (valid : level.toNat ≤ 5) (above : LevelAbove s level) (h : 2 ^ 32 ≤ (readG s.tile.regs count).toNat) :
    loopFaultOf level count len1 s = some (loopFault 3 s) := by
  cases hl : innermost s.tile.ctl with
  | none => simp [-Nat.reducePow, loopFaultOf, Nat.not_lt.mpr valid, hl, h]
  | some l => simp [-Nat.reducePow, loopFaultOf, Nat.not_lt.mpr valid, hl, Nat.not_le.mpr (above l hl), h]

theorem loopFaultOf_endsAfter (valid : level.toNat ≤ 5) (above : LevelAbove s level) (small : (readG s.tile.regs count).toNat < 2 ^ 32)
    (h : ¬ BodyWithin s len1) : loopFaultOf level count len1 s = some (loopFault 4 s) := by
  simp only [BodyWithin, not_forall, Nat.not_le] at h
  obtain ⟨l, hl, later⟩ := h
  simpa [-Nat.reducePow, loopFaultOf, Nat.not_lt.mpr valid, hl, Nat.not_le.mpr (above l hl), Nat.not_le.mpr small] using later

theorem loopFaultOf_eq_none (valid : level.toNat ≤ 5) (above : LevelAbove s level) (small : (readG s.tile.regs count).toNat < 2 ^ 32)
    (within : BodyWithin s len1) : loopFaultOf level count len1 s = none := by
  cases hl : innermost s.tile.ctl with
  | none => simp [-Nat.reducePow, loopFaultOf, Nat.not_lt.mpr valid, hl, Nat.not_le.mpr small]
  | some l => simpa [-Nat.reducePow, loopFaultOf, Nat.not_lt.mpr valid, hl, Nat.not_le.mpr (above l hl), Nat.not_le.mpr small] using within l hl

end

/-- Settles O21: past its limits LOOP is a transfer for a count of zero and arms its level for another; each limit has its row of R89. -/
theorem loopArmsOrSkips : Obligations.LoopArmsOrSkips := by
  intro s h level count rotate len1 n last above within
  refine ⟨fun ready valid isAbove isWithin small => ⟨fun zero => ?_, fun nonzero => ?_⟩, fun j =>
    ⟨fun beyond => ?_, fun valid notAbove => ?_, fun valid isAbove large => ?_, fun valid isAbove small notWithin => ?_⟩⟩
  · have skips : (loopOp h level count rotate len1).eff s s = takeTransfer (afterBody s.tile (len1.toNat + 1) (nextPc s.tile)) s := if_pos zero
    obtain ⟨u, run, rfl, -⟩ := run_of_transfer (o := loopOp h level count rotate len1) ready
      (loopFaultOf_eq_none valid isAbove small isWithin) skips rfl rfl rfl rfl rfl
    exact run
  · exact run_of_plain (o := loopOp h level count rotate len1) ready (if_neg nonzero) (loopFaultOf_eq_none valid isAbove small isWithin) rfl rfl
      fun _ => rfl
  · exact run_of_fault5 (o := loopOp h level count rotate len1) j (loopFaultOf_noSuchLevel beyond) rfl
  · exact run_of_fault5 (o := loopOp h level count rotate len1) j (loopFaultOf_notAbove valid notAbove) rfl
  · exact run_of_fault5 (o := loopOp h level count rotate len1) j (loopFaultOf_countTooLarge valid isAbove large) rfl
  · exact run_of_fault5 (o := loopOp h level count rotate len1) j (loopFaultOf_endsAfter valid isAbove small notWithin) rfl

end Sys2Proof.Proofs
end

section
/-! Proofs for 03_issue.md: the end of an iteration, of the innermost level and of those that end with it (R85). -/

namespace Sys2Proof.Proofs

open Sys2Proof Sys2Proof.Machine Sys2Proof.Safety Sys2Proof.Laws

/-! ## Levels -/

theorem innermost_active {c : Ctl} {l : Fin 6} (h : innermost c = some l) : c.loops[l].active = true := by
  unfold innermost at h
  split_ifs at h <;> cases h <;> assumption

/-! ## Rotation -/

/-- How often a level's rotation bases are lowered at the end of one iteration. -/
def turnOf (rotate : Bool) : Nat := if rotate then 1 else 0

/-- The end of an iteration of a level, as far as its rotation goes. -/
def rotated (rotate : Bool) (s : State) : State := if rotate then onRegs rotateBase s else s

@[simp] theorem rotated_ctl (rotate : Bool) (s : State) : (rotated rotate s).tile.ctl = s.tile.ctl := by
  cases rotate <;> rfl

@[simp] theorem rotated_rbVb (rotate : Bool) (s : State) :
    (rotated rotate s).tile.regs.rbVb = s.tile.regs.rbVb - BitVec.ofNat 5 (turnOf rotate) := by
  cases rotate
  · exact (BitVec.sub_zero _).symm
  · rfl

@[simp] theorem rotated_rbPb (rotate : Bool) (s : State) :
    (rotated rotate s).tile.regs.rbPb = s.tile.regs.rbPb - BitVec.ofNat 4 (turnOf rotate) := by
  cases rotate
  · exact (BitVec.sub_zero _).symm
  · rfl

theorem sub_ofNat_sub_ofNat {w : Nat} (x : BitVec w) (m n : Nat) : x - BitVec.ofNat w m - BitVec.ofNat w n = x - BitVec.ofNat w (m + n) := by
  rw [BitVec.ofNat_add, sub_sub]

/-! ## The three ends of an iteration -/

/-- Level `l` begins its body again. -/
def iterationAgain (l : Fin 6) (s : State) : State :=
  onCtl (fun c => { c with pc := BitVec.ofNat 64 s.tile.ctl.loops[l].first
                           loops := c.loops.set l { s.tile.ctl.loops[l] with count := s.tile.ctl.loops[l].count - 1, isFirst := false } })
    (rotated s.tile.ctl.loops[l].rotate s)

/-- Level `l` becomes inactive. -/
def levelOver (l : Fin 6) (s : State) : State :=
  onCtl (fun c => { c with loops := c.loops.set l { s.tile.ctl.loops[l] with active := false } }) (rotated s.tile.ctl.loops[l].rotate s)

section

variable {t0 : Tile} {pc next : Word} {n : Nat} {s : State} {l : Fin 6}

theorem iterationEnd_again (hl : innermost s.tile.ctl = some l) (ends : levelLast t0 s.tile.ctl.loops[l] = pc)
    (more : 1 < s.tile.ctl.loops[l].count) : iterationEnd t0 pc next (n + 1) s = iterationAgain l s := by
  simp only [iterationEnd, hl, ends, if_true, more]
  rfl

theorem iterationEnd_over (hl : innermost s.tile.ctl = some l) (ends : levelLast t0 s.tile.ctl.loops[l] = pc)
    (last : s.tile.ctl.loops[l].count ≤ 1) : iterationEnd t0 pc next (n + 1) s = iterationEnd t0 pc next n (levelOver l s) := by
  simp only [iterationEnd, hl, ends, if_true, Nat.not_lt.mpr last, if_false]
  rfl

theorem iterationEnd_noLevel (hl : innermost s.tile.ctl = none) :
    iterationEnd t0 pc next n s = onCtl (fun c => { c with pc := next }) s := by
  cases n with
  | zero => rfl
  | succ n => simp only [iterationEnd, hl]

theorem iterationEnd_elsewhere (hl : innermost s.tile.ctl = some l) (goesOn : levelLast t0 s.tile.ctl.loops[l] ≠ pc) :
    iterationEnd t0 pc next n s = onCtl (fun c => { c with pc := next }) s := by
  cases n with
  | zero => rfl
  | succ n => simp only [iterationEnd, hl, goesOn, if_false]

/-- No end of an iteration makes a level active. -/
theorem iterationEnd_inactive (k : Fin 6) (n : Nat) {s : State} (h : s.tile.ctl.loops[k].active = false) :
    (iterationEnd t0 pc next n s).tile.ctl.loops[k].active = false := by
  induction n generalizing s with
  | zero => exact h
  | succ n ih =>
    cases hl : innermost s.tile.ctl with
    | none => rw [iterationEnd_noLevel hl]; exact h
    | some l =>
      have other : l.val ≠ k.val := fun e => by
        have active := innermost_active hl
        rw [Fin.ext e, h] at active
        cases active
      by_cases ends : levelLast t0 s.tile.ctl.loops[l] = pc
      · by_cases more : 1 < s.tile.ctl.loops[l].count
        · rw [iterationEnd_again hl ends more]
          simpa [iterationAgain, Vector.getElem_set_ne, other] using h
        · rw [iterationEnd_over hl ends (Nat.not_lt.mp more)]
          exact ih (by simpa [levelOver, Vector.getElem_set_ne, other] using h)
      · rw [iterationEnd_elsewhere hl ends]; exact h

end

/-! ## What an end leaves -/

section

variable (l : Fin 6) (s : State)

theorem iterationAgain_pc : (iterationAgain l s).tile.ctl.pc = BitVec.ofNat 64 s.tile.ctl.loops[l].first := rfl

theorem iterationAgain_loops : (iterationAgain l s).tile.ctl.loops
    = s.tile.ctl.loops.set l { s.tile.ctl.loops[l] with count := s.tile.ctl.loops[l].count - 1, isFirst := false } := by
  simp [iterationAgain]

theorem iterationAgain_rbVb :
    (iterationAgain l s).tile.regs.rbVb = s.tile.regs.rbVb - BitVec.ofNat 5 (turnOf s.tile.ctl.loops[l].rotate) := rotated_rbVb _ s
theorem iterationAgain_rbPb :
    (iterationAgain l s).tile.regs.rbPb = s.tile.regs.rbPb - BitVec.ofNat 4 (turnOf s.tile.ctl.loops[l].rotate) := rotated_rbPb _ s

theorem levelOver_ctl :
    (levelOver l s).tile.ctl = { s.tile.ctl with loops := s.tile.ctl.loops.set l { s.tile.ctl.loops[l] with active := false } } := by
  simp [levelOver]

theorem levelOver_rbVb :
    (levelOver l s).tile.regs.rbVb = s.tile.regs.rbVb - BitVec.ofNat 5 (turnOf s.tile.ctl.loops[l].rotate) := rotated_rbVb _ s
theorem levelOver_rbPb :
    (levelOver l s).tile.regs.rbPb = s.tile.regs.rbPb - BitVec.ofNat 4 (turnOf s.tile.ctl.loops[l].rotate) := rotated_rbPb _ s

end

/-- Settles O22: an iteration that is not the last begins its body again; the last leaves its level inactive and ends that of the enclosing
one by the same step. -/
theorem iterationEnds : Obligations.IterationEnds := by
  intro s l next hl ends lv u turn
  refine ⟨fun more => ?_, fun last => ?_⟩
  · have again : u = iterationAgain l s := iterationEnd_again hl ends more
    rw [again]
    exact ⟨rfl, iterationAgain_loops l s, iterationAgain_rbVb l s, iterationAgain_rbPb l s⟩
  · intro loops
    have ended : u = iterationEnd s.tile s.tile.ctl.pc next 5 (levelOver l s) := iterationEnd_over hl ends last
    have ctl : { s.tile.ctl with loops := loops } = (levelOver l s).tile.ctl := (levelOver_ctl l s).symm
    rw [ended, ctl]
    have loopsOver : loops = (levelOver l s).tile.ctl.loops := congrArg Ctl.loops ctl
    split
    · next outer =>
      rw [iterationEnd_noLevel outer]
      exact ⟨rfl, loopsOver.symm, levelOver_rbVb l s, levelOver_rbPb l s⟩
    · next k outer =>
      rw [loopsOver]
      refine ⟨fun goesOn => ?_, fun endsToo more => ?_, fun endsToo last => ?_⟩
      · rw [iterationEnd_elsewhere outer goesOn]
        exact ⟨rfl, rfl, levelOver_rbVb l s⟩
      · rw [iterationEnd_again outer endsToo more]
        refine ⟨rfl, iterationAgain_loops k _, ?_, ?_⟩
        · rw [iterationAgain_rbVb, levelOver_rbVb, sub_ofNat_sub_ofNat]; rfl
        · rw [iterationAgain_rbPb, levelOver_rbPb, sub_ofNat_sub_ofNat]; rfl
      · rw [iterationEnd_over outer endsToo last]
        refine iterationEnd_inactive k _ ?_
        simp [levelOver_ctl k]

end Sys2Proof.Proofs
end

section
/-! Proofs for 03_issue.md: RDSR and WRSR of every special register, and what an ILLEGAL of them leaves (R101 to R104, R413). -/

namespace Sys2Proof.Proofs

open Sys2Proof Sys2Proof.Machine Sys2Proof.Safety Sys2Proof.Laws

/-! ## The tile that has taken a fault (R413) -/

theorem recordFaults_pc (fs : List TFault) (s : State) : (fs.foldl (recordFault s.cur) s).tile.ctl.pc = s.tile.ctl.pc := by
  induction fs generalizing s with
  | nil => rfl
  | cons f fs ih =>
    have rest := ih (recordFault s.cur s f)
    rw [recordFault_cur] at rest
    rw [List.foldl_cons, rest, recordFault_own]
    rfl

/-- Only the FETCH fault of a wild target moves the program counter (R69). -/
theorem takeFault_pc {f : TFault} (notFetch : f.code ≠ 0x02) (s : State) : (takeFault f s).tile.ctl.pc = s.tile.ctl.pc := by
  have notNarrowed : narrowPc f = id := funext fun c => if_neg fun both => notFetch both.1
  rw [takeFault, notNarrowed, takeFaults, if_neg (by simp), onCtl_tile_ctl, onTile_tile, id_eq, stopTile_ctl_keeps Ctl.pc fun _ => rfl,
    haltOthers_tile_eq, recordFaults_pc]

/-! ## The registers there are -/

theorem specialReg_eq_none {n : Nat} (s : State) (h : 0x12 ≤ n) : specialReg s n = none := by
  unfold specialReg
  split <;> simp_all

/-- Whether an index has RW fields does not depend on what is written. -/
theorem writeSpecial_isSome (k : Nat) (v w : Word) : (writeSpecial k v).isSome = (writeSpecial k w).isSome := by
  unfold writeSpecial
  split <;> rfl

theorem writeSpecial_eq_none {k : Nat} (h : k ≠ 0x0A ∧ k ≠ 0x10 ∧ k ≠ 0x11) (v : Word) : writeSpecial k v = none := by
  obtain ⟨rbase, fpctl, fpflags⟩ := h
  unfold writeSpecial
  split <;> simp_all

/-! ## RW fields read back (R103) -/

theorem rbase_readsBack (r : Regs) (v : Word) :
    rbase { r with rbVb := v.extractLsb' 0 5, rbPb := v.extractLsb' 8 4 } = v &&& 0xF1F := by
  refine BitVec.eq_of_getLsbD_eq fun i hi => ?_
  rw [rbase, BitVec.getLsbD_append, BitVec.getLsbD_append, BitVec.getLsbD_append]
  interval_cases i <;> simp

theorem ftz_readsBack (v : Word) : (BitVec.ofBool (v.getLsbD 0)).setWidth 64 = v &&& 1 := by
  ext i hi
  interval_cases i <;> simp

theorem fpflags_readsBack (v : Word) : (v.extractLsb' 0 5).setWidth 64 = v &&& 0x1F := by
  ext i hi
  interval_cases i <;> simp

/-- Settles O24: the check of step 5 finds whether there is such a register, or such a field; the fields are those that their masks keep. -/
theorem specialRegisters : Obligations.SpecialRegisters := by
  intro s h d a idx v
  refine ⟨fun x ready there => ?_, fun f ready there => ?_, fun j => ⟨fun beyond => ?_, fun notRbase notFpctl notFpflags => ?_, ?_, ?_, ?_⟩,
    fun off settled fresh => ⟨?_, ?_⟩, fun f wf => ?_, fun f wf => ?_, fun f wf => ?_, fun k hk => ?_⟩
  · have value : (rdsrOp h d idx).eff s s = toG 0 0 d x s := by simp [rdsrOp, there, toG]
    exact run_of_plain (o := rdsrOp h d idx) ready value (by simp [rdsrOp, there]) rfl rfl fun _ => rfl
  · have written : (wrsrOp h a idx).eff s s = onRegs f (readS1 a s) := by simp [wrsrOp, there, readS1]
    have allowed : (wrsrOp h a idx).fault5 s = none :=
      if_pos (by rw [writeSpecial_isSome idx.toNat 0 (srcSa s.tile.regs a), there]; rfl)
    exact run_of_plain (o := wrsrOp h a idx) ready written allowed rfl rfl fun _ => rfl
  · exact run_of_fault5 (o := rdsrOp h d idx) j (by simp [rdsrOp, specialReg_eq_none s beyond]) rfl
  · have noField : writeSpecial idx.toNat 0 = none :=
      writeSpecial_eq_none ⟨fun e => notRbase (BitVec.eq_of_toNat_eq e), fun e => notFpctl (BitVec.eq_of_toNat_eq e),
        fun e => notFpflags (BitVec.eq_of_toNat_eq e)⟩ 0
    exact run_of_fault5 (o := wrsrOp h a idx) j (if_neg (by rw [noField]; exact Bool.false_ne_true)) rfl
  · exact (takeFault_flt (illegal s) s).1
  · exact (takeFault_flt (illegal s) s).2
  · exact takeFault_pc (by decide : (0x01 : BitVec 8) ≠ 0x02) s
  · exact run_of_off (o := rdsrOp h d idx) off settled fresh
  · exact run_of_off (o := wrsrOp h a idx) off settled fresh
  · cases wf; exact congrArg some (rbase_readsBack s.tile.regs v)
  · cases wf; exact congrArg some (ftz_readsBack v)
  · cases wf; exact congrArg some (fpflags_readsBack v)
  · fin_cases hk <;> rfl

end Sys2Proof.Proofs
end

section
/-! Proofs for 03_issue.md: misplaced accesses and targets, which step 5 refuses before anything else (R95, R192, R208, R210, R212, R347, R415). -/

namespace Sys2Proof.Proofs

open Sys2Proof Sys2Proof.Machine Sys2Proof.Safety Sys2Proof.Laws

/-! ## The checks of addresses -/

section

variable {t : Tile} {a : Word} {n al elem : Nat}

theorem spadFault_of_misaligned (h : a.toNat % al ≠ 0) : spadFault t a n al elem = some (addrFault 0x04 a 0 elem) := if_pos h

theorem spadFault_of_beyond (aligned : a.toNat % al = 0) (h : progEnd t < a.toNat + n) : spadFault t a n al elem = some (beyond t a elem) := by
  rw [spadFault, if_neg (not_not.mpr aligned), inProg, decide_eq_false (Nat.not_le.mpr h)]
  rfl

theorem globalAlign_of_misaligned {w : Width} {v : Word} (h : v.toNat % Width.size w ≠ 0) : globalAlign w v = some (addrFault 0x04 v 2 0) :=
  if_pos h

theorem spillFault_of_misaligned {w : Width} {disp : BitVec 14} (h : disp.toNat % Width.size w ≠ 0) :
    spillFault (Width.size w) disp.toNat = some (addrFault 0x04 (disp.setWidth 64) 1 0) := by
  rw [spillFault, if_pos h, BitVec.ofNat_toNat]

theorem firstFault_of_pass {α : Type} {f : α → Option TFault} {xs ys : List α} {y : α} {e : TFault} (pass : ∀ x ∈ xs, f x = none)
    (h : f y = some e) : firstFault f (xs ++ y :: ys) = some e := by
  induction xs with
  | nil => simp [firstFault, h]
  | cons x xs ih =>
    rw [List.forall_mem_cons] at pass
    simp [firstFault, pass.1, ih pass.2]

/-- The lowest active element that a check refuses is the one reported. -/
theorem elemsFault_of_pass {es fs : List (Nat × Word)} {e : Nat × Word} {f : TFault}
    (pass : ∀ y ∈ es, y.2.toNat % al = 0 ∧ y.2.toNat + n ≤ progEnd t) (h : spadFault t e.2 n al e.1 = some f) :
    elemsFault t n al (es ++ e :: fs) = some f :=
  firstFault_of_pass (fun y hy => spadFault_of_inReach (pass y hy) y.1) h

end

/-! ## Syllables that check an address first -/

/-- A syllable of header `h` that takes fault `f` in step 5, where no check acts before it. -/
structure Refuses (h : Hdr) (f : TFault) (i : Instr) (s : State) (o : SlotOp) : Prop where
  op    : slotOp i = some o
  hdr   : o.hdr = h
  judge : o.judge s = s
  fault : o.fault5 s = some f

theorem Refuses.takes {h : Hdr} {f : TFault} {i : Instr} {s : State} {o : SlotOp} (r : Refuses h f i s o) (j : Judged h s) : Takes f i s := by
  rw [Takes, exec_syllable r.op]
  exact run_of_fault5 (r.hdr ▸ j) r.fault r.judge

/-- A syllable whose step 5 begins with the checks of `n` aligned bytes of scratchpad at `a`. -/
structure ChecksSpad (h : Hdr) (a : Word) (n : Nat) (i : Instr) (s : State) (o : SlotOp) : Prop where
  op     : slotOp i = some o
  hdr    : o.hdr = h
  judge  : o.judge s = s
  checks : ∀ f, spadFault s.tile a n n 0 = some f → o.fault5 s = some f

theorem ChecksSpad.takes {h : Hdr} {a : Word} {n : Nat} {i : Instr} {s : State} {o : SlotOp} (c : ChecksSpad h a n i s o) (j : Judged h s) :
    (a.toNat % n ≠ 0 → Takes (addrFault 0x04 a 0 0) i s)
      ∧ (a.toNat % n = 0 → progEnd s.tile < a.toNat + n → Takes (beyond s.tile a 0) i s) :=
  have refused {f : TFault} (e : spadFault s.tile a n n 0 = some f) : Takes f i s := Refuses.takes ⟨c.op, c.hdr, c.judge, c.checks f e⟩ j
  ⟨fun off => refused (spadFault_of_misaligned off), fun aligned past => refused (spadFault_of_beyond aligned past)⟩

/-- SWINIT checks its target after its address. -/
theorem swinit_checksSpad (h : Hdr) (c x : Reg) (s : State) : ChecksSpad h (readG s.tile.regs c) 16 (.swinit h c x) s (swinitOp h c x) :=
  ⟨rfl, rfl, rfl, fun f e => by simp [swinitOp, syncFault, e]⟩

theorem bri_misaligned {s : State} {h : Hdr} {a : Src} (off : (srcSa s.tile.regs a).toNat % 8 ≠ 0) :
    Refuses h (addrFault 0x04 (srcSa s.tile.regs a) 3 0) (.bri h a) s (briOp h a) :=
  ⟨rfl, rfl, rfl, if_pos (bne_iff_ne.mpr fun low => off ((lowThree_eq_zero_iff _).mp low))⟩

/-- A misaligned WAITM reads nothing, so that its check leaves the machine as it was. -/
theorem waitm_misaligned {s : State} {h : Hdr} {w : Width} {d : Reg} {a b : Src} (off : (srcSa s.tile.regs a).toNat % Width.size w ≠ 0) :
    Refuses h (addrFault 0x04 (srcSa s.tile.regs a) 2 0) (.waitm h w d a b) s (waitmOp h w d a b) :=
  have refused := globalAlign_of_misaligned off
  ⟨rfl, rfl, by simp [waitmOp, waitmJudge, refused], by simp [waitmOp, waitmFault, refused]⟩

/-! ## Vector accesses -/

/-- Step 5 of a vector access: the alignment of its base where its form needs it, then its elements in lane order (R207, R208). -/
theorem vmem_fault5 {s : State} {i : Instr} {h : Hdr} {m al : Nat} {load : Bool} (form : vmemForm i = some (h, m, al, load)) :
    ∃ o, slotOp i = some o ∧ o.hdr = h ∧ o.judge s = s ∧ o.fault5 s =
      if (vmemStart s i).toNat % 64 ≠ 0 then some (addrFault 0x04 (vmemStart s i) 0 0) else elemsFault s.tile m al (vmemElems s i) := by
  cases i with
  | vld | vst | vlds | vsts | vgath | vscat => cases form; exact ⟨_, rfl, rfl, rfl, rfl⟩
  | _ => cases form

theorem vmem_takes {s : State} {i : Instr} {h : Hdr} {m al : Nat} {load : Bool} {es fs : List (Nat × Word)} {e : Nat × Word} (j : Judged h s)
    (form : vmemForm i = some (h, m, al, load)) :
    ((vmemStart s i).toNat % 64 ≠ 0 → Takes (addrFault 0x04 (vmemStart s i) 0 0) i s)
      ∧ ((vmemStart s i).toNat % 64 = 0 → vmemElems s i = es ++ e :: fs →
        (∀ y ∈ es, y.2.toNat % al = 0 ∧ y.2.toNat + m ≤ progEnd s.tile) →
        (e.2.toNat % al ≠ 0 → Takes (addrFault 0x04 e.2 0 e.1) i s)
        ∧ (e.2.toNat % al = 0 → progEnd s.tile < e.2.toNat + m → Takes (beyond s.tile e.2 e.1) i s)) := by
  obtain ⟨o, op, hdr, judge, fault5⟩ := vmem_fault5 (s := s) form
  refine ⟨fun off => Refuses.takes ⟨op, hdr, judge, fault5.trans (if_pos off)⟩ j, fun start elems pass => ?_⟩
  have refused {f : TFault} (bad : spadFault s.tile e.2 m al e.1 = some f) : Takes f i s :=
    Refuses.takes ⟨op, hdr, judge, by rw [fault5, if_neg (not_not.mpr start), elems, elemsFault_of_pass pass bad]⟩ j
  exact ⟨fun off => refused (spadFault_of_misaligned off), fun aligned past => refused (spadFault_of_beyond aligned past)⟩

/-- Settles O17: each of these syllables begins its step 5 with the check of its address. -/
theorem misplacedAccessesFault : Obligations.MisplacedAccessesFault := by
  intro s h w r d c x base src disp pd o sd sc op q win rep j a g b n card
  refine ⟨fun p hp => ?_, fun off i hi => ?_, fun off i hi => ?_, fun off i hi => ?_, fun off => (bri_misaligned off).takes j,
    fun i m al load es fs e form => vmem_takes j form⟩
  · simp only [List.mem_cons, List.not_mem_nil, or_false] at hp
    rcases hp with rfl | rfl | rfl | rfl | rfl | rfl | rfl | rfl | rfl
    · exact ChecksSpad.takes (o := ldsOp h w r base disp) ⟨rfl, rfl, rfl, fun _ e => e⟩ j
    · exact ChecksSpad.takes (o := stsOp h w r base disp) ⟨rfl, rfl, rfl, fun _ e => e⟩ j
    · exact (swinit_checksSpad h c x s).takes j
    · exact ChecksSpad.takes (o := swaddOp h c x) ⟨rfl, rfl, rfl, fun _ e => e⟩ j
    · exact ChecksSpad.takes (o := swrdOp h x c) ⟨rfl, rfl, rfl, fun _ e => e⟩ j
    · exact ChecksSpad.takes (o := waitsOp h base src) ⟨rfl, rfl, rfl, fun _ e => e⟩ j
    · exact ChecksSpad.takes (o := cpyOp h c q) ⟨rfl, rfl, rfl, fun _ e => e⟩ j
    · exact ChecksSpad.takes (o := cpysOp h c x q) ⟨rfl, rfl, rfl, fun _ e => e⟩ j
    · exact ChecksSpad.takes (o := boardOp h win rep c) ⟨rfl, rfl, rfl, fun _ e => e⟩ j
  · have refused := spillFault_of_misaligned off
    simp only [List.mem_cons, List.not_mem_nil, or_false] at hi
    rcases hi with rfl | rfl
    · exact Refuses.takes (o := ldpOp h w r pd) ⟨rfl, rfl, rfl, refused⟩ j
    · exact Refuses.takes (o := stpOp h w r pd) ⟨rfl, rfl, rfl, refused⟩ j
  · have refused := globalAlign_of_misaligned off
    simp only [List.mem_cons, List.not_mem_nil, or_false] at hi
    rcases hi with rfl | rfl
    · exact Refuses.takes (o := ldgOp h w o r base sd) ⟨rfl, rfl, rfl, refused⟩ j
    · exact Refuses.takes (o := stgOp h w o r base sd) ⟨rfl, rfl, rfl, refused⟩ j
  · have refused := globalAlign_of_misaligned off
    simp only [List.mem_cons, List.not_mem_nil, or_false] at hi
    rcases hi with rfl | rfl | rfl | rfl
    · exact Refuses.takes (o := amoOp h op w o sc d base r) ⟨rfl, rfl, rfl, refused⟩ j
    · exact Refuses.takes (o := acasOp h w o sc d base r) ⟨rfl, rfl, rfl, refused⟩ j
    · exact Refuses.takes (o := redOp h op w o sc base r) ⟨rfl, rfl, rfl, refused⟩ j
    · exact (waitm_misaligned off).takes j

end Sys2Proof.Proofs
end

section
/-! Proofs for 03_issue.md: the commands that reply to a saved gang, change its overlay pages, define sessions and read or release snapshots
(R70, R72, R388, R420, R436, R467 to R469). -/

namespace Sys2Proof.Proofs

open Sys2Proof Sys2Proof.Machine Sys2Proof.Safety Sys2Proof.Laws

/-! ## A command that is heard is carried out by its body -/

section

variable {vd : BitVec 8} {c : Cmd} {masks : List (BitVec 64)} {zeroOnly : Bool} {s t u : State} {status value : Nat}

/-- The end of a command whose body has been run. -/
def cmdEnded (vd : BitVec 8) (c : Cmd) : CmdOut → State
  | .done status value s => answered vd c status value s
  | .wait s => s

theorem runCmd_of_heard (h : Heard vd c masks zeroOnly s t) (body : State → CmdOut) :
    runCmd vd c masks zeroOnly body s = cmdEnded vd c (body t) := by
  obtain ⟨live, word, fresh, clean, may⟩ := h
  have admitted : (zeroOnly && vd != 0) = false ∧ (!zeroOnly && (getVd vd t).tstate == .locked) = false := by
    cases zeroOnly
    · simpa using may
    · simpa using may
  simp only [runCmd, cmdTake, if_neg live, word, fresh, clean, admitted.1, admitted.2]
  cases body t <;> rfl

theorem next_of_heard (h : Heard vd c masks zeroOnly s t) {body : State → CmdOut} (b : body t = .done status value u) :
    (Host.Outcome.next (runCmd vd c masks zeroOnly body s) : Host.Outcome State Fault Refusal) = .next (answered vd c status value u) := by
  rw [runCmd_of_heard h, b]
  rfl

end

/-! ## Commands on the bind record of a known job -/

section

variable {vd : BitVec 8} {c : Cmd} {t : State} {j : Job} {k : Nat}

theorem onRecord_of_known (known : knownJob (getVd vd t) c = some j) (slot : j.slot = some k) (body : Nat → Job → State → CmdOut) :
    onRecord vd c body t = body k j t := by
  simp only [onRecord, known, slot]

theorem onReply_of_saved (known : knownJob (getVd vd t) c = some j) (slot : j.slot = some k) (saved : (getBind k t).state = .saved)
    (body : Nat → Job → Bind → State → CmdOut) : onReply vd c body t = body k j (getBind k t) t := by
  simp [onReply, onRecord_of_known known slot, saved]

end

/-! ## Overlay pages -/

section

variable {vd : BitVec 8} {t u w : State} {a n : Nat} {bs : List Byte}

theorem imageBytes_of_read (pos : 0 < n) (small : n ≤ 2 ^ 28) (ok : sysOk vd a n true false t = (true, w))
    (read : sysRead vd a n w = (some bs, u)) : imageBytes vd a n t = (.ok bs, u) := by
  simp only [imageBytes, if_neg (Nat.ne_of_gt pos), ok, if_neg (Nat.not_lt.2 small), read]

end

theorem reloadDiffers_of_head {old new : Image} (h : old.head ≠ new.head) (bound : List PageEnt) (page : Nat) :
    reloadDiffers old new bound page = some 0 := if_pos h

/-- A page that an image names has an entry. -/
theorem find?_page_of_any {pages : List PageEnt} {page : Nat} (h : pages.any (·.page == page) = true) :
    ∃ e, pages.find? (·.page == page) = some e :=
  Option.isSome_iff_exists.1 (by rwa [List.find?_isSome, ← List.any_eq_true])

section

variable {vd : BitVec 8} {c : Cmd} {t u w : State} {j : Job} {k : Nat} {bs : List Byte} {e : PageEnt} {i n : Image}

/-- What MAPPAGE does of an absent page whose content has been read. -/
theorem mappageCmd_of_read (known : knownJob (getVd vd t) c = some j) (slot : j.slot = some k)
    (entry : (getBind k t).pages.find? (·.page == field c.q2.toNat 39 32) = some e) (absent : e.state = 0)
    (read : sysRead vd c.q3.toNat 4096 t = (some bs, u)) :
    mappageCmd vd c t = if Config.shake256 bs = e.hash then .done 0 0 (onPages k (mapEnt (field c.q2.toNat 39 32) c.q3.toNat) u)
      else .done 5 3 u := by
  simp only [mappageCmd, onRecord_of_known known slot, entry, absent, ne_eq, not_true_eq_false, if_false, read]

theorem reloadCmd_of_refused (known : knownJob (getVd vd t) c = some j) (slot : j.slot = some k)
    (image : imageOf vd (getBind k t).image t = some i) (bytes : imageBytes vd c.q3.toNat c.q4.toNat t = (.ok bs, u)) {x : Nat × Nat}
    (land : landing (getVd vd u) i.handle i.scopeAt c.q3.toNat bs = .error x) : reloadCmd vd c t = .done x.1 x.2 u := by
  simp only [reloadCmd, onRecord_of_known known slot, image, bytes, land]

theorem reloadCmd_of_differs (known : knownJob (getVd vd t) c = some j) (slot : j.slot = some k)
    (image : imageOf vd (getBind k t).image t = some i) (bytes : imageBytes vd c.q3.toNat c.q4.toNat t = (.ok bs, u)) {kind : Nat}
    (land : landing (getVd vd u) i.handle i.scopeAt c.q3.toNat bs = .ok n)
    (differs : reloadDiffers i n (getBind k t).pages (field c.q2.toNat 39 32) = some kind) : reloadCmd vd c t = .done 5 kind u := by
  simp only [reloadCmd, onRecord_of_known known slot, image, bytes, land, differs]

theorem reloadCmd_of_page (known : knownJob (getVd vd t) c = some j) (slot : j.slot = some k)
    (image : imageOf vd (getBind k t).image t = some i) (bytes : imageBytes vd c.q3.toNat c.q4.toNat t = (.ok bs, u))
    (land : landing (getVd vd u) i.handle i.scopeAt c.q3.toNat bs = .ok n)
    (same : reloadDiffers i n (getBind k t).pages (field c.q2.toNat 39 32) = none)
    (present : (n.pages.any (·.page == field c.q2.toNat 39 32)) = true) :
    ∃ y, reloadCmd vd c t = .done 0 0 y ∧ (getBind k y).digest = n.digest := by
  obtain ⟨e, found⟩ := find?_page_of_any present
  simp only [reloadCmd, onRecord_of_known known slot, image, bytes, land, same, found]
  refine ⟨_, rfl, ?_⟩
  rw [getBind_modBind, if_pos rfl]

/-- A RELOAD whose image has been read does not wait. -/
theorem reloadCmd_ends (known : knownJob (getVd vd t) c = some j) (slot : j.slot = some k)
    (image : imageOf vd (getBind k t).image t = some i) (bytes : imageBytes vd c.q3.toNat c.q4.toNat t = (.ok bs, u)) :
    ∃ status value y, reloadCmd vd c t = .done status value y := by
  simp only [reloadCmd, onRecord_of_known known slot, image, bytes]
  split
  · exact ⟨_, _, _, rfl⟩
  · split <;> exact ⟨_, _, _, rfl⟩

end

/-! ## Sessions -/

theorem deviceResident_keeps (vd : BitVec 8) (base bytes : Nat) (s : State) : PortKeeps s (deviceResident vd base bytes s).2 := by
  refine List.foldlRecOn (motive := fun (r : Bool × State) => PortKeeps s r.2) _ _ (.refl s) fun r kept j _ => kept.trans ?_
  have walked : PortKeeps r.2 (walk vd (base + 4096 * j) r.2).2 := walk_keeps r.2 _ _
  split <;> next h => simpa [h] using walked

theorem sessionDefineCmd_of_resident {vd : BitVec 8} {c : Cmd} {t u : State} (base : c.q3.toNat % 65536 = 0) (size : c.q4.toNat % 65536 = 0)
    (nonempty : c.q4.toNat ≠ 0) (inside : c.q3.toNat + c.q4.toNat ≤ 0xFFFFC0000000) (first : (getVd vd t).sess = [])
    (quota : 0 < qSessions (getVd vd t)) (resident : deviceResident vd c.q3.toNat c.q4.toNat t = (true, u)) :
    sessionDefineCmd vd c t = .done 0 0 (modVd vd (defineIn t.mod.time c) u) := by
  have time : u.mod = t.mod := by simpa [resident] using (deviceResident_keeps vd c.q3.toNat c.q4.toNat t).mod
  have admitted : ¬ (c.q3.toNat % 65536 ≠ 0 ∨ c.q4.toNat % 65536 ≠ 0 ∨ c.q4.toNat = 0 ∨ 0xFFFFC0000000 < c.q3.toNat + c.q4.toNat
      ∨ (getVd vd t).sess.any (·.id == c.q2.extractLsb' 0 32)
      ∨ ((getVd vd t).sess.any fun x => decide (c.q3.toNat < x.base + x.bytes ∧ x.base < c.q3.toNat + c.q4.toNat))) := by
    simp only [first, List.any_nil, Bool.false_eq_true, or_false]
    omega
  have room : ¬ qSessions (getVd vd t) ≤ (getVd vd t).sess.length := by
    simpa [first] using Nat.ne_of_gt quota
  simp only [sessionDefineCmd, if_neg admitted, resident, if_neg room, time]
  rfl

/-! ## Snapshots -/

/-- A page given back to the pool leaves a device's snapshots and the commands it has not answered. -/
theorem poolReturn_keeps (a n : Nat) (v : VDev) : (poolReturn a n v).snaps = v.snaps ∧ (poolReturn a n v).cmdBusy = v.cmdBusy := by
  unfold poolReturn
  dsimp only
  split <;> exact ⟨rfl, rfl⟩

theorem giveCopies_keeps (x : Snap) (v : VDev) : (giveCopies x v).snaps = v.snaps ∧ (giveCopies x v).cmdBusy = v.cmdBusy := by
  unfold giveCopies
  induction x.copies generalizing v with
  | nil => exact ⟨rfl, rfl⟩
  | cons p ps ih => exact ⟨(ih _).1.trans (poolReturn_keeps _ _ v).1, (ih _).2.trans (poolReturn_keeps _ _ v).2⟩

theorem foldl_giveCopies_keeps (xs : List Snap) (v : VDev) :
    (xs.foldl (fun v x => giveCopies x v) v).snaps = v.snaps ∧ (xs.foldl (fun v x => giveCopies x v) v).cmdBusy = v.cmdBusy := by
  induction xs generalizing v with
  | nil => exact ⟨rfl, rfl⟩
  | cons x xs ih => exact ⟨(ih _).1.trans (giveCopies_keeps x v).1, (ih _).2.trans (giveCopies_keeps x v).2⟩

theorem getVd_releaseHolds (w vd : BitVec 8) (ends : Hold → Bool) (s : State) : getVd w (releaseHolds vd ends s) = getVd w s := rfl

theorem retryBusy_of_none {vd : BitVec 8} {s : State} (idle : (getVd vd s).cmdBusy = []) :
    retryBusy vd s = modVd vd (fun v => { v with cmdBusy := [] }) s := by
  simp only [retryBusy, idle, List.foldl_nil]

theorem snaprelCmd_of_idle {vd : BitVec 8} {c : Cmd} {t : State} (known : (getVd vd t).snaps.any (·.num == field c.q2.toNat 31 0) = true)
    (idle : (getVd vd t).cmdBusy = []) : ∃ y, snaprelCmd vd c t = .done 0 0 y
      ∧ (getVd vd y).snaps = (getVd vd t).snaps.filter fun x => decide (field c.q2.toNat 31 0 < x.num) := by
  refine ⟨_, if_pos known, ?_⟩
  rw [retryBusy_of_none]
  · simp only [getVd_modVd, if_true, getVd_releaseHolds, (foldl_giveCopies_keeps _ _).1]
  · simpa only [getVd_modVd, if_true, getVd_releaseHolds, (foldl_giveCopies_keeps _ _).2] using idle

/-- What SNAPREAD does of a granule that it has read: its write is made, or the command waits for a pool page. -/
theorem snapreadCmd_of_read {vd : BitVec 8} {c : Cmd} {t u w : State} {bs : List Byte} (aligned : c.q3.toNat % 4096 = 0)
    (inside : c.q3.toNat < 2 ^ 48) (known : (getVd vd t).snaps.any (·.num == field c.q2.toNat 31 0) = true)
    (read : granuleAt vd (field c.q2.toNat 31 0) c.q3.toNat t = (some bs, u)) (write : sysWrite vd c.q4.toNat bs true u = (true, w)) :
    snapreadCmd vd c t = if (getVd vd w).snaphold = (getVd vd u).snaphold then .done 0 0 w else .wait (holdCmd vd c none u) := by
  have admitted : ¬ (c.q3.toNat % 4096 ≠ 0 ∨ 2 ^ 48 ≤ c.q3.toNat) := by omega
  simp only [snapreadCmd, if_neg admitted, if_pos known, read, cmdStore, unlessHeld, write, if_true]

/-! ## The obligation -/

/-- Settles O50: a command that is heard ends as its body says (`runCmd_of_heard`), and the body of each is followed along the branch
that the hypotheses choose. -/
theorem replyPageAndContextCommands : Obligations.ReplyPageAndContextCommands := by
  intro vd c s t u w j k bs e i v b page
  refine ⟨fun known slot => ⟨fun heard saved => ⟨fun resumable await => ?_, ?_, fun ended => ?_⟩,
      fun heard entry absent read => ?_, fun heard image pos small ok read => ?_⟩,
    fun heard base size nonempty inside first quota resident => ?_, fun heard known => ?_,
    fun heard aligned inside known read write => ?_, fun heard known idle => ?_⟩
  · refine next_of_heard heard ((onReply_of_saved known slot saved _).trans (if_pos ?_))
    exact Bool.and_eq_true_iff.2 ⟨resumable, await⟩
  · exact next_of_heard heard (onReply_of_saved known slot saved _)
  · refine next_of_heard heard ((onReply_of_saved known slot saved _).trans ?_)
    simp only [ended]
  · refine congrArg Host.Outcome.next ((runCmd_of_heard heard _).trans ?_)
    rw [mappageCmd_of_read known slot entry absent read]
    split <;> rfl
  · have bytes := imageBytes_of_read pos small ok read
    obtain ⟨status, value, y, done⟩ := reloadCmd_ends known slot image bytes
    refine ⟨status, value, y, next_of_heard heard done, fun x land => ?_, fun n land => ⟨fun same present => ?_, fun head => ?_⟩⟩
    · exact CmdOut.done.inj (done.symm.trans (reloadCmd_of_refused known slot image bytes land))
    · obtain ⟨z, taken, digest⟩ := reloadCmd_of_page known slot image bytes land same present
      obtain ⟨rfl, -, rfl⟩ := CmdOut.done.inj (done.symm.trans taken)
      exact ⟨rfl, digest⟩
    · exact CmdOut.done.inj (done.symm.trans (reloadCmd_of_differs known slot image bytes land (reloadDiffers_of_head head _ _)))
  · exact next_of_heard heard (sessionDefineCmd_of_resident base size nonempty inside first quota resident)
  · exact next_of_heard heard (if_pos known)
  · refine congrArg Host.Outcome.next ((runCmd_of_heard heard _).trans ?_)
    rw [snapreadCmd_of_read aligned inside known read write]
    split <;> rfl
  · obtain ⟨y, done, snaps⟩ := snaprelCmd_of_idle known idle
    exact ⟨y, next_of_heard heard done, snaps⟩

end Sys2Proof.Proofs
end

section
/-! What reaching global memory leaves of the bind records: an access through lines, page tables, translation caches and snapshots' copies changes
none of them (13_memory.md R332 to R341; 14_translation.md R366 to R383; 17_host.md R467). -/

namespace Sys2Proof.Proofs

open Sys2Proof Sys2Proof.Machine Sys2Proof.Safety Sys2Proof.Laws

/-! ## Folds and choices that keep the bind records -/

theorem foldl_binds {α : Type} {f : State → α → State} (h : ∀ s x, (f s x).binds = s.binds) (xs : List α) (s : State) :
    (xs.foldl f s).binds = s.binds :=
  List.foldlRecOn (motive := fun (t : State) => t.binds = s.binds) xs f rfl fun t kept x _ => (h t x).trans kept

theorem getBind_of_binds {s t : State} (h : t.binds = s.binds) (k : Nat) : getBind k t = getBind k s := by
  unfold getBind
  rw [h]

/-! ## Lines of the slices and device memory -/

variable (s : State)

@[simp] theorem wakeSectors_binds (lo hi : Nat) : (wakeSectors lo hi s).binds = s.binds := rfl
@[simp] theorem dropLine_binds (l : Line) : (dropLine l s).binds = s.binds := rfl
@[simp] theorem undefSector_binds (n : Nat) : (undefSector n s).binds = s.binds := rfl

@[simp] theorem queueOrDrop_binds (vd : BitVec 8) (q : Fin 4) (x : BitVec 256) : (queueOrDrop vd q x s).binds = s.binds := by
  unfold queueOrDrop
  split <;> rfl

@[simp] theorem evictLine_binds (l : Line) : (evictLine l s).binds = s.binds := by
  unfold evictLine
  split <;> rfl

@[simp] theorem makeRoom_binds (line : Nat) : (makeRoom line s).binds = s.binds := by
  unfold makeRoom
  dsimp only
  split
  · rfl
  · split
    · exact evictLine_binds s _
    · rfl

@[simp] theorem grantCount_binds (h : Hints) : (grantCount h s).2.binds = s.binds := by
  unfold grantCount
  split
  · split
    · split <;> rfl
    · rfl
  · rfl

@[simp] theorem countRead_binds (l : Line) : (countRead l s).binds = s.binds := by
  simp only [countRead, apply_ite State.binds, onMemSys_binds, undefSector_binds, dropLine_binds, ite_self]

@[simp] theorem touchLine_binds (line : Nat) (s0 s1 write : Bool) (h : Hints) : (touchLine line s0 s1 write h s).binds = s.binds := by
  unfold touchLine
  split <;> simp [apply_ite Prod.snd, apply_ite State.binds]

@[simp] theorem touchLines_binds (pa n : Nat) (write : Bool) (h : Hints) : (touchLines pa n write h s).binds = s.binds := by
  unfold touchLines
  split
  · rfl
  · exact foldl_binds (fun s _ => touchLine_binds s _ _ _ _ _) _ s

@[simp] theorem devStore_binds (pa : Nat) (bs : List Byte) : (devStore pa bs s).binds = s.binds := by
  unfold devStore
  dsimp only
  split <;> rfl

@[simp] theorem devTouch_binds (vd : BitVec 8) (pa n : Nat) : (devTouch vd pa n s).binds = s.binds := touchLines_binds s _ _ _ _

@[simp] theorem devWrite_binds (vd : BitVec 8) (pa : Nat) (bs : List Byte) : (devWrite vd pa bs s).binds = s.binds :=
  (touchLines_binds _ _ _ _ _).trans (devStore_binds s pa bs)

/-! ## Page walks and translation caches -/

@[simp] theorem readPte_binds (vd : BitVec 8) (pa : Nat) : (readPte vd pa s).2.binds = s.binds := by
  unfold readPte
  split
  · rfl
  · exact touchLines_binds s _ _ _ _

theorem binds_of_readPte {vd : BitVec 8} {pa : Nat} {e : Option Word} {t : State} (h : readPte vd pa s = (e, t)) : t.binds = s.binds := by
  simpa [h] using readPte_binds s vd pa

theorem walkFrom_binds (vd : BitVec 8) (va more table : Nat) : (walkFrom vd va more table s).2.binds = s.binds := by
  induction more generalizing table s with
  | zero => rfl
  | succ more ih =>
    unfold walkFrom
    dsimp only
    split
    · rfl
    split
    · next h => exact binds_of_readPte s h
    · next h =>
      have first := binds_of_readPte s h
      split
      · exact first
      split
      · split
        · split <;> exact first
        split
        · next h' => exact (binds_of_readPte _ h').trans first
        · next h' =>
          have second := (binds_of_readPte _ h').trans first
          split
          · exact second
          · split <;> exact second
      split
      · exact first
      · split
        · exact (ih _ _).trans first
        · exact first

theorem binds_of_walk {vd : BitVec 8} {va : Nat} {w : Walk} {t : State} (h : walk vd va s = (w, t)) : t.binds = s.binds := by
  have walked : (walk vd va s).2.binds = s.binds := walkFrom_binds s vd va _ _
  rwa [h] at walked

@[simp] theorem flushEnt_binds (e : TlbEnt) : (flushEnt e s).binds = s.binds := by
  unfold flushEnt
  split
  · split
    · rfl
    · exact (touchLines_binds _ _ _ _ _).trans (devStore_binds s _ _)
  · rfl

@[simp] theorem tlbFill_binds (c : Nat) (e : TlbEnt) : (tlbFill c e s).binds = s.binds := by
  unfold tlbFill
  dsimp only [modCluster_binds, modVd_binds]
  split
  · exact flushEnt_binds s _
  · rfl

@[simp] theorem useEnt_binds (c : Nat) (e : TlbEnt) (va n : Nat) : (useEnt c e va n s).binds = s.binds := by
  have counted : (countEnt c e va n s).2.binds = s.binds := by
    unfold countEnt
    split <;> rfl
  unfold useEnt postNote
  dsimp only
  split
  · exact (queueOrDrop_binds _ _ _ _).trans counted
  · exact counted

@[simp] theorem startPageIn_binds (vd : BitVec 8) (e : TlbEnt) (leafPa : Nat) (entry : Word) (gen : Nat) (bybind : Bool) :
    (startPageIn vd e leafPa entry gen bybind s).2.binds = s.binds := by
  unfold startPageIn
  dsimp only
  split
  · rfl
  · split <;> rfl

theorem look_binds (c : Nat) (vd : BitVec 8) (va : Nat) : (look c vd va s).2.binds = s.binds := by
  unfold look
  split
  · rfl
  · split
    · next h => exact binds_of_walk s h
    · next h =>
      split
      · exact binds_of_walk s h
      · exact (tlbFill_binds _ _ _).trans (binds_of_walk s h)

theorem xlate_binds (c : Nat) (vd : BitVec 8) (va : Nat) (read write : Bool) (slot : Option Nat) :
    (xlate c vd va read write slot s).2.binds = s.binds := by
  have looked {l : Look} {t : State} (h : look c vd va s = (l, t)) : t.binds = s.binds := by simpa [h] using look_binds s c vd va
  unfold xlate
  split
  · rfl
  split
  · rfl
  dsimp only
  split
  · next h => exact looked h
  · next h => exact looked h
  · next e leafPa entry t h =>
    split
    · exact looked h
    · have started := startPageIn_binds t vd e leafPa entry (slotGen slot t) slot.isSome
      split <;> next h' => exact (by simpa [h'] using started : _ = t.binds).trans (looked h)

/-! ## Accesses -/

theorem snapBefore_binds {vd : BitVec 8} {va pa : Nat} {t : State} (h : snapBefore vd va pa s = some t) : t.binds = s.binds := by
  unfold snapBefore snapCopy at h
  dsimp only at h
  split at h
  · cases h; rfl
  · split at h
    · cases h; rfl
    · split at h
      · cases h
      · rw [← Option.some.inj h]
        simp

theorem gPerform_binds (vd : BitVec 8) (va n : Nat) (reads writes hostOk : Bool) (h : Hints) (f : Change) {use : State → State}
    (hu : ∀ s, (use s).binds = s.binds) (e : TlbEnt) : (outState (gPerform vd va n reads writes hostOk h f use e s)).binds = s.binds := by
  unfold gPerform
  split
  · dsimp only
    split
    · rfl
    split
    · exact hu s
    split
    · exact (touchLines_binds _ _ _ _ _).trans (hu s)
    split
    · rfl
    · next hb => simp [outState, apply_ite State.binds, hu, snapBefore_binds s hb]
  split
  · rfl
  split
  · split
    · rfl
    · dsimp only
      split <;> simp [outState, hu]
  · dsimp only
    split <;> simp [outState, hu]

theorem gAccess_binds (c : Nat) (vd : BitVec 8) (va n : Nat) (reads writes hostOk : Bool) (h : Hints) (f : Change) :
    (outState (gAccess c vd va n reads writes hostOk h f s)).binds = s.binds := by
  have translated {x : Xlat} {t : State} (hx : xlate c vd va reads writes h.slot s = (x, t)) : t.binds = s.binds := by
    simpa [hx] using xlate_binds s c vd va reads writes h.slot
  unfold gAccess
  split
  · next hx => exact translated hx
  · next hx => exact translated hx
  · next hx => exact translated hx
  · next hx =>
    split
    · exact translated hx
    · exact (gPerform_binds _ _ _ _ _ _ _ _ _ (fun s => useEnt_binds s _ _ _ _) _).trans (translated hx)

/-! ## Save areas -/

theorem writePieces_binds (c : Nat) (h : Hints) (n va : Nat) (bs : List Byte) : (outState (writePieces c h n va bs s)).binds = s.binds := by
  induction n generalizing va bs s with
  | zero => rfl
  | succ n ih =>
    have written : (outState (gWrite c h.vd va (bs.take 256) h s)).binds = s.binds := gAccess_binds s _ _ _ _ _ _ _ _ _
    unfold writePieces
    split
    · next hw => exact (ih _ _ _).trans (by simpa [hw, outState] using written)
    · exact written

theorem saveRecords_binds (h : Hints) (b : Bind) (pages : Nat) (js : List Nat) : (outState (saveRecords h b pages js s)).binds = s.binds := by
  induction js generalizing s with
  | nil => rfl
  | cons j js ih =>
    unfold saveRecords
    dsimp only
    have written := writePieces_binds s (clusterOf (tileOf b j)) h (recordLength (memberTile b s j) pages / 256) (recordVa b pages j)
      (recordBytes b.cp pages (memberTile b s j))
    split
    · next hw => exact (ih _).trans (by simpa [hw, outState] using written)
    · exact written

theorem saveAll_binds (h : Hints) (b : Bind) : (outState (saveAll h b s)).binds = s.binds := by
  unfold saveAll
  dsimp only
  have records := saveRecords_binds s h b (savePages b s) (upTo (8 * b.w * b.h))
  split
  · next hw => exact (writePieces_binds _ _ _ _ _ _).trans (by simpa [hw, outState] using records)
  · exact records

end Sys2Proof.Proofs
end

section
/-! Proofs for 03_issue.md: a stopped gang's choice, its save, its discard and its resume (R100, R388, R424, R431, R433, R434, R436, R438). -/

namespace Sys2Proof.Proofs

open Sys2Proof Sys2Proof.Machine Sys2Proof.Safety Sys2Proof.Laws

/-! ## Tiles after a change of listed tiles -/

variable (s : State)

theorem getTile_modTile (p : Nat) (f : Tile → Tile) (q : Nat) : getTile q (modTile p f s) = if q = p then f (getTile p s) else getTile q s := by
  unfold modTile setTile
  by_cases here : p = s.cur
  · rw [if_pos here]
    unfold getTile
    by_cases same : q = p
    · rw [if_pos same, if_pos (same.trans here)]
    · have away : ¬ q = s.cur := fun h => same (h.trans here.symm)
      rw [if_neg same, if_neg away, if_neg away]
  · rw [if_neg here]
    unfold getTile
    dsimp only
    rw [smGet_smSet]
    by_cases same : q = p
    · rw [if_pos same, if_pos same, if_neg (same ▸ here)]
    · rw [if_neg same, if_neg same]

theorem slot_overTiles_dropTile (ps : List Nat) (q : Nat) :
    (getTile q (overTiles ps dropTile s)).place.slot = if q ∈ ps then none else (getTile q s).place.slot := by
  induction ps generalizing s with
  | nil => rfl
  | cons p ps ih =>
    rw [show overTiles (p :: ps) dropTile s = overTiles ps dropTile (modTile p dropTile s) from rfl, ih, getTile_modTile]
    by_cases same : q = p <;> by_cases later : q ∈ ps <;> simp [same, later, dropTile]

/-- No tile of its region belongs to a gang whose clusters have been freed (R385). -/
theorem slot_freeClusters {slot q : Nat} (region : q ∈ gangTiles (getBind slot s)) :
    (getTile q (freeClusters slot s)).place.slot ≠ some slot := by
  unfold freeClusters
  rw [slot_overTiles_dropTile]
  split
  · exact nofun
  · next kept => exact fun held => kept (List.mem_filter.2 ⟨region, by simpa using held⟩)

@[simp] theorem overTiles_binds (ps : List Nat) (f : Tile → Tile) : (overTiles ps f s).binds = s.binds :=
  overTiles_frame State.binds (fun _ _ => rfl) (fun _ _ => rfl) f ps s

@[simp] theorem focusOn_binds (p : Nat) : (focusOn p s).binds = s.binds := by
  unfold focusOn
  split <;> rfl

theorem getTile_modBind (k : Nat) (f : Bind → Bind) (p : Nat) : getTile p (modBind k f s) = getTile p s := rfl

@[simp] theorem releasePins_binds (slot : Nat) : (releasePins slot s).binds = s.binds := rfl

@[simp] theorem unlinkRecs_binds (vd : BitVec 8) (p : Nat) : (unlinkRecs vd p s).binds = s.binds := rfl

/-! ## The choice of a gang that has stopped -/

/-- What a gang's clusters have chosen for its save: that they have, and the indices of the tiles that drained (R424). -/
def chosen (n : Nat) (s : State) : Bool × List Nat := ((getBind n s).decided, (getBind n s).ended)

theorem chosen_of_binds {s t : State} (h : t.binds = s.binds) (n : Nat) : chosen n t = chosen n s := by
  unfold chosen
  rw [getBind_of_binds h]

/-- The freeing of a drained cluster keeps its tiles with the bind record, and leaves what its gang chose. -/
theorem chosen_freeDrained (n : Nat) : chosen n (freeDrained s) = chosen n s := by
  unfold freeDrained
  split
  · rfl
  · dsimp only
    split
    · rw [chosen_of_binds (overTiles_binds _ _ _)]
      unfold chosen
      rw [getBind_modBind]
      split
      · next same => rw [same]
      · rfl
    · rfl

theorem chosen_freeDrainedNow (js : List Nat) (b : Bind) (n : Nat) : chosen n (freeDrainedNow js b s) = chosen n s := by
  unfold freeDrainedNow eachTile
  rw [chosen_of_binds (focusOn_binds _ _)]
  exact List.foldlRecOn (motive := fun (t : State) => chosen n t = chosen n s) _ _ rfl fun t kept p _ =>
    ((chosen_freeDrained _ n).trans (chosen_of_binds (focusOn_binds t p) n)).trans kept

section

variable {s} {slot : Nat}

theorem gangStopped_of_stopped (halting : (getBind slot s).state = .halting) (undecided : (getBind slot s).decided = false)
    (stopped : ∀ p ∈ gangTiles (getBind slot s), (getTile p s).ctl.run ≠ .running ∧ (getTile p s).ctl.trapped = none) :
    gangStopped slot (allowance (getBind slot s) s.mod.time) s = clustersChoose slot (allowance (getBind slot s) s.mod.time) s := by
  refine if_pos ⟨halting, undecided, List.all_eq_true.2 fun p h => ?_, rfl⟩
  simpa [hasStopped] using stopped p h

theorem gangStopped_of_allowance {r : Option Int} (other : r ≠ allowance (getBind slot s) s.mod.time) : gangStopped slot r s = s :=
  if_neg fun ⟨_, _, _, same⟩ => other same

theorem gangStopped_of_active {r : Option Int}
    (active : ∃ p ∈ gangTiles (getBind slot s), (getTile p s).ctl.run = .running ∨ (getTile p s).ctl.trapped.isSome = true) :
    gangStopped slot r s = s := by
  obtain ⟨p, region, active⟩ := active
  refine if_neg fun ⟨_, _, stopped, _⟩ => ?_
  have still := List.all_eq_true.1 stopped p region
  simp only [hasStopped, Bool.and_eq_true, bne_iff_ne, Option.isNone_iff_eq_none] at still
  rcases active with running | trapped
  · exact still.1 running
  · rw [still.2] at trapped
    exact Bool.noConfusion trapped

theorem clustersChoose_of_drained (drain : (choices slot s).all (·.2 == .drain) = true)
    (left : ∃ p ∈ gangTiles (getBind slot s), (getTile p s).ctl.run ≠ .free) :
    clustersChoose slot (allowance (getBind slot s) s.mod.time) s =
      modBind slot (fun b => { b with state := .leaving, halt := false }) (lapNoted slot s) := by
  obtain ⟨p, region, notFree⟩ := left
  refine (if_pos drain).trans (if_neg fun all => notFree ?_)
  exact eq_of_beq (List.all_eq_true.1 all p region)

theorem clustersChoose_of_discard (drain : (choices slot s).all (·.2 == .drain) = false)
    (discard : (choices slot s).any (·.2 == .discard) = true) :
    clustersChoose slot (allowance (getBind slot s) s.mod.time) s =
      modBind slot (fun b => { b with decided := true, discard := true }) (lapNoted slot s) :=
  (if_neg (ne_true_of_eq_false drain)).trans (if_pos discard)

theorem clustersChoose_of_save (drain : (choices slot s).all (·.2 == .drain) = false)
    (discard : (choices slot s).any (·.2 == .discard) = false) :
    chosen slot (clustersChoose slot (allowance (getBind slot s) s.mod.time) s) =
      (true, ((choices slot s).filter (·.2 == .drain)).flatMap (·.1)) := by
  refine (congrArg (chosen slot) ((if_neg (ne_true_of_eq_false drain)).trans (if_neg (ne_true_of_eq_false discard)))).trans ?_
  rw [chosen_freeDrainedNow, chosen_of_binds (overTiles_binds _ _ _)]
  unfold chosen
  rw [getBind_modBind, if_pos rfl]
  rfl

/-! ## A save and a discard -/

theorem gangTiles_eq (b : Bind) : gangTiles b = (upTo (8 * b.w * b.h)).map (tileOf b) := rfl

theorem contextSave_of_drained {b : Bind} {s1 s2 s3 : State} {x : List Byte} (record : getBind slot s = b) (halting : b.state = .halting)
    (good : b.saveBad = false) (decided : b.decided = true) (keep : b.discard = false) (ended : b.ended = [])
    (recorded : s1 = overTiles (gangTiles b) recordCopies s) (drained : ∀ p ∈ gangTiles b, drainedTile s1 p = true)
    (settled : s2 = releasePins slot (overTiles (gangTiles b) (settle b.cp) s1)) (saved : saveAll (saveHints slot b) b s2 = .done x s3) :
    contextSave slot s = enterSaved slot b b.resumable s3 := by
  have live : (upTo (8 * b.w * b.h)).filter (! b.ended.contains ·) = upTo (8 * b.w * b.h) :=
    List.filter_eq_self.2 fun j _ => by rw [ended]; rfl
  have decision : b.state = .halting ∧ b.decided = true ∧ b.discard = false := ⟨halting, decided, keep⟩
  have ready : ((gangTiles b).all (drainedTile s1) && b.ended.all fun j => (memberTile b s1 j).ctl.run == .free) = true := by
    rw [ended]
    simpa using drained
  subst recorded settled
  simp only [contextSave, record, good, Bool.false_eq_true, if_false, if_pos decision, live, ← gangTiles_eq, if_pos ready, saved]

theorem enterSaved_saved (b : Bind) (resumable : Bool) (region : gangTiles (getBind slot s) = gangTiles b) :
    (getBind slot (enterSaved slot b resumable s)).state = .saved ∧ (getBind slot (enterSaved slot b resumable s)).resume = true
      ∧ ∀ p ∈ gangTiles b, (getTile p (enterSaved slot b resumable s)).place.slot ≠ some slot := by
  refine ⟨?_, ?_, fun p h => slot_freeClusters s (region ▸ h)⟩
  · exact congrArg Bind.state ((getBind_modBind _ _ _ _).trans (if_pos rfl))
  · exact congrArg Bind.resume ((getBind_modBind _ _ _ _).trans (if_pos rfl))

/-- The discard of a gang leaves the geometry of its record, which then says what is freed. -/
theorem gangDiscard_of_stopped {b : Bind} {s1 : State} (record : getBind slot s = b) (halting : b.state = .halting) (decided : b.decided = true)
    (discard : b.discard = true)
    (unlinked : s1 = (heldTiles slot s).foldl (fun s p => unlinkRecs b.vd p s) (overTiles (heldTiles slot s) discardTile s))
    (stopped : ∀ p ∈ heldTiles slot s, enginesStopped s1 p = true) :
    (getBind slot (gangDiscard slot s)).state = .bound ∧ (getBind slot (gangDiscard slot s)).resume = false
      ∧ ∀ p ∈ gangTiles b, (getTile p (gangDiscard slot s)).place.slot ≠ some slot := by
  have decision : b.state = .halting ∧ b.decided = true ∧ b.discard = true := ⟨halting, decided, discard⟩
  have binds : s1.binds = s.binds := by
    rw [unlinked]
    exact (foldl_binds (fun s p => unlinkRecs_binds s b.vd p) _ _).trans (overTiles_binds _ _ _)
  have result : gangDiscard slot s = modBind slot (forRestart (keptAll b s1))
      (freeClusters slot (releasePins slot (overTiles (heldTiles slot s) launchEntries s1))) := by
    simp only [gangDiscard, record, if_pos decision, ← unlinked, if_pos (List.all_eq_true.2 stopped)]
  have same : getBind slot (releasePins slot (overTiles (heldTiles slot s) launchEntries s1)) = b :=
    (getBind_of_binds ((overTiles_binds _ _ _).trans binds) slot).trans record
  rw [result]
  refine ⟨?_, ?_, fun p h => ?_⟩
  · exact congrArg Bind.state ((getBind_modBind _ _ _ _).trans (if_pos rfl))
  · exact congrArg Bind.resume ((getBind_modBind _ _ _ _).trans (if_pos rfl))
  · rw [getTile_modBind]
    exact slot_freeClusters _ (by rwa [same])

/-! ## A resume -/

theorem gangResume_of_records {b : Bind} {s1 s2 s4 : State} {i : Image} {hdr bs : List Byte} {recs : List (List Byte)}
    (record : getBind slot s = b)
    (due : b.state = .bound ∧ b.resume = true ∧ s.mod.power = .active ∧ mayRun (getVd b.vd s) = true ∧ regionFree b s = true)
    (image : imageOf b.vd b.image s = some i)
    (header : readPieces (clusterOf (tileAt b 0 0)) (saveHints slot b) 16 b.save [] s = .done hdr s1)
    (shape : hdrW (ofBytes (hdr.take 32)) = b.w ∧ hdrH (ofBytes (hdr.take 32)) = b.h ∧ shapeAdmitted (getVd b.vd s1) b.w b.h = true)
    (version : field (ofBytes (hdr.take 32)) 7 0 = 1) (owner : field (ofBytes (hdr.take 32)) 63 56 = b.vd.toNat)
    (named : field (ofBytes (hdr.take 32)) 127 96 = b.image.toNat)
    (records : readRecords (saveHints slot b) b (field (ofBytes (hdr.take 32)) 49 40) (upTo (8 * b.w * b.h)) [] s1 = .ok (some recs, s2)) :
    (tagOk hdr recs.flatten = false → gangResume slot s = refuseResume slot b 4 s2)
      ∧ (tagOk hdr recs.flatten = true → readPieces (clusterOf (tileAt b 0 0)) (saveHints slot b) 2 b.mbox [] s2 = .done bs s4 →
        gangResume slot s = restoreGang slot b i (mailWords bs) recs s4) := by
  obtain ⟨wide, high, admitted⟩ := shape
  have fits : ¬ (hdrW (ofBytes (hdr.take 32)) ≠ b.w ∨ hdrH (ofBytes (hdr.take 32)) ≠ b.h
      ∨ shapeAdmitted (getVd b.vd s1) b.w b.h = false) := by simp [wide, high, admitted]
  constructor
  · intro bad
    simp [gangResume, record, due, image, header, if_neg fits, version, owner, named, records, bad]
  · intro good mail
    simp [gangResume, record, due, image, header, if_neg fits, version, owner, named, records, good, mail]

end

/-! ## The obligation -/

/-- Settles O48: the choice follows the three branches of R424; what a save or a discard frees is told by the geometry of the bind record, which
the writes of the save area leave (`saveAll_binds`). -/
theorem gangsAreSavedDiscardedAndResumed : Obligations.GangsAreSavedDiscardedAndResumed := by
  intro s s1 s2 s3 s4 slot r i hdr bs x recs b c hints
  refine ⟨fun halting undecided stopped => ?_, fun _ _ active => congrArg Host.Outcome.next (gangStopped_of_active active),
    fun halting good decided keep ended recorded drained settled saved => ?_, fun halting decided discard unlinked stopped => ?_, ?_⟩
  · have choice := gangStopped_of_stopped halting undecided stopped
    refine ⟨fun drain left => ?_, fun drain discard => ?_, fun drain keep => ?_, fun r' other => ?_⟩
    · exact congrArg Host.Outcome.next (choice.trans (clustersChoose_of_drained drain left))
    · exact congrArg Host.Outcome.next (choice.trans (clustersChoose_of_discard drain discard))
    · have result := clustersChoose_of_save drain keep
      exact ⟨_, congrArg Host.Outcome.next choice, congrArg Prod.fst result, congrArg Prod.snd result⟩
    · exact congrArg Host.Outcome.next (gangStopped_of_allowance other)
  · have region : getBind slot s3 = b := by
      have kept : s3.binds = s2.binds := by simpa [saved, outState] using saveAll_binds s2 hints b
      refine getBind_of_binds (kept.trans ?_) slot
      rw [settled, releasePins_binds, overTiles_binds, recorded, overTiles_binds]
    have tiles : ∀ p ∈ gangTiles b, drainedTile s1 p = true := by
      simpa [gangTiles_eq, upTo] using drained
    obtain ⟨state, resume, freed⟩ := enterSaved_saved (s := s3) (slot := slot) b b.resumable (congrArg gangTiles region)
    refine ⟨_, congrArg Host.Outcome.next (contextSave_of_drained rfl halting good decided keep ended recorded tiles settled saved), state, resume,
      fun k inside => freed _ (List.mem_map_of_mem (List.mem_range.2 inside))⟩
  · exact ⟨_, rfl, gangDiscard_of_stopped rfl halting decided discard unlinked stopped⟩
  · intro bound resume active mayRun region image header h wide high admitted version owner named records
    have resumed := gangResume_of_records (bs := bs) (s4 := s4) rfl ⟨bound, resume, active, mayRun, region⟩ image header
      ⟨wide, high, admitted⟩ version owner named records
    exact ⟨fun bad => congrArg Host.Outcome.next (resumed.1 bad), fun good mail => congrArg Host.Outcome.next (resumed.2 good mail)⟩

end Sys2Proof.Proofs
end

section
/-! Proofs for 04_registers_scalar.md: the results of the scalar slot, each by its rule (R111, R117 to R132). -/

namespace Sys2Proof.Proofs

open Sys2Proof Sys2Proof.Machine Sys2Proof.Safety Sys2Proof.Laws

/-- A syllable that only sends a result to a register issues as soon as nothing is in its way. -/
theorem RegisterOp.issues {s u : State} {h : Hdr} {o : SlotOp} (k : RegisterOp h s u o) (ready : Ready h [] s) :
    o.run s = .next (issued h false s u) := by
  obtain ⟨plain, eff, -⟩ := k
  have hdr : o.hdr = h := by rw [plain]
  have access : o.access s = [] := by rw [plain]
  have point : o.point = false := by rw [plain]
  have done : o.run s = .next (issued o.hdr o.point s u) :=
    run_of_plain (by rwa [hdr, access]) eff (by rw [plain]) (by rw [plain]) (by rw [plain]) (fun _ => by rw [plain]) (by rw [plain])
  rwa [hdr, point] at done

theorem exec_of_registerOp {s u : State} {i : Instr} {h : Hdr} (op : ∃ o, slotOp i = some o ∧ RegisterOp h s u o) (ready : Ready h [] s) :
    exec i s = .next (issued h false s u) := by
  obtain ⟨o, slot, k⟩ := op
  rw [exec_syllable slot, k.issues ready]

/-- Settles O8: every such syllable only sends the result of its rule to its register or its predicate pair. -/
theorem scalarResults : Obligations.ScalarResults := by
  intro s i h t rule ready
  rcases rule with scalar | pair
  · exact exec_of_registerOp (registerOp_of_scalarRule scalar) ready
  · exact exec_of_registerOp (registerOp_of_pairRule pair) ready

end Sys2Proof.Proofs
end

section
/-! Proofs for 04_registers_scalar.md: the laws of division, CLZ, POPC, INS and the conditions of a compare (R123, R125, R126, R129), and the
fields of MSTAT (R240) and CSTAT (R313). -/

namespace Sys2Proof.Proofs

open Sys2Proof Sys2Proof.Machine Sys2Proof.Safety Sys2Proof.Laws

/-! ## Division (R123) -/

section

variable {a b : Word}

/-- The dividend and the divisor of the one quotient that does not fit. -/
theorem toInt_eq_overflow_iff : (a.toInt = -(2 ^ 63) ∧ b.toInt = -1) ↔ (a = BitVec.intMin 64 ∧ b = BitVec.allOnes 64) := by
  rw [← BitVec.toInt_inj (x := a), ← BitVec.toInt_inj (x := b)]
  exact Iff.rfl

theorem toInt_eq_zero_iff : b.toInt = 0 ↔ b = 0 := by
  rw [← BitVec.toInt_inj]
  exact Iff.rfl

theorem divValue_of_zero (zero : b = 0) : divValue .s a b = BitVec.allOnes 64 ∧ divValue .u a b = BitVec.allOnes 64
    ∧ divValue .rems a b = a ∧ divValue .remu a b = a := by
  subst zero
  exact ⟨rfl, rfl, rfl, rfl⟩

theorem divValue_of_overflow (least : a = BitVec.intMin 64) (minusOne : b = BitVec.allOnes 64) :
    divValue .s a b = a ∧ divValue .rems a b = 0 := by
  subst least minusOne
  decide

/-- A signed quotient that fits is the library's. -/
theorem divValue_s_eq_sdiv (nonzero : b ≠ 0) (fits : ¬(a = BitVec.intMin 64 ∧ b = BitVec.allOnes 64)) : divValue .s a b = a.sdiv b := by
  have quotient : (a.sdiv b).toInt = a.toInt.tdiv b.toInt := BitVec.toInt_sdiv_of_ne_or_ne a b (not_and_or.1 fits)
  rw [divValue, divS, if_neg (mt toInt_eq_zero_iff.1 nonzero), if_neg (mt toInt_eq_overflow_iff.1 fits), ← quotient, BitVec.ofInt_toInt]

theorem divValue_rems_eq_srem (nonzero : b ≠ 0) (fits : ¬(a = BitVec.intMin 64 ∧ b = BitVec.allOnes 64)) :
    divValue .rems a b = a.srem b := by
  rw [divValue, remS, if_neg (mt toInt_eq_zero_iff.1 nonzero), if_neg (mt toInt_eq_overflow_iff.1 fits), ← Int.tmod_def, ← BitVec.toInt_srem,
    BitVec.ofInt_toInt]

theorem divValue_u_eq_udiv (nonzero : b ≠ 0) : divValue .u a b = a / b := by
  rw [divValue, divU, if_neg nonzero, ← BitVec.toNat_udiv, BitVec.ofNat_toNat, BitVec.setWidth_eq]

theorem divValue_remu_eq_umod (nonzero : b ≠ 0) : divValue .remu a b = a % b := by
  rw [divValue, remU, if_neg nonzero, ← BitVec.toNat_umod, BitVec.ofNat_toNat, BitVec.setWidth_eq]

/-- Dividend, divisor, quotient and remainder of a signed division that fits. -/
theorem divValue_signed_spec (nonzero : b ≠ 0) (fits : ¬(a = BitVec.intMin 64 ∧ b = BitVec.allOnes 64)) :
    (divValue .s a b).toInt * b.toInt + (divValue .rems a b).toInt = a.toInt
      ∧ (divValue .rems a b).toInt.natAbs < b.toInt.natAbs ∧ 0 ≤ (divValue .rems a b).toInt * a.toInt := by
  rw [divValue_s_eq_sdiv nonzero fits, divValue_rems_eq_srem nonzero fits, BitVec.toInt_sdiv_of_ne_or_ne a b (not_and_or.1 fits),
    BitVec.toInt_srem]
  refine ⟨Int.tdiv_mul_add_tmod _ _, ?_, ?_⟩
  · rw [Int.natAbs_tmod]
    exact Nat.mod_lt _ (Int.natAbs_pos.2 (mt toInt_eq_zero_iff.1 nonzero))
  · rcases le_total 0 a.toInt with pos | neg
    · exact mul_nonneg (Int.tmod_nonneg _ pos) pos
    · have remainder : 0 ≤ (-a.toInt).tmod b.toInt := Int.tmod_nonneg _ (neg_nonneg.2 neg)
      rw [Int.neg_tmod] at remainder
      exact mul_nonneg_of_nonpos_of_nonpos (neg_nonneg.1 remainder) neg

theorem divValue_unsigned_spec (nonzero : b ≠ 0) : (divValue .u a b).toNat * b.toNat + (divValue .remu a b).toNat = a.toNat
    ∧ (divValue .remu a b).toNat < b.toNat := by
  rw [divValue_u_eq_udiv nonzero, divValue_remu_eq_umod nonzero, BitVec.toNat_udiv, BitVec.toNat_umod]
  exact ⟨Nat.div_add_mod' _ _, Nat.mod_lt _ (BitVec.toNat_pos_of_ne_zero nonzero)⟩

/-! ## CLZ and POPC (R125) -/

theorem getLsbD_above_clz {j : Nat} (above : 64 - clzNat 64 a.toNat ≤ j) : a.getLsbD j = false := by
  rw [← BitVec.testBit_toNat]
  refine Nat.testBit_lt_two_pow ?_
  unfold clzNat at above
  split at above
  · next zero => rw [zero]; positivity
  · next nonzero =>
    have top : a.toNat.log2 < 64 := (Nat.log2_lt nonzero).2 a.isLt
    exact (Nat.log2_lt nonzero).1 (by omega)

theorem getLsbD_below_clz (nonzero : a ≠ 0) : a.getLsbD (63 - clzNat 64 a.toNat) = true := by
  have value : a.toNat ≠ 0 := (BitVec.toNat_pos_of_ne_zero nonzero).ne'
  have top : a.toNat.log2 < 64 := (Nat.log2_lt value).2 a.isLt
  rw [← BitVec.testBit_toNat, clzNat, if_neg value, show 63 - (64 - 1 - a.toNat.log2) = a.toNat.log2 by omega]
  exact Nat.testBit_log2 value

end

theorem popNat_eq_length_filter (n v : Nat) : popNat n v = ((List.range n).filter fun j => v.testBit j).length := by
  induction n generalizing v with
  | zero => rfl
  | succ n ih =>
    have rest : ((List.range n).map Nat.succ).filter (fun j => v.testBit j)
        = ((List.range n).filter fun j => (v / 2).testBit j).map Nat.succ := by
      simp [List.filter_map, Function.comp_def, Nat.testBit_succ]
    rw [popNat, ih, List.range_succ_eq_map, List.filter_cons, rest]
    by_cases odd : v.testBit 0
    · rw [if_pos odd, List.length_cons, List.length_map, Nat.mod_two_eq_one_iff_testBit_zero.2 odd, Nat.add_comm]
    · have even : v % 2 = 0 := by
        have := mt Nat.mod_two_eq_one_iff_testBit_zero.1 odd
        omega
      rw [if_neg odd, List.length_map, even, Nat.zero_add]

/-! ## INS (R126) -/

/-- The mask of `n` bits from `p` on. -/
theorem getLsbD_fieldMask (n p : Nat) {j : Nat} (hj : j < 64) :
    (BitVec.ofNat 64 ((2 ^ n - 1) * 2 ^ p)).getLsbD j = decide (p ≤ j ∧ j < p + n) := by
  rw [BitVec.getLsbD_ofNat, Nat.testBit_mul_two_pow, Nat.testBit_two_pow_sub_one, decide_eq_true hj, Bool.true_and, ← Bool.decide_and,
    decide_eq_decide]
  omega

theorem getLsbD_insValue (pos len1 : BitVec 6) (a d : Word) {j : Nat} (hj : j < 64) :
    (insValue pos len1 a d).getLsbD j
      = if pos.toNat ≤ j ∧ j < pos.toNat + len1.toNat + 1 then a.getLsbD (j - pos.toNat) else d.getLsbD j := by
  simp only [insValue, BitVec.getLsbD_or, BitVec.getLsbD_and, BitVec.getLsbD_not, BitVec.getLsbD_shiftLeft, getLsbD_fieldMask _ _ hj,
    ← Nat.add_assoc, decide_eq_true hj, Bool.true_and]
  by_cases inside : pos.toNat ≤ j ∧ j < pos.toNat + len1.toNat + 1
  · simp only [decide_eq_true inside, if_pos inside, decide_eq_false (not_lt.2 inside.1), Bool.not_true, Bool.not_false, Bool.and_false,
      Bool.false_or, Bool.true_and, Bool.and_true]
  · simp only [decide_eq_false inside, if_neg inside, Bool.not_false, Bool.and_true, Bool.and_false, Bool.or_false]

/-! ## The conditions of a compare (R129) -/

theorem condHolds_eq_decide (a b : Word) :
    condHolds .eq a b = decide (a = b) ∧ condHolds .ne a b = decide (a ≠ b) ∧ condHolds .lt a b = decide (a.toInt < b.toInt)
      ∧ condHolds .le a b = decide (a.toInt ≤ b.toInt) ∧ condHolds .gt a b = decide (b.toInt < a.toInt)
      ∧ condHolds .ge a b = decide (b.toInt ≤ a.toInt) ∧ condHolds .ltu a b = decide (a.toNat < b.toNat)
      ∧ condHolds .geu a b = decide (b.toNat ≤ a.toNat) :=
  ⟨beq_eq_decide a b, (congrArg not (beq_eq_decide a b)).trans decide_not.symm, BitVec.slt_eq_decide, BitVec.sle_eq_decide,
    BitVec.slt_eq_decide, BitVec.sle_eq_decide, BitVec.ult_eq_decide, BitVec.ule_eq_decide⟩

/-! ## The fields of MSTAT (R240) and CSTAT (R313) -/

/-- Fields side by side make a number in the base of the lower one. -/
theorem toNat_append_eq_add {m n : Nat} (x : BitVec m) (y : BitVec n) : (x ++ y).toNat = x.toNat * 2 ^ n + y.toNat := by
  rw [BitVec.toNat_append, ← Nat.shiftLeft_add_eq_or_of_lt y.isLt, Nat.shiftLeft_eq]

theorem toNat_mstatValue {t : Tile} (depth : t.eng.mq.length ≤ 4) :
    (mstatValue t).toNat = t.eng.mftag.toNat * 2 ^ 24 + t.eng.mfcause.toNat * 2 ^ 16 + t.eng.mq.length * 2 ^ 8
      + t.eng.mfault.toNat * 4 + (mRuns t.eng).toNat * 2 + t.mem.aovf.toNat := by
  have jobs : (BitVec.ofNat 3 t.eng.mq.length).toNat = t.eng.mq.length := Nat.mod_eq_of_lt (by omega)
  simp only [mstatValue, toNat_append_eq_add, BitVec.ofNat_eq_ofNat, BitVec.toNat_zero, BitVec.toNat_ofBool, jobs]
  omega

theorem toNat_cstatValue {t : Tile} {q : BitVec 2} (depth : (queueOf t q).length ≤ 16) :
    (cstatValue t.eng q).toNat = (t.eng.cftag[q.toNat]'q.isLt).toNat * 2 ^ 32 + (t.eng.cfcause[q.toNat]'q.isLt).toNat * 2 ^ 24
      + (t.eng.cfault.getLsbD q.toNat).toNat * 64 + ((queueOf t q).any (·.st != .waiting)).toNat * 32 + (queueOf t q).length := by
  have jobs : (BitVec.ofNat 5 (t.eng.cq[q.toNat]'q.isLt).length).toNat = (queueOf t q).length :=
    Nat.mod_eq_of_lt (Nat.lt_of_le_of_lt depth (by decide))
  simp only [cstatValue, toNat_append_eq_add, BitVec.ofNat_eq_ofNat, BitVec.toNat_zero, BitVec.toNat_ofBool, jobs, queueOf]
  omega

/-- Settles O9: where they fit, quotients and remainders are the library's; bits are told one by one, and fields by their weights. -/
theorem scalarArithmeticLaws : Obligations.ScalarArithmeticLaws := by
  intro a b pos len1 t q
  have ones : popNat 64 a.toNat = ((List.range 64).filter fun j => a.getLsbD j).length := by
    simpa only [BitVec.testBit_toNat] using popNat_eq_length_filter 64 a.toNat
  exact ⟨divValue_signed_spec, divValue_unsigned_spec, divValue_of_zero, divValue_of_overflow, fun _ => getLsbD_above_clz, getLsbD_below_clz, ones,
    fun _ _ => getLsbD_insValue pos len1 a b, condHolds_eq_decide a b, toNat_mstatValue, toNat_cstatValue⟩

end Sys2Proof.Proofs
end

section
/-! Proofs for 04_registers_scalar.md: LDP and STP (R116, R134, R135), and TLD with its faults (06_vector.md R188). -/

namespace Sys2Proof.Proofs

open Sys2Proof Sys2Proof.Machine Sys2Proof.Safety Sys2Proof.Laws

/-! ## Spill memory -/

theorem spillFault_of_aligned {n a : Nat} (aligned : a % n = 0) : spillFault n a = none := if_neg (not_not.2 aligned)

/-! ## Poison of a part (R290) -/

theorem firstPoison_eq_none_iff {m : TMem} {a n : Nat} (hn : 0 < n) :
    firstPoison m a n = none ↔ ∀ b, a / 64 ≤ b → b ≤ (a + n - 1) / 64 → smGet false m.poison b = false := by
  have first : a / 64 ≤ (a + n - 1) / 64 := Nat.div_le_div_right (by omega)
  have clean : firstPoison m a n = none
      ↔ (((upTo ((a + n - 1) / 64 - a / 64 + 1)).map (a / 64 + ·)).find? fun b => smGet false m.poison b) = none := by
    unfold firstPoison
    dsimp only
    split
    · next found => simp only [found, reduceCtorEq]
    · next absent => simp only [absent]
  rw [clean, List.find?_eq_none]
  simp only [List.mem_map, List.mem_range, Bool.not_eq_true]
  constructor
  · intro h b low high
    exact h b ⟨b - a / 64, by omega, by omega⟩
  · rintro h _ ⟨k, hk, rfl⟩
    exact h _ (by omega) (by omega)

theorem firstPoison_of_part {m : TMem} {a n c k : Nat} (hk : 0 < k) (low : a ≤ c) (high : c + k ≤ a + n) (clean : firstPoison m a n = none) :
    firstPoison m c k = none := by
  rw [firstPoison_eq_none_iff (by omega)] at clean ⊢
  intro b hb hb'
  exact clean b (le_trans (Nat.div_le_div_right low) hb) (le_trans hb' (Nat.div_le_div_right (by omega)))

/-! ## The blocks and the checks of TLD (R188) -/

theorem tldCount_pos (hd : BitVec 128) : 0 < tldCount hd := Nat.succ_pos _

/-- The whole blocks that a table takes. -/
theorem tldSpan_spec (hd : BitVec 128) :
    16 + 8 * tldCount hd ≤ tldSpan hd ∧ tldSpan hd % 64 = 0 ∧ tldSpan hd < 16 + 8 * tldCount hd + 64 := by
  unfold tldSpan
  omega

section

variable {s : State} {a : Word}

theorem progEnd_le (t : Tile) : progEnd t ≤ 0x200000 := Nat.sub_le _ _

/-- The first entry of a table whose header is inside the program area. -/
theorem toNat_entries {t : Tile} (inside : a.toNat + 16 ≤ progEnd t) : (a + 16).toNat = a.toNat + 16 := by
  have := progEnd_le t
  rw [BitVec.toNat_add]
  exact Nat.mod_eq_of_lt (show a.toNat + 16 < 2 ^ 64 by omega)

theorem tldFault6_of_poisonedHeader {b : Nat} (h : firstPoison s.tile.mem a.toNat 16 = some b) : tldFault6 s a = some (poisonAt b) := by
  simp only [tldFault6, poisonFault_of_poisoned (by decide) h]

section
variable (header : firstPoison s.tile.mem a.toNat 16 = none)
include header

theorem tldFault6_of_badHeader (bad : tldBad (tldHeader s.tile.mem a.toNat) = true) : tldFault6 s a = some (illegal s) := by
  simp only [tldFault6, poisonFault_of_clean header, bad, if_true]

variable (good : tldBad (tldHeader s.tile.mem a.toNat) = false)
include good

theorem tldFault6_of_goodHeader : tldFault6 s a = (spadFault s.tile (a + 16) (8 * tldCount (tldHeader s.tile.mem a.toNat)) 1 0).or
    (poisonFault s.tile (a.toNat + 16) (8 * tldCount (tldHeader s.tile.mem a.toNat))) := by
  simp only [tldFault6, poisonFault_of_clean header, good, Bool.false_eq_true, if_false]
  cases spadFault s.tile (a + 16) (8 * tldCount (tldHeader s.tile.mem a.toNat)) 1 0 <;> rfl

theorem tldFault6_of_beyond (inside : a.toNat + 16 ≤ progEnd s.tile)
    (past : progEnd s.tile < a.toNat + (16 + 8 * tldCount (tldHeader s.tile.mem a.toNat))) :
    tldFault6 s a = some (beyond s.tile (a + 16) 0) := by
  rw [tldFault6_of_goodHeader header good,
    spadFault_of_beyond (Nat.mod_one _) (by rw [toNat_entries inside]; omega), Option.some_or]

theorem tldFault6_of_inside (inside : a.toNat + (16 + 8 * tldCount (tldHeader s.tile.mem a.toNat)) ≤ progEnd s.tile) :
    tldFault6 s a = poisonFault s.tile (a.toNat + 16) (8 * tldCount (tldHeader s.tile.mem a.toNat)) := by
  have entries : InReach s.tile (a + 16) (8 * tldCount (tldHeader s.tile.mem a.toNat)) 1 :=
    ⟨Nat.mod_one _, by rw [toNat_entries (t := s.tile) (by omega)]; omega⟩
  rw [tldFault6_of_goodHeader header good, spadFault_of_inReach entries, Option.none_or]

end

end

/-! ## The issue of TLD -/

section

variable {s : State} {h : Hdr} {n : BitVec 2} {base : Reg} {td : BitVec 22}

theorem tld_takes_fault6 {f : TFault} (ready : Ready h ((tldOp h n base td).access s) s)
    (reach : InReach s.tile (vmemBase s.tile.regs base td) 16 64)
    (f6 : tldFault6 s (vmemBase s.tile.regs base td) = some f) : Takes f (.tld h n base td) s :=
  run_of_fault6 (o := tldOp h n base td) ready (spadFault_of_inReach reach 0) rfl rfl f6

theorem tld_takes_fault5 {f : TFault} (j : Judged h s) (f5 : spadFault s.tile (vmemBase s.tile.regs base td) 16 64 0 = some f) :
    Takes f (.tld h n base td) s :=
  run_of_fault5 (o := tldOp h n base td) j f5 rfl

theorem tld_loads (ready : Ready h ((tldOp h n base td).access s) s) (reach : InReach s.tile (vmemBase s.tile.regs base td) 16 64)
    (f6 : tldFault6 s (vmemBase s.tile.regs base td) = none) :
    exec (.tld h n base td) s = .next (issued h false s
      (onMem (tableLoaded n (vmemBase s.tile.regs base td).toNat (tldHeader s.tile.mem (vmemBase s.tile.regs base td).toNat)) s)) :=
  run_of_plain (o := tldOp h n base td) ready rfl (spadFault_of_inReach reach 0) rfl f6 fun _ => rfl

end

/-- Settles O15: LDP and STP have one check, that of their address; the faults of TLD are taken in the order of R188, and past them the table is
loaded. -/
theorem spillAndTableAccesses : Obligations.SpillAndTableAccesses := by
  intro s h w r base disp n td
  refine ⟨fun ready aligned => ?_, ?_⟩
  · have passes := spillFault_of_aligned aligned
    exact ⟨run_of_plain (o := ldpOp h w r disp) ready rfl passes rfl rfl fun _ => rfl,
      run_of_plain (o := stpOp h w r disp) ready rfl passes rfl rfl fun _ => rfl⟩
  · intro a hd len blocks
    obtain ⟨covers, whole, tight⟩ := tldSpan_spec hd
    have count : 0 < tldCount hd := tldCount_pos hd
    refine ⟨covers, whole, tight, fun ready reach clean good => ?_, fun j => ⟨fun off => ?_, fun aligned past => ?_⟩,
      fun ready reach => ⟨fun b poisoned => ?_, fun header => ⟨fun bad => ?_, fun good past => ?_, fun b good inside poisoned => ?_⟩⟩⟩
    · obtain ⟨aligned, inside⟩ := reach
      have header : firstPoison s.tile.mem a.toNat 16 = none := firstPoison_of_part (by decide) le_rfl (by omega) clean
      have entries : firstPoison s.tile.mem (a.toNat + 16) (8 * tldCount hd) = none :=
        firstPoison_of_part (by omega) (by omega) (by omega) clean
      have first : InReach s.tile a 16 64 := ⟨aligned, by omega⟩
      exact tld_loads ready first ((tldFault6_of_inside header good inside).trans (poisonFault_of_clean entries))
    · exact tld_takes_fault5 j (spadFault_of_misaligned off)
    · exact tld_takes_fault5 j (spadFault_of_beyond aligned past)
    · exact tld_takes_fault6 ready reach (tldFault6_of_poisonedHeader poisoned)
    · exact tld_takes_fault6 ready reach (tldFault6_of_badHeader header bad)
    · exact tld_takes_fault6 ready reach (tldFault6_of_beyond header good reach.2 past)
    · exact tld_takes_fault6 ready reach
        ((tldFault6_of_inside header good inside).trans (poisonFault_of_poisoned (Nat.mul_pos (by decide) count) poisoned))

end Sys2Proof.Proofs
end

section
/-! Proofs for 05_numbers.md: exact reals as rationals, and the integer that a mode takes (R51, R143). -/

namespace Sys2Proof.Proofs

open Sys2Proof Sys2Proof.Machine Sys2Proof.Safety Sys2Proof.Laws

/-! ## Exact reals as rationals -/

theorem pow2_pos (e : Int) : 0 < pow2 e := Nat.two_pow_pos _

theorem pow2_of_nonneg {e : Int} (h : 0 ≤ e) : (pow2 e : ℚ) = (2 : ℚ) ^ e := by
  rw [pow2, Nat.cast_pow, Nat.cast_two, ← zpow_natCast, Int.toNat_of_nonneg h]

theorem pow2_of_nonpos {e : Int} (h : e ≤ 0) : pow2 e = 1 := by rw [pow2, Int.toNat_of_nonpos h, pow_zero]

/-- A power of two is the quotient of two naturals, one of which is 1. -/
theorem pow2_div_pow2_neg (e : Int) : (pow2 e : ℚ) / pow2 (-e) = (2 : ℚ) ^ e := by
  rcases le_total 0 e with h | h
  · rw [pow2_of_nonneg h, pow2_of_nonpos (neg_nonpos.2 h), Nat.cast_one, div_one]
  · rw [pow2_of_nonpos h, pow2_of_nonneg (neg_nonneg.2 h), Nat.cast_one, zpow_neg, one_div, inv_inv]

section
variable {x y : XReal}

theorem exactly_finReal (a : Bool) (m : Nat) (e : Int) : exactly (finReal a m e) = datum (.fin a m e) := by
  cases a <;> simp [exactly, finReal, datum]


theorem exactly_neg (x : XReal) : exactly x.neg = -exactly x := by simp [exactly, XReal.neg, neg_div]

theorem exactly_mul (x y : XReal) : exactly (x.mul y) = exactly x * exactly y := by
  simp only [exactly, XReal.mul, Int.cast_mul, Nat.cast_mul, zpow_add₀ (two_ne_zero (α := ℚ)), mul_div_mul_comm]
  ring

theorem exactly_add (hx : 0 < x.den) (hy : 0 < y.den) : exactly (x.add y) = exactly x + exactly y := by
  have dx : (x.den : ℚ) ≠ 0 := by positivity
  have dy : (y.den : ℚ) ≠ 0 := by positivity
  have ex : (2 : ℚ) ^ x.e = (2 : ℚ) ^ (x.e - min x.e y.e) * (2 : ℚ) ^ min x.e y.e := by
    rw [← zpow_add₀ two_ne_zero, sub_add_cancel]
  have ey : (2 : ℚ) ^ y.e = (2 : ℚ) ^ (y.e - min x.e y.e) * (2 : ℚ) ^ min x.e y.e := by
    rw [← zpow_add₀ two_ne_zero, sub_add_cancel]
  simp only [exactly, XReal.add, ex, ey, Int.cast_add, Int.cast_mul, Int.cast_natCast, Nat.cast_mul,
    pow2_of_nonneg (sub_nonneg.2 (min_le_left x.e y.e)), pow2_of_nonneg (sub_nonneg.2 (min_le_right x.e y.e))]
  field_simp

theorem den_add (hx : 0 < x.den) (hy : 0 < y.den) : 0 < (x.add y).den := Nat.mul_pos hx hy
theorem den_mul (hx : 0 < x.den) (hy : 0 < y.den) : 0 < (x.mul y).den := Nat.mul_pos hx hy
theorem den_div (hx : 0 < x.den) (hy : y.num ≠ 0) : 0 < (x.div y).den := Nat.mul_pos hx (Int.natAbs_pos.2 hy)

theorem exactly_div (hx : 0 < x.den) (hy : 0 < y.den) (nonzero : y.num ≠ 0) : exactly (x.div y) = exactly x / exactly y := by
  have dx : (x.den : ℚ) ≠ 0 := by positivity
  have dy : (y.den : ℚ) ≠ 0 := by positivity
  have ny : (y.num : ℚ) ≠ 0 := Int.cast_ne_zero.2 nonzero
  have magnitude : (y.num.natAbs : ℚ) = y.num * (if y.num < 0 then -1 else 1 : Int) := by
    rw [Nat.cast_natAbs]
    split
    · next h => rw [abs_of_neg h]; push_cast; ring
    · next h => rw [abs_of_nonneg (not_lt.1 h)]; push_cast; ring
  have sign : ((if y.num < 0 then -1 else 1 : Int) : ℚ) ≠ 0 := by split <;> norm_num
  simp only [exactly, XReal.div, Int.cast_mul, Nat.cast_mul, magnitude, Int.cast_natCast, zpow_sub₀ (two_ne_zero (α := ℚ))]
  field_simp

theorem exactly_eq_zero_iff (hx : 0 < x.den) : exactly x = 0 ↔ x.num = 0 := by
  have dx : (x.den : ℚ) ≠ 0 := by positivity
  have pow : (2 : ℚ) ^ x.e ≠ 0 := by positivity
  simp [exactly, dx, pow]

theorem exactly_neg_iff (hx : 0 < x.den) : exactly x < 0 ↔ x.num < 0 := by
  have factor : 0 < (2 : ℚ) ^ x.e / x.den := by positivity
  rw [exactly, div_mul_eq_mul_div, mul_div_assoc, ← Int.cast_lt_zero (R := ℚ)]
  exact ⟨fun h => neg_of_mul_neg_left h factor.le, fun h => mul_neg_of_neg_of_pos h factor⟩

theorem lt_iff_exactly_lt (hx : 0 < x.den) (hy : 0 < y.den) : x.lt y = decide (exactly x < exactly y) := by
  have difference : exactly (x.add y.neg) = exactly x - exactly y := by rw [exactly_add hx (y := y.neg) hy, exactly_neg, sub_eq_add_neg]
  rw [XReal.lt, decide_eq_decide, ← exactly_neg_iff (den_add hx (y := y.neg) hy), difference, sub_neg]

theorem floor_eq_floor_exactly (hx : 0 < x.den) : x.floor = ⌊exactly x⌋ := by
  have quotient : exactly x = ((x.num * pow2 x.e : Int) : ℚ) / ((x.den * pow2 (-x.e) : Nat) : ℚ) := by
    rw [exactly, ← pow2_div_pow2_neg]
    push_cast
    exact div_mul_div_comm _ _ _ _
  rw [quotient, Rat.floor_intCast_div_natCast, XReal.floor, Int.fdiv_eq_ediv_of_nonneg _ (by positivity), Nat.cast_mul]

/-- The magnitude in units of 2^u, as a quotient of two naturals. -/
theorem abs_exactly_div (x : XReal) (u : Int) :
    |exactly x| / (2 : ℚ) ^ u = ((x.num.natAbs * pow2 (x.e - u) : Nat) : ℚ) / ((x.den * pow2 (u - x.e) : Nat) : ℚ) := by
  have unit : (2 : ℚ) ^ x.e / (2 : ℚ) ^ u = (pow2 (x.e - u) : ℚ) / pow2 (u - x.e) := by
    rw [← zpow_sub₀ two_ne_zero, ← pow2_div_pow2_neg, neg_sub]
  rw [exactly, abs_mul, abs_div, Nat.abs_cast, abs_of_pos (a := (2 : ℚ) ^ x.e) (by positivity), mul_div_assoc, unit, Nat.cast_mul,
    Nat.cast_mul, div_mul_div_comm, Nat.cast_natAbs, Int.cast_abs]

/-- The exponent of a real is the binary logarithm of its magnitude. -/
theorem exponent_eq_log (hx : 0 < x.den) (nonzero : x.num ≠ 0) : x.exponent = Int.log 2 |exactly x| := by
  have hn : x.num.natAbs ≠ 0 := Int.natAbs_ne_zero.2 nonzero
  have dx : (0 : ℚ) < x.den := by positivity
  have pos : 0 < |exactly x| := abs_pos.2 (mt (exactly_eq_zero_iff hx).1 nonzero)
  set l : Int := (Nat.log2 x.num.natAbs : Int) - Nat.log2 x.den with hl
  have value : |exactly x| = (x.num.natAbs : ℚ) / x.den * (2 : ℚ) ^ x.e := by
    have h := abs_exactly_div x x.e
    rw [sub_self, pow2_of_nonpos le_rfl, mul_one, mul_one, div_eq_iff (by positivity)] at h
    exact h
  have low : (2 : ℚ) ^ (l - 1) < (x.num.natAbs : ℚ) / x.den := by
    rw [lt_div_iff₀ dx]
    calc (2 : ℚ) ^ (l - 1) * x.den < (2 : ℚ) ^ (l - 1) * (2 : ℚ) ^ (Nat.log2 x.den + 1 : Int) := by
          gcongr; exact_mod_cast Nat.lt_log2_self
      _ = (2 : ℚ) ^ (Nat.log2 x.num.natAbs : Int) := by rw [← zpow_add₀ two_ne_zero]; congr 1; omega
      _ ≤ x.num.natAbs := by exact_mod_cast Nat.log2_self_le hn
  have high : (x.num.natAbs : ℚ) / x.den < (2 : ℚ) ^ (l + 1) := by
    rw [div_lt_iff₀ dx]
    calc (x.num.natAbs : ℚ) < (2 : ℚ) ^ (Nat.log2 x.num.natAbs + 1 : Int) := by exact_mod_cast Nat.lt_log2_self
      _ = (2 : ℚ) ^ (l + 1) * (2 : ℚ) ^ (Nat.log2 x.den : Int) := by rw [← zpow_add₀ two_ne_zero]; congr 1; omega
      _ ≤ (2 : ℚ) ^ (l + 1) * x.den := by gcongr; exact_mod_cast Nat.log2_self_le hx.ne'
  have less : x.num.natAbs * pow2 (-l) < x.den * pow2 l ↔ (x.num.natAbs : ℚ) / x.den < (2 : ℚ) ^ l := by
    have pl : (0 : ℚ) < pow2 (-l) := by exact_mod_cast pow2_pos (-l)
    rw [← pow2_div_pow2_neg, div_lt_div_iff₀ dx pl, mul_comm (pow2 l : ℚ)]
    exact_mod_cast Iff.rfl
  have unique : ∀ k : Int, (2 : ℚ) ^ k ≤ (x.num.natAbs : ℚ) / x.den → (x.num.natAbs : ℚ) / x.den < (2 : ℚ) ^ (k + 1) →
      k + x.e = Int.log 2 |exactly x| := by
    intro k le lt
    have e : (0 : ℚ) < (2 : ℚ) ^ x.e := by positivity
    refine le_antisymm ((Int.zpow_le_iff_le_log (by norm_num) pos).1 ?_) (Int.lt_add_one_iff.1 ((Int.lt_zpow_iff_log_lt (by norm_num) pos).1 ?_))
    · rw [value, Nat.cast_two, zpow_add₀ two_ne_zero]; gcongr
    · rw [value, Nat.cast_two, add_right_comm, zpow_add₀ two_ne_zero]; gcongr
  simp only [XReal.exponent, ← hl]
  split
  · next h => exact unique _ low.le (by rw [sub_add_cancel]; exact less.1 h)
  · next h => exact unique _ (not_lt.1 (mt less.2 h)) high

end
end Sys2Proof.Proofs
end

section
/-! Proofs for 05_numbers.md: the integer that a mode takes (R51, R143), and that the model's rounding to a unit takes it. -/

namespace Sys2Proof.Proofs

open Sys2Proof Sys2Proof.Machine Sys2Proof.Safety Sys2Proof.Laws

/-! ## The integer that a mode takes -/

/-- What RNE takes is nearest, and even where two are. -/
theorem toInteger_rne_near (y : ℚ) :
    |(toInteger .rne y : ℚ) - y| < 1 / 2 ∨ (|(toInteger .rne y : ℚ) - y| = 1 / 2 ∧ toInteger .rne y % 2 = 0) := by
  have low : (⌊y⌋ : ℚ) ≤ y := Int.floor_le y
  have high : y < ⌊y⌋ + 1 := Int.lt_floor_add_one y
  have below : |(⌊y⌋ : ℚ) - y| = y - ⌊y⌋ := by rw [abs_sub_comm, abs_of_nonneg (sub_nonneg.2 low)]
  have above : |((⌊y⌋ + 1 : Int) : ℚ) - y| = ⌊y⌋ + 1 - y := by
    push_cast
    exact abs_of_nonneg (sub_nonneg.2 high.le)
  simp only [toInteger]
  split_ifs with less more even
  · exact .inl (below ▸ less)
  · exact .inl (by rw [above]; linarith)
  · exact .inr ⟨by rw [below]; linarith, even⟩
  · exact .inr ⟨by rw [above]; linarith, by omega⟩

theorem abs_sub_ge_one_of_ne {i j : Int} (h : i ≠ j) : (1 : ℚ) ≤ |(i : ℚ) - j| := by
  exact_mod_cast Int.one_le_abs (sub_ne_zero.2 h)

/-- An integer that is nearest, and even where two are, is what RNE takes. -/
theorem toInteger_rne_eq {y : ℚ} {k : Int} (near : |(k : ℚ) - y| < 1 / 2 ∨ (|(k : ℚ) - y| = 1 / 2 ∧ k % 2 = 0)) : toInteger .rne y = k := by
  by_contra ne
  have apart : (1 : ℚ) ≤ |(toInteger .rne y : ℚ) - k| := abs_sub_ge_one_of_ne ne
  have triangle : |(toInteger .rne y : ℚ) - k| ≤ |(toInteger .rne y : ℚ) - y| + |(k : ℚ) - y| := by
    rw [abs_sub_comm (k : ℚ)]; exact abs_sub_le _ _ _
  rcases toInteger_rne_near y with less | ⟨half, even⟩ <;> rcases near with less' | ⟨half', even'⟩
  · linarith
  · linarith
  · linarith
  · -- two even integers are two apart at least
    have two : (2 : ℚ) ≤ |(toInteger .rne y : ℚ) - k| := by
      have : 2 ≤ |toInteger .rne y - k| := by
        rw [le_abs]
        omega
      exact_mod_cast this
    linarith

@[simp] theorem toInteger_intCast (rnd : Rnd) (k : Int) : toInteger rnd (k : ℚ) = k := by cases rnd <;> simp [toInteger]

/-- The mode that takes of a number what `rnd` takes of its negative. -/
def opposite : Rnd → Rnd
  | .rdn => .rup
  | .rup => .rdn
  | r => r

theorem toInteger_neg (rnd : Rnd) (y : ℚ) : toInteger rnd (-y) = -toInteger (opposite rnd) y := by
  cases rnd
  case rne =>
    refine toInteger_rne_eq ?_
    have mirror : |((-toInteger .rne y : Int) : ℚ) - -y| = |(toInteger .rne y : ℚ) - y| := by
      rw [← abs_neg]; congr 1; push_cast; ring
    rcases toInteger_rne_near y with less | ⟨half, even⟩
    · exact .inl (mirror ▸ less)
    · exact .inr ⟨mirror ▸ half, by rw [show opposite .rne = .rne from rfl]; omega⟩
  case rtz =>
    simp only [toInteger, opposite, Int.ceil_neg, Int.floor_neg, Left.neg_neg_iff]
    rcases lt_trichotomy y 0 with h | rfl | h
    · rw [if_neg h.not_gt, if_pos h]
    · simp
    · rw [if_pos h, if_neg h.not_gt]
  case rdn => exact Int.floor_neg
  case rup => exact Int.ceil_neg

theorem toInteger_mono (rnd : Rnd) {y y' : ℚ} (h : y ≤ y') : toInteger rnd y ≤ toInteger rnd y' := by
  cases rnd
  case rne =>
    by_contra less
    have gap : (toInteger .rne y' : ℚ) + 1 ≤ toInteger .rne y := by exact_mod_cast (not_le.1 less)
    have near : |(toInteger .rne y : ℚ) - y| ≤ 1 / 2 := (toInteger_rne_near y).elim le_of_lt fun h => h.1.le
    have near' : |(toInteger .rne y' : ℚ) - y'| ≤ 1 / 2 := (toInteger_rne_near y').elim le_of_lt fun h => h.1.le
    obtain rfl : y = y' := le_antisymm h (by linarith [(abs_le.1 near).2, (abs_le.1 near').1])
    exact less le_rfl
  case rtz =>
    simp only [toInteger]
    split_ifs with neg neg' neg'
    · exact Int.ceil_le_ceil h
    · exact (Int.ceil_nonpos.2 neg.le).trans (Int.floor_nonneg.2 (not_lt.1 neg'))
    · exact absurd (h.trans_lt neg') neg
    · exact Int.floor_le_floor h
  case rdn => exact Int.floor_le_floor h
  case rup => exact Int.ceil_le_ceil h

@[simp] theorem toInteger_zero (rnd : Rnd) : toInteger rnd 0 = 0 := by simpa using toInteger_intCast rnd 0

theorem toInteger_nonneg (rnd : Rnd) {y : ℚ} (h : 0 ≤ y) : 0 ≤ toInteger rnd y := by simpa using toInteger_mono rnd h
theorem toInteger_nonpos (rnd : Rnd) {y : ℚ} (h : y ≤ 0) : toInteger rnd y ≤ 0 := by simpa using toInteger_mono rnd h

/-- A magnitude up to an integer rounds to one up to it. -/
theorem natAbs_toInteger_le (rnd : Rnd) {y : ℚ} {n : Nat} (h : |y| ≤ n) : (toInteger rnd y).natAbs ≤ n := by
  have low : toInteger rnd ((-n : Int) : ℚ) ≤ toInteger rnd y := toInteger_mono rnd (by push_cast; exact (abs_le.1 h).1)
  have high : toInteger rnd y ≤ toInteger rnd ((n : Int) : ℚ) := toInteger_mono rnd (by push_cast; exact (abs_le.1 h).2)
  rw [toInteger_intCast] at low high
  omega

/-- A magnitude from an integer on rounds to one from it on. -/
theorem le_natAbs_toInteger (rnd : Rnd) {y : ℚ} {n : Nat} (h : n ≤ |y|) : n ≤ (toInteger rnd y).natAbs := by
  rcases le_abs.1 h with pos | neg
  · have high : toInteger rnd ((n : Int) : ℚ) ≤ toInteger rnd y := toInteger_mono rnd (by exact_mod_cast pos)
    rw [toInteger_intCast] at high
    omega
  · have low : toInteger rnd y ≤ toInteger rnd ((-n : Int) : ℚ) := toInteger_mono rnd (by push_cast; linarith)
    rw [toInteger_intCast] at low
    omega

/-! ## The number that a mode takes among others -/

/-- `a` is at least as good a rounding of `q` as `b`; `even` is whether `a` is the even one of two as near. -/
def Prefers (rnd : Rnd) (q a b : ℚ) (even : Prop) : Prop :=
  match rnd with
  | .rne => |a - q| < |b - q| ∨ b = a ∨ (|a - q| = |b - q| ∧ even)
  | .rtz => |a| ≤ |q| ∧ (0 ≤ b * q → |b| ≤ |q| → |b| ≤ |a|)
  | .rdn => a ≤ q ∧ (b ≤ q → b ≤ a)
  | .rup => q ≤ a ∧ (q ≤ b → a ≤ b)

theorem prefers_toInteger (rnd : Rnd) (y : ℚ) (j : Int) : Prefers rnd y (toInteger rnd y) j (toInteger rnd y % 2 = 0) := by
  cases rnd
  case rne =>
    by_cases same : j = toInteger .rne y
    · exact .inr (.inl (congrArg _ same))
    · have apart : (1 : ℚ) ≤ |(toInteger .rne y : ℚ) - j| := abs_sub_ge_one_of_ne (Ne.symm same)
      have triangle : |(toInteger .rne y : ℚ) - j| ≤ |(toInteger .rne y : ℚ) - y| + |(j : ℚ) - y| := by
        rw [abs_sub_comm (j : ℚ)]; exact abs_sub_le _ _ _
      rcases toInteger_rne_near y with less | ⟨half, even⟩
      · exact .inl (by linarith)
      · rcases (show |(toInteger .rne y : ℚ) - y| ≤ |(j : ℚ) - y| by linarith).lt_or_eq with less | same
        · exact .inl less
        · exact .inr (.inr ⟨same, even⟩)
  case rtz =>
    refine ⟨?_, fun _ h => ?_⟩
    · simp only [toInteger]
      split
      · next neg =>
        have ceil : ((⌈y⌉ : Int) : ℚ) ≤ 0 := by exact_mod_cast Int.ceil_nonpos.2 neg.le
        rw [abs_of_nonpos ceil, abs_of_neg neg]
        exact neg_le_neg (Int.le_ceil y)
      · next pos =>
        have floor : (0 : ℚ) ≤ (⌊y⌋ : Int) := by exact_mod_cast Int.floor_nonneg.2 (not_lt.1 pos)
        rw [abs_of_nonneg floor, abs_of_nonneg (not_lt.1 pos)]
        exact Int.floor_le y
    · have magnitude : j.natAbs ≤ (toInteger .rtz y).natAbs := le_natAbs_toInteger .rtz (by rwa [Nat.cast_natAbs, Int.cast_abs])
      rw [← Int.cast_abs, ← Int.cast_abs, Int.cast_le, Int.abs_eq_natAbs, Int.abs_eq_natAbs]
      exact_mod_cast magnitude
  case rdn => exact ⟨Int.floor_le y, fun h => by exact_mod_cast Int.le_floor.2 h⟩
  case rup => exact ⟨Int.le_ceil y, fun h => by exact_mod_cast Int.ceil_le.2 h⟩

theorem Prefers.imp_even {rnd : Rnd} {q a b : ℚ} {even even' : Prop} (h : Prefers rnd q a b even) (imp : even → even') :
    Prefers rnd q a b even' := by
  cases rnd
  case rne => exact h.imp_right (Or.imp_right (And.imp_right imp))
  all_goals exact h

/-- A positive unit changes nothing. -/
theorem Prefers.scale {rnd : Rnd} {q a b u : ℚ} {even : Prop} (hu : 0 < u) (h : Prefers rnd q a b even) :
    Prefers rnd (q * u) (a * u) (b * u) even := by
  have dist : ∀ c : ℚ, |c * u - q * u| = |c - q| * u := fun c => by rw [← sub_mul, abs_mul, abs_of_pos hu]
  have size : ∀ c : ℚ, |c * u| = |c| * u := fun c => by rw [abs_mul, abs_of_pos hu]
  cases rnd
  case rne =>
    simp only [Prefers, dist, mul_lt_mul_iff_left₀ hu, mul_left_inj' hu.ne']
    exact h
  case rtz =>
    have sign : 0 ≤ b * u * (q * u) → 0 ≤ b * q := fun h => by
      have square : 0 < u * u := mul_pos hu hu
      exact nonneg_of_mul_nonneg_left (by linarith [mul_mul_mul_comm b u q u]) square
    simp only [Prefers, size, mul_le_mul_iff_left₀ hu]
    exact ⟨h.1, fun s => h.2 (sign s)⟩
  case rdn | rup => simpa only [Prefers, mul_le_mul_iff_left₀ hu] using h

/-- What is better than a number `c` between 0 and `q` is better than everything smaller than `c`. -/
theorem Prefers.of_inner {rnd : Rnd} {q a b c : ℚ} {even : Prop} (h : Prefers rnd q a c even) (inner : 0 ≤ c ∧ c ≤ q ∨ q ≤ c ∧ c ≤ 0)
    (small : |b| < |c|) : Prefers rnd q a b even := by
  obtain ⟨left, right⟩ := abs_lt.1 small
  cases rnd
  case rne =>
    refine .inl (lt_of_le_of_lt (b := |c - q|) ?_ ?_)
    · rcases h with less | same | ⟨same, -⟩
      exacts [less.le, by rw [same], same.le]
    · rcases inner with ⟨pos, le⟩ | ⟨le, neg⟩
      · rw [abs_of_nonneg pos] at right
        rw [abs_of_nonpos (sub_nonpos.2 le), abs_of_neg (by linarith)]
        linarith
      · rw [abs_of_nonpos neg] at left
        rw [abs_of_nonneg (sub_nonneg.2 le), abs_of_pos (by linarith)]
        linarith
  case rtz =>
    obtain ⟨within, best⟩ := h
    refine ⟨within, fun _ _ => small.le.trans (best ?_ ?_)⟩
    · rcases inner with ⟨pos, le⟩ | ⟨le, neg⟩
      · exact mul_nonneg pos (pos.trans le)
      · exact mul_nonneg_of_nonpos_of_nonpos neg (le.trans neg)
    · rcases inner with ⟨pos, le⟩ | ⟨le, neg⟩
      · exact abs_le_abs_of_nonneg pos le
      · exact abs_le_abs_of_nonpos neg le
  case rdn =>
    obtain ⟨within, best⟩ := h
    refine ⟨within, fun le => ?_⟩
    rcases inner with ⟨pos, le'⟩ | ⟨le', neg⟩
    · rw [abs_of_nonneg pos] at right
      linarith [best le']
    · rw [abs_of_nonpos neg] at left
      linarith
  case rup =>
    obtain ⟨within, best⟩ := h
    refine ⟨within, fun le => ?_⟩
    rcases inner with ⟨pos, le'⟩ | ⟨le', neg⟩
    · rw [abs_of_nonneg pos] at right
      linarith
    · rw [abs_of_nonpos neg] at left
      linarith [best le']

/-! ## The rounding of a magnitude -/

/-- Without a sign, the rounded quotient of two naturals is the integer that the mode takes. -/
theorem roundMag_false (rnd : Rnd) (n : Nat) {d : Nat} (hd : 0 < d) : ((roundMag rnd false n d).1 : Int) = toInteger rnd ((n : ℚ) / d) := by
  have dpos : (0 : ℚ) < d := by exact_mod_cast hd
  have split : (n : ℚ) / d = (n / d : Nat) + ((n % d : Nat) : ℚ) / d := by
    rw [div_eq_iff dpos.ne', add_mul, div_mul_cancel₀ _ dpos.ne']
    exact_mod_cast (Nat.div_add_mod' n d).symm
  have rest : ((n % d : Nat) : ℚ) / d < 1 := (div_lt_one dpos).2 (by exact_mod_cast Nat.mod_lt n hd)
  have pos : (0 : ℚ) ≤ ((n % d : Nat) : ℚ) / d := by positivity
  have floor : ⌊(n : ℚ) / d⌋ = (n / d : Nat) := by
    rw [split, Int.floor_natCast_add, Int.floor_eq_zero_iff.2 ⟨pos, rest⟩, add_zero]
  have half : ∀ m : Nat, 2 * m < d ↔ (m : ℚ) / d < 1 / 2 := fun m => by
    rw [div_lt_div_iff₀ dpos two_pos, one_mul, mul_comm]; exact_mod_cast Iff.rfl
  have half' : d < 2 * (n % d) ↔ 1 / 2 < ((n % d : Nat) : ℚ) / d := by
    rw [div_lt_div_iff₀ two_pos dpos, one_mul, mul_comm]; exact_mod_cast Iff.rfl
  have fraction : (n : ℚ) / d - ((n / d : Nat) : Int) = ((n % d : Nat) : ℚ) / d := by
    rw [Int.cast_natCast]; linarith
  cases rnd
  case rne =>
    simp only [toInteger, roundMag, floor, fraction, ← half, ← half']
    rcases lt_trichotomy (2 * (n % d)) d with less | same | more
    · simp [less, less.not_gt, less.ne]
    · simp only [same, lt_irrefl, decide_false, beq_self_eq_true, Bool.true_and, Bool.false_or, beq_iff_eq, if_false]
      grind
    · simp [more, more.not_gt]
  case rtz =>
    have nonneg : ¬ (n : ℚ) / d < 0 := not_lt.2 (by positivity)
    simp [toInteger, roundMag, nonneg, floor]
  case rdn => simp [toInteger, roundMag, floor]
  case rup =>
    simp only [toInteger, roundMag, Bool.not_false, Bool.true_and, bne_iff_ne, ne_eq]
    symm
    by_cases whole : n % d = 0
    · rw [split, whole]; simp
    · have some : (0 : ℚ) < ((n % d : Nat) : ℚ) / d := div_pos (by exact_mod_cast Nat.pos_of_ne_zero whole) dpos
      rw [if_pos whole, Int.ceil_eq_iff, split, Int.cast_natCast, Nat.cast_add_one]
      exact ⟨by linarith, by linarith⟩

theorem roundMag_true (rnd : Rnd) (n d : Nat) : roundMag rnd true n d = roundMag (opposite rnd) false n d := by cases rnd <;> rfl

/-- A quotient of two naturals is exact where it is an integer. -/
theorem roundMag_exact_iff (rnd : Rnd) (neg : Bool) (n : Nat) {d : Nat} (hd : 0 < d) :
    (roundMag rnd neg n d).2 = false ↔ ∃ k : Int, (n : ℚ) / d = k := by
  have dpos : (d : ℚ) ≠ 0 := by exact_mod_cast hd.ne'
  have flag : (roundMag rnd neg n d).2 = false ↔ d ∣ n := by simp [roundMag, Nat.dvd_iff_mod_eq_zero]
  rw [flag, ← Int.natCast_dvd_natCast]
  refine exists_congr fun k => ?_
  rw [div_eq_iff dpos, mul_comm]
  exact_mod_cast Iff.rfl

theorem toInteger_eq_iff (rnd : Rnd) (y : ℚ) : (toInteger rnd y : ℚ) = y ↔ ∃ k : Int, |y| = k := by
  refine ⟨fun h => ⟨|toInteger rnd y|, by rw [Int.cast_abs, h]⟩, fun ⟨k, h⟩ => ?_⟩
  rcases abs_choice y with same | negative
  · rw [← same, h, toInteger_intCast]
  · obtain rfl : y = ((-k : Int) : ℚ) := by push_cast; linarith
    rw [toInteger_intCast]

theorem natAbs_toInteger_abs (rnd : Rnd) (y : ℚ) :
    ((toInteger rnd y).natAbs : Int) = toInteger (if y < 0 then opposite rnd else rnd) |y| := by
  split
  · next neg =>
    have back : toInteger rnd y = -toInteger (opposite rnd) |y| := by rw [abs_of_neg neg, ← toInteger_neg, neg_neg]
    have := toInteger_nonneg (opposite rnd) (abs_nonneg y)
    omega
  · next pos =>
    have := toInteger_nonneg rnd (not_lt.1 pos)
    rw [abs_of_nonneg (not_lt.1 pos)]
    omega

theorem roundUnits_eq {x : XReal} (hx : 0 < x.den) (rnd : Rnd) (u : Int) :
    let y : ℚ := exactly x / (2 : ℚ) ^ u
    roundUnits rnd x u = ((toInteger rnd y).natAbs, decide ((toInteger rnd y : ℚ) ≠ y)) := by
  intro y
  have unit : (0 : ℚ) < (2 : ℚ) ^ u := by positivity
  have hd : 0 < x.den * pow2 (u - x.e) := Nat.mul_pos hx (pow2_pos _)
  have quotient : ((x.num.natAbs * pow2 (x.e - u) : Nat) : ℚ) / ((x.den * pow2 (u - x.e) : Nat) : ℚ) = |y| := by
    rw [← abs_exactly_div, abs_div, abs_of_pos unit]
  have sign : x.num < 0 ↔ y < 0 := by
    rw [← exactly_neg_iff hx, div_lt_iff₀ unit, zero_mul]
  have magnitude : (roundMag rnd (decide (x.num < 0)) (x.num.natAbs * pow2 (x.e - u)) (x.den * pow2 (u - x.e))).1 = (toInteger rnd y).natAbs := by
    rw [← Int.natCast_inj, natAbs_toInteger_abs, ← quotient]
    by_cases neg : x.num < 0
    · rw [if_pos (sign.1 neg), decide_eq_true neg, roundMag_true, roundMag_false _ _ hd]
    · rw [if_neg (mt sign.2 neg), decide_eq_false neg, roundMag_false _ _ hd]
  refine Prod.ext magnitude ?_
  rw [roundUnits, Bool.eq_iff_iff, decide_eq_true_iff, ← Bool.not_eq_false, not_iff_not, roundMag_exact_iff _ _ _ hd, quotient,
    toInteger_eq_iff]

end Sys2Proof.Proofs
end

section
/-! Proofs for 05_numbers.md: the fields of an encoding, the number it stands for, and the numbers of a format (R139, R140). -/

namespace Sys2Proof.Proofs

open Sys2Proof Sys2Proof.Machine Sys2Proof.Safety Sys2Proof.Laws

/-- What the three formats of the machine have in common (R139). -/
structure IsFormat (f : Fmt) : Prop where
  fraction : 0 < f.mw
  exponent : 2 ≤ f.ew
  integers : (f.mw : Int) ≤ f.bias

theorem isFormat_of_mem {f : Fmt} (h : f ∈ [fmtOf .bf16, fmtOf .fp16, fp32]) : IsFormat f := by
  simp only [List.mem_cons, List.not_mem_nil, or_false] at h
  rcases h with rfl | rfl | rfl <;> exact ⟨by decide, by decide, by decide⟩

theorem isFormat_fp32 : IsFormat fp32 := isFormat_of_mem (by decide)
theorem isFormat_fmtOf (ty : ElemTy) : IsFormat (fmtOf ty) := isFormat_of_mem (by cases ty <;> decide)

theorem emin_eq (f : Fmt) : f.emin = 1 - f.bias := rfl

theorem IsFormat.two_pow_ew {f : Fmt} (hf : IsFormat f) : ((2 ^ f.ew : Nat) : Int) = 2 * f.bias + 2 := by
  obtain ⟨n, hn⟩ : ∃ n, f.ew = n + 1 := ⟨f.ew - 1, by have := hf.exponent; omega⟩
  rw [Fmt.bias, hn, Nat.add_sub_cancel, pow_succ]
  push_cast
  ring

theorem IsFormat.bias_pos {f : Fmt} (hf : IsFormat f) : 0 < f.bias := by
  have := hf.fraction
  have := hf.integers
  omega

theorem fmt_emin_le_bias {f : Fmt} (hf : IsFormat f) : f.emin ≤ f.bias := by
  have := hf.bias_pos
  rw [emin_eq]
  omega

theorem IsFormat.two_pow_mw_even {f : Fmt} (hf : IsFormat f) : 2 ^ f.mw % 2 = 0 := by
  obtain ⟨n, hn⟩ : ∃ n, f.mw = n + 1 := ⟨f.mw - 1, by have := hf.fraction; omega⟩
  rw [hn, pow_succ]
  exact Nat.mul_mod_left _ _

/-- The largest number in its own units. -/
theorem largest_eq (f : Fmt) : largest f = (2 ^ (f.mw + 1) - 1) * (2 : ℚ) ^ (f.bias - f.mw) := by
  rw [largest, sub_eq_add_neg f.bias, zpow_add₀ two_ne_zero, sub_mul, sub_mul, pow_succ, zpow_neg, zpow_natCast]
  field_simp

/-! ## Fields -/

section
variable {f : Fmt} {c : Nat}

theorem two_pow_fields (f : Fmt) : 2 ^ (f.ew + f.mw) = 2 ^ f.ew * 2 ^ f.mw := pow_add ..

/-- Finite codes end where the exponent field is all ones. -/
theorem lt_of_finiteCode (h : c < (2 ^ f.ew - 1) * 2 ^ f.mw) : c < 2 ^ (f.ew + f.mw) :=
  two_pow_fields f ▸ h.trans_le (Nat.mul_le_mul_right _ (Nat.sub_le _ _))

theorem signBit_eq (f : Fmt) (neg : Bool) : f.signBit neg = neg.toNat * 2 ^ (f.ew + f.mw) := by cases neg <;> simp [Fmt.signBit]

theorem signField_signBit_add (neg : Bool) (h : c < 2 ^ (f.ew + f.mw)) : signField f (f.signBit neg + c) = neg.toNat := by
  rw [signField, signBit_eq, Nat.add_comm, Nat.add_mul_div_right _ _ (Nat.two_pow_pos _), Nat.div_eq_of_lt h, Nat.zero_add]
  cases neg <;> rfl

theorem expField_signBit_add (neg : Bool) (h : c < 2 ^ (f.ew + f.mw)) : expField f (f.signBit neg + c) = c / 2 ^ f.mw := by
  rw [two_pow_fields] at h
  rw [expField, signBit_eq, two_pow_fields, Nat.add_comm, ← Nat.mul_assoc, Nat.add_mul_div_right _ _ (Nat.two_pow_pos _),
    Nat.add_mul_mod_self_right, Nat.mod_eq_of_lt (Nat.div_lt_of_lt_mul (by rwa [Nat.mul_comm]))]

theorem fracField_signBit_add (neg : Bool) : fracField f (f.signBit neg + c) = c % 2 ^ f.mw := by
  rw [fracField, signBit_eq, two_pow_fields, Nat.add_comm, ← Nat.mul_assoc, Nat.add_mul_mod_self_right]

theorem mod_two_signBit_add (hf : IsFormat f) (neg : Bool) : (f.signBit neg + c) % 2 = c % 2 := by
  obtain ⟨n, hn⟩ : ∃ n, f.ew + f.mw = n + 1 := ⟨f.ew + f.mw - 1, by have := hf.exponent; omega⟩
  rw [signBit_eq, hn, pow_succ, ← Nat.mul_assoc, Nat.add_comm, Nat.add_mul_mod_self_right]

theorem signField_eq_zero_or_one (f : Fmt) (x : Nat) : signField f x = 0 ∨ signField f x = 1 := Nat.mod_two_eq_zero_or_one _

/-- An encoding is its sign bit and the code of a magnitude. -/
theorem encoding_eq_signBit_add {x : Nat} (h : Encoding f x) : x = f.signBit (decide (signField f x = 1)) + x % 2 ^ (f.ew + f.mw) := by
  have top : x / 2 ^ (f.ew + f.mw) < 2 := Nat.div_lt_of_lt_mul (by rwa [← pow_succ, Nat.add_comm, ← Nat.add_assoc])
  have sign : (decide (signField f x = 1)).toNat = x / 2 ^ (f.ew + f.mw) := by
    rw [signField, Nat.mod_eq_of_lt top]
    interval_cases x / 2 ^ (f.ew + f.mw) <;> rfl
  rw [signBit_eq, sign, Nat.div_add_mod']

theorem encoding_signBit_add (neg : Bool) (h : c < 2 ^ (f.ew + f.mw)) : Encoding f (f.signBit neg + c) := by
  have sign : neg.toNat * 2 ^ (f.ew + f.mw) ≤ 1 * 2 ^ (f.ew + f.mw) := Nat.mul_le_mul_right _ (Bool.toNat_le neg)
  rw [Encoding, Nat.add_assoc, Nat.add_comm 1, pow_succ, signBit_eq]
  omega

theorem finite_signBit_add (neg : Bool) (h : c < (2 ^ f.ew - 1) * 2 ^ f.mw) : Finite f (f.signBit neg + c) := by
  have small := lt_of_finiteCode h
  refine ⟨encoding_signBit_add neg small, ?_⟩
  rw [expField_signBit_add neg small]
  exact (Nat.div_lt_of_lt_mul (by rwa [Nat.mul_comm])).ne

/-- A finite encoding is a sign bit and a finite code. -/
theorem exists_code_of_finite {x : Nat} (h : Finite f x) :
    ∃ c, c < (2 ^ f.ew - 1) * 2 ^ f.mw ∧ x = f.signBit (decide (signField f x = 1)) + c := by
  obtain ⟨enc, finite⟩ := h
  have small : x % 2 ^ (f.ew + f.mw) < 2 ^ (f.ew + f.mw) := Nat.mod_lt _ (Nat.two_pow_pos _)
  refine ⟨x % 2 ^ (f.ew + f.mw), ?_, encoding_eq_signBit_add enc⟩
  rw [encoding_eq_signBit_add enc, expField_signBit_add _ small] at finite
  have top : x % 2 ^ (f.ew + f.mw) / 2 ^ f.mw < 2 ^ f.ew :=
    Nat.div_lt_of_lt_mul (by rw [Nat.mul_comm, ← two_pow_fields]; exact small)
  exact (Nat.div_lt_iff_lt_mul (Nat.two_pow_pos _)).1 (by omega)

/-! ## Numbers -/

/-- The magnitude that a finite code stands for (R139). -/
def magnitude (f : Fmt) (c : Nat) : ℚ :=
  if c / 2 ^ f.mw = 0 then (c % 2 ^ f.mw : Nat) * (2 : ℚ) ^ (f.emin - f.mw)
  else (2 ^ f.mw + (c % 2 ^ f.mw : Nat)) * (2 : ℚ) ^ (((c / 2 ^ f.mw : Nat) : Int) - f.bias - f.mw)

/-- The factor of a sign. -/
def signed (neg : Bool) : ℚ := if neg then -1 else 1

@[simp] theorem abs_signed (neg : Bool) : |signed neg| = 1 := by cases neg <;> simp [signed]

theorem encoded_signBit_add (neg : Bool) (h : c < 2 ^ (f.ew + f.mw)) : encoded f (f.signBit neg + c) = signed neg * magnitude f c := by
  rw [encoded, signField_signBit_add neg h, expField_signBit_add neg h, fracField_signBit_add, magnitude, signed]
  cases neg <;> rfl

/-- A binade `d` above the lowest and `k` units of its last place make a code: a full binade carries into the exponent field. -/
theorem magnitude_units {d k : Nat} (full : k ≤ 2 ^ (f.mw + 1)) (normal : 2 ^ f.mw ≤ k ∨ d = 0) :
    magnitude f (d * 2 ^ f.mw + k) = k * (2 : ℚ) ^ (f.emin - f.mw + d) := by
  have pos := Nat.two_pow_pos f.mw
  rw [pow_succ] at full
  rcases lt_or_ge k (2 ^ f.mw) with sub | reached
  · obtain rfl : d = 0 := by omega
    simp [magnitude, Nat.div_eq_of_lt sub, Nat.mod_eq_of_lt sub]
  · rcases full.eq_or_lt with carry | inside
    · have code : d * 2 ^ f.mw + k = (d + 2) * 2 ^ f.mw := by rw [carry]; ring
      rw [magnitude, code, Nat.mul_div_cancel _ pos, Nat.mul_mod_left, if_neg (by omega), emin_eq, carry]
      push_cast
      rw [show (d : Int) + 2 - f.bias - f.mw = 1 - f.bias - f.mw + d + 1 by ring, zpow_add_one₀ two_ne_zero]
      ring
    · have code : d * 2 ^ f.mw + k = (d + 1) * 2 ^ f.mw + (k - 2 ^ f.mw) := by
        rw [Nat.add_one_mul]; omega
      have rest : k - 2 ^ f.mw < 2 ^ f.mw := by omega
      have quotient : ((d + 1) * 2 ^ f.mw + (k - 2 ^ f.mw)) / 2 ^ f.mw = d + 1 := by
        rw [Nat.add_comm, Nat.add_mul_div_right _ _ pos, Nat.div_eq_of_lt rest, Nat.zero_add]
      have remainder : ((d + 1) * 2 ^ f.mw + (k - 2 ^ f.mw)) % 2 ^ f.mw = k - 2 ^ f.mw := by
        rw [Nat.add_comm, Nat.add_mul_mod_self_right, Nat.mod_eq_of_lt rest]
      rw [magnitude, code, quotient, remainder, if_neg d.succ_ne_zero, emin_eq, Nat.cast_sub reached]
      push_cast
      rw [show (d : Int) + 1 - f.bias - f.mw = 1 - f.bias - f.mw + d by ring]
      ring

/-- Larger codes stand for larger numbers. -/
theorem magnitude_strictMono (f : Fmt) : StrictMono (magnitude f) := by
  refine strictMono_nat_of_lt_succ fun c => ?_
  obtain ⟨d, k, code, normal, inside⟩ : ∃ d k, c = d * 2 ^ f.mw + k ∧ (2 ^ f.mw ≤ k ∨ d = 0) ∧ k < 2 ^ (f.mw + 1) := by
    rw [pow_succ]
    have rest := Nat.mod_lt c (Nat.two_pow_pos f.mw)
    have sum := Nat.div_add_mod' c (2 ^ f.mw)
    cases quotient : c / 2 ^ f.mw with
    | zero => exact ⟨0, c, by simp, .inr rfl, by rw [quotient, Nat.zero_mul] at sum; omega⟩
    | succ d => exact ⟨d, 2 ^ f.mw + c % 2 ^ f.mw, by rw [quotient, Nat.add_one_mul] at sum; omega, .inl (Nat.le_add_right _ _), by omega⟩
  rw [code, Nat.add_assoc, magnitude_units inside.le normal, magnitude_units inside (normal.imp_left Nat.le_succ_of_le)]
  gcongr
  omega

theorem magnitude_nonneg (f : Fmt) (c : Nat) : 0 ≤ magnitude f c := by
  unfold magnitude
  split <;> positivity

/-- A finite encoding is told by its sign and its number. -/
theorem finite_eq_of_encoded_eq {x y : Nat} (hx : Finite f x) (hy : Finite f y) (sign : signField f x = signField f y)
    (value : |encoded f x| = |encoded f y|) : x = y := by
  obtain ⟨c, hc, ex⟩ := exists_code_of_finite hx
  obtain ⟨d, hd, ey⟩ := exists_code_of_finite hy
  rw [ex, ey, encoded_signBit_add _ (lt_of_finiteCode hc), encoded_signBit_add _ (lt_of_finiteCode hd), abs_mul, abs_mul, abs_signed,
    abs_signed, one_mul, one_mul, abs_of_nonneg (magnitude_nonneg f c), abs_of_nonneg (magnitude_nonneg f d)] at value
  rw [ex, ey, sign, (magnitude_strictMono f).injective value]

/-- The numbers of a format: of so many bits from its first unit to its last (R139). -/
def Representable (f : Fmt) (q : ℚ) : Prop :=
  ∃ j w : Int, j.natAbs < 2 ^ (f.mw + 1) ∧ f.emin - f.mw ≤ w ∧ w ≤ f.bias - f.mw ∧ q = j * (2 : ℚ) ^ w

theorem Representable.signed {q : ℚ} (h : Representable f q) (neg : Bool) : Representable f (signed neg * q) := by
  obtain ⟨j, w, bits, low, high, rfl⟩ := h
  cases neg
  · exact ⟨j, w, bits, low, high, one_mul _⟩
  · exact ⟨-j, w, by rwa [Int.natAbs_neg], low, high, by simp [Proofs.signed]⟩

theorem representable_encoded (hf : IsFormat f) {x : Nat} (h : Finite f x) : Representable f (encoded f x) := by
  obtain ⟨c, hc, ex⟩ := exists_code_of_finite h
  rw [ex, encoded_signBit_add _ (lt_of_finiteCode hc)]
  refine Representable.signed ?_ _
  have rest := Nat.mod_lt c (Nat.two_pow_pos f.mw)
  have top : c / 2 ^ f.mw < 2 ^ f.ew - 1 := (Nat.div_lt_iff_lt_mul (Nat.two_pow_pos _)).2 hc
  have last := hf.two_pow_ew
  have order := fmt_emin_le_bias hf
  unfold magnitude
  generalize c / 2 ^ f.mw = t at top ⊢
  split
  · exact ⟨(c % 2 ^ f.mw : Nat), _, by rw [pow_succ]; omega, le_rfl, by omega, by push_cast; rfl⟩
  · exact ⟨(2 ^ f.mw + c % 2 ^ f.mw : Nat), (t : Int) - f.bias - f.mw, by rw [pow_succ]; omega, by rw [emin_eq]; omega, by omega,
      by push_cast; rfl⟩

/-- From the unit of a number on, numbers of the format are whole; the others are smaller than the binade. -/
theorem Representable.whole_or_small {q : ℚ} (h : Representable f q) {e : Int} (he : f.emin ≤ e) :
    (∃ j : Int, q = j * (2 : ℚ) ^ (e - f.mw)) ∨ (f.emin < e ∧ |q| < (2 : ℚ) ^ e) := by
  obtain ⟨j, w, bits, low, high, rfl⟩ := h
  rcases le_or_gt (e - f.mw) w with coarse | fine
  · obtain ⟨n, hn⟩ := Int.le.dest coarse
    exact .inl ⟨j * 2 ^ n, by rw [← hn, zpow_add₀ two_ne_zero, zpow_natCast]; push_cast; ring⟩
  · refine .inr ⟨by omega, ?_⟩
    have size : |(j : ℚ)| < (2 : ℚ) ^ (f.mw + 1 : Int) := by
      rw [← Int.cast_abs, Int.abs_eq_natAbs]
      exact_mod_cast bits
    calc |(j : ℚ) * (2 : ℚ) ^ w| = |(j : ℚ)| * (2 : ℚ) ^ w := by rw [abs_mul, abs_of_pos (a := (2 : ℚ) ^ w) (by positivity)]
      _ < (2 : ℚ) ^ (f.mw + 1 : Int) * (2 : ℚ) ^ w := by gcongr
      _ = (2 : ℚ) ^ (f.mw + 1 + w) := (zpow_add₀ two_ne_zero _ _).symm
      _ ≤ (2 : ℚ) ^ e := zpow_le_zpow_right₀ (by norm_num) (by omega)

theorem Representable.abs_le_largest {q : ℚ} (h : Representable f q) : |q| ≤ largest f := by
  obtain ⟨j, w, bits, low, high, rfl⟩ := h
  have size : |(j : ℚ)| ≤ 2 ^ (f.mw + 1) - 1 := by
    rw [← Int.cast_abs, Int.abs_eq_natAbs, le_sub_iff_add_le]
    exact_mod_cast bits
  calc |(j : ℚ) * (2 : ℚ) ^ w| = |(j : ℚ)| * (2 : ℚ) ^ w := by rw [abs_mul, abs_of_pos (a := (2 : ℚ) ^ w) (by positivity)]
    _ ≤ (2 ^ (f.mw + 1) - 1) * (2 : ℚ) ^ (f.bias - f.mw) := by
        gcongr
        · exact (abs_nonneg _).trans size
        · norm_num
    _ = largest f := (largest_eq f).symm

end

/-! ## The datum of an encoding (R140) -/

theorem decodeF_eq (f : Fmt) (ftz : Bool) (x : Nat) :
    decodeF f ftz x =
      if expField f x = 2 ^ f.ew - 1 then
        if fracField f x = 0 then .inf (decide (signField f x = 1)) else .nan (decide (fracField f x < 2 ^ (f.mw - 1)))
      else if expField f x = 0 then
        if ftz then .fin (decide (signField f x = 1)) 0 0 else .fin (decide (signField f x = 1)) (fracField f x) (f.emin - f.mw)
      else .fin (decide (signField f x = 1)) (2 ^ f.mw + fracField f x) ((expField f x : Int) - f.bias - f.mw) := by
  have sign : (x / 2 ^ (f.ew + f.mw) % 2 == 1) = decide (signField f x = 1) := beq_eq_decide ..
  simp only [decodeF, sign]
  rfl

/-- Under ftz a subnormal is read as a zero of its sign (R142). -/
theorem decodeF_true {f : Fmt} (hf : IsFormat f) (x : Nat) :
    decodeF f true x = if expField f x = 0 then .fin (decide (signField f x = 1)) 0 0 else decodeF f false x := by
  have last : 2 ^ f.ew - 1 ≠ 0 := by
    have := Nat.pow_le_pow_right two_pos hf.exponent
    omega
  rw [decodeF_eq, decodeF_eq]
  by_cases zero : expField f x = 0
  · rw [if_neg (zero ▸ last.symm), if_pos zero, if_pos zero, if_pos rfl]
  · simp only [if_neg zero]

/-- What the fields of a NaN, an infinity and a number are. -/
theorem decodeF_spec (f : Fmt) (x : Nat) :
    match decodeF f false x with
    | .nan s => expField f x = 2 ^ f.ew - 1 ∧ fracField f x ≠ 0 ∧ (s = true ↔ fracField f x < 2 ^ (f.mw - 1))
    | .inf n => expField f x = 2 ^ f.ew - 1 ∧ fracField f x = 0 ∧ (n = true ↔ signField f x = 1)
    | .fin n m e => expField f x ≠ 2 ^ f.ew - 1 ∧ (n = true ↔ signField f x = 1) ∧ datum (.fin n m e) = encoded f x := by
  rw [decodeF_eq]
  by_cases last : expField f x = 2 ^ f.ew - 1
  · rw [if_pos last]
    by_cases zero : fracField f x = 0
    · rw [if_pos zero]
      exact ⟨last, zero, decide_eq_true_iff⟩
    · rw [if_neg zero]
      exact ⟨last, zero, decide_eq_true_iff⟩
  · rw [if_neg last]
    by_cases subnormal : expField f x = 0
    · rw [if_pos subnormal, if_neg Bool.false_ne_true]
      refine ⟨last, decide_eq_true_iff, ?_⟩
      simp only [datum, encoded, decide_eq_true_eq, if_pos subnormal, mul_assoc]
    · rw [if_neg subnormal]
      refine ⟨last, decide_eq_true_iff, ?_⟩
      simp only [datum, encoded, decide_eq_true_eq, if_neg subnormal, mul_assoc]
      push_cast
      rfl

end Sys2Proof.Proofs
end

section
/-! Proofs for 05_numbers.md: the one rounding takes the number that its mode takes, and its flags say what it did (R142 to R144). -/

namespace Sys2Proof.Proofs

open Sys2Proof Sys2Proof.Machine Sys2Proof.Safety Sys2Proof.Laws

/-! ## Where a rounding reaches the next binade -/

/-- The magnitudes that round to an even integer `n` or beyond. -/
theorem le_natAbs_toInteger_iff (rnd : Rnd) (y : ℚ) {n : Nat} (pos : 0 < n) (even : n % 2 = 0) :
    n ≤ (toInteger rnd y).natAbs ↔
      (rnd = .rne ∧ (n : ℚ) - 1 / 2 ≤ |y|) ∨ (outward rnd y ∧ (n : ℚ) - 1 < |y|) ∨ (rnd ≠ .rne ∧ ¬ outward rnd y ∧ (n : ℚ) ≤ |y|) := by
  have floor : (n : Int) ≤ ⌊|y|⌋ ↔ (n : ℚ) ≤ |y| := by rw [Int.le_floor, Int.cast_natCast]
  have ceil : (n : Int) ≤ ⌈|y|⌉ ↔ (n : ℚ) - 1 < |y| := by rw [Int.le_ceil_iff, Int.cast_natCast]
  have truncated : toInteger .rtz |y| = ⌊|y|⌋ := if_neg (not_lt.2 (abs_nonneg y))
  rw [← Int.ofNat_le, natAbs_toInteger_abs]
  cases rnd
  case rne =>
    have mode : (if y < 0 then opposite .rne else .rne) = Rnd.rne := ite_self _
    simp only [mode, true_and, outward, reduceCtorEq, false_and, or_self, or_false, ne_eq, not_true_eq_false]
    rcases toInteger_rne_near |y| with less | ⟨half, tie⟩
    · obtain ⟨low, high⟩ := abs_lt.1 less
      refine ⟨fun le => ?_, fun le => ?_⟩
      · have : (n : ℚ) ≤ toInteger .rne |y| := by exact_mod_cast le
        linarith
      · have : (n : ℚ) < (toInteger .rne |y| : ℚ) + 1 := by linarith
        exact Int.lt_add_one_iff.1 (by exact_mod_cast this)
    · obtain ⟨low, high⟩ := abs_le.1 half.le
      refine ⟨fun le => ?_, fun le => ?_⟩
      · have : (n : ℚ) ≤ toInteger .rne |y| := by exact_mod_cast le
        linarith
      · have : (n : ℚ) ≤ (toInteger .rne |y| : ℚ) + 1 := by linarith
        have : (n : Int) ≤ toInteger .rne |y| + 1 := by exact_mod_cast this
        omega
  case rtz =>
    have mode : (if y < 0 then opposite .rtz else .rtz) = Rnd.rtz := ite_self _
    simp [mode, truncated, floor, outward]
  case rdn =>
    by_cases neg : y < 0
    · simpa [neg, outward, opposite, toInteger] using ceil
    · simpa [neg, outward, toInteger] using floor
  case rup =>
    rcases lt_trichotomy y 0 with neg | rfl | plus
    · simpa [neg, neg.not_gt, outward, opposite, toInteger] using floor
    · simp [outward, toInteger, pos.ne']
    · simpa [plus, plus.not_gt, outward, toInteger] using ceil

/-- A number in units of the last place of the binade from 2^e on. -/
def inUnits (f : Fmt) (q : ℚ) (e : Int) : ℚ := q / (2 : ℚ) ^ (e - f.mw)

section
variable {f : Fmt} {q : ℚ}

theorem inUnits_mul (f : Fmt) (q : ℚ) (e : Int) : inUnits f q e * (2 : ℚ) ^ (e - f.mw) = q :=
  div_mul_cancel₀ _ (by positivity)

theorem abs_inUnits (f : Fmt) (q : ℚ) (e : Int) : |inUnits f q e| = |q| / (2 : ℚ) ^ (e - f.mw) := by
  rw [inUnits, abs_div, abs_of_pos (a := (2 : ℚ) ^ (e - f.mw)) (by positivity)]

theorem inUnits_neg_iff {e : Int} : inUnits f q e < 0 ↔ q < 0 := by
  rw [inUnits, div_lt_iff₀ (by positivity), zero_mul]

theorem outward_inUnits {rnd : Rnd} {e : Int} : outward rnd (inUnits f q e) ↔ outward rnd q := by
  have positive : 0 < inUnits f q e ↔ 0 < q := by rw [inUnits, lt_div_iff₀ (by positivity), zero_mul]
  rw [outward, outward, inUnits_neg_iff, positive]

theorem two_zpow_units (f : Fmt) (e : Int) (n : Nat) : (2 : ℚ) ^ n * (2 : ℚ) ^ (e - f.mw) = (2 : ℚ) ^ (e - f.mw + n) := by
  rw [zpow_add₀ two_ne_zero, zpow_natCast, mul_comm]

/-- The magnitudes that round to 2^(e + 1) or beyond in units of the binade from 2^e on. -/
theorem reaches_iff (f : Fmt) (rnd : Rnd) (q : ℚ) (e : Int) :
    2 ^ (f.mw + 1) ≤ (toInteger rnd (inUnits f q e)).natAbs ↔
      (rnd = .rne ∧ (2 : ℚ) ^ (e + 1) - (2 : ℚ) ^ (e - f.mw - 1) ≤ |q|) ∨ (outward rnd q ∧ (2 : ℚ) ^ (e + 1) - (2 : ℚ) ^ (e - f.mw) < |q|)
        ∨ (rnd ≠ .rne ∧ ¬ outward rnd q ∧ (2 : ℚ) ^ (e + 1) ≤ |q|) := by
  have unit : (0 : ℚ) < (2 : ℚ) ^ (e - f.mw) := by positivity
  have top : ((2 ^ (f.mw + 1) : Nat) : ℚ) * (2 : ℚ) ^ (e - f.mw) = (2 : ℚ) ^ (e + 1) := by
    push_cast
    rw [two_zpow_units]
    congr 1
    push_cast
    ring
  have half : (2 : ℚ) ^ (e - f.mw - 1) = 1 / 2 * (2 : ℚ) ^ (e - f.mw) := by rw [zpow_sub_one₀ two_ne_zero]; ring
  rw [le_natAbs_toInteger_iff rnd _ (Nat.two_pow_pos _) (by rw [pow_succ]; exact Nat.mul_mod_left _ _), outward_inUnits, abs_inUnits,
    le_div_iff₀ unit, lt_div_iff₀ unit, le_div_iff₀ unit, sub_mul, sub_mul, top, one_mul, half]

theorem overflows_iff (f : Fmt) (rnd : Rnd) (q : ℚ) : Overflows f rnd q ↔ 2 ^ (f.mw + 1) ≤ (toInteger rnd (inUnits f q f.bias)).natAbs := by
  have tie : (2 - (2 : ℚ) ^ (-(f.mw : Int) - 1)) * (2 : ℚ) ^ f.bias = (2 : ℚ) ^ (f.bias + 1) - (2 : ℚ) ^ (f.bias - f.mw - 1) := by
    rw [sub_mul, ← zpow_add₀ two_ne_zero, zpow_add_one₀ two_ne_zero, mul_comm]
    congr 2
    ring
  have last : largest f = (2 : ℚ) ^ (f.bias + 1) - (2 : ℚ) ^ (f.bias - f.mw) := by
    rw [largest, sub_mul, ← zpow_add₀ two_ne_zero, zpow_add_one₀ two_ne_zero, mul_comm]
    congr 2
    ring
  rw [reaches_iff, Overflows, tie, last]

theorem not_tiny_iff (f : Fmt) (rnd : Rnd) (q : ℚ) : ¬ Tiny f rnd q ↔ 2 ^ (f.mw + 1) ≤ (toInteger rnd (inUnits f q (f.emin - 1))).natAbs := by
  have tie : f.emin - f.mw - 2 = f.emin - 1 - f.mw - 1 := by ring
  have unit : f.emin - f.mw - 1 = f.emin - 1 - f.mw := by ring
  rw [reaches_iff, Tiny, smallest, sub_add_cancel, tie, unit]
  cases rnd <;> simp only [outward, reduceCtorEq, true_and, false_and, or_false, false_or, or_self, ne_eq, not_true_eq_false, not_false_eq_true,
    not_lt, not_le, not_or, not_and]
  all_goals grind

/-! ## The binade of a number, before and after it is rounded -/

/-- The exponent of a number rounded with an unbounded exponent (R143). -/
def exponentAfter (f : Fmt) (rnd : Rnd) (q : ℚ) : Int :=
  if (toInteger rnd (inUnits f q (Int.log 2 |q|))).natAbs = 2 ^ (f.mw + 1) then Int.log 2 |q| + 1 else Int.log 2 |q|

theorem two_zpow_log_le (nonzero : q ≠ 0) : (2 : ℚ) ^ Int.log 2 |q| ≤ |q| := by
  exact_mod_cast Int.zpow_log_le_self (R := ℚ) (b := 2) one_lt_two (abs_pos.2 nonzero)

theorem lt_two_zpow_log (q : ℚ) : |q| < (2 : ℚ) ^ (Int.log 2 |q| + 1) := by
  exact_mod_cast Int.lt_zpow_succ_log_self (R := ℚ) (b := 2) one_lt_two |q|

/-- In units of a binade that a magnitude is not beyond, at most a full binade. -/
theorem natAbs_toInteger_inUnits_le (f : Fmt) (rnd : Rnd) {e : Int} {n : Nat} (h : |q| ≤ (2 : ℚ) ^ (e - f.mw + n)) :
    (toInteger rnd (inUnits f q e)).natAbs ≤ 2 ^ n := by
  refine natAbs_toInteger_le rnd ?_
  rw [abs_inUnits, div_le_iff₀ (by positivity)]
  push_cast
  rwa [two_zpow_units]

theorem le_natAbs_toInteger_inUnits (f : Fmt) (rnd : Rnd) {e : Int} {n : Nat} (h : (2 : ℚ) ^ (e - f.mw + n) ≤ |q|) :
    2 ^ n ≤ (toInteger rnd (inUnits f q e)).natAbs := by
  refine le_natAbs_toInteger rnd ?_
  rw [abs_inUnits, le_div_iff₀ (by positivity)]
  push_cast
  rwa [two_zpow_units]

/-- A number rounds beyond a binade where it does so in units of that binade. -/
theorem lt_exponentAfter_iff (f : Fmt) (rnd : Rnd) (nonzero : q ≠ 0) (e : Int) :
    e < exponentAfter f rnd q ↔ 2 ^ (f.mw + 1) ≤ (toInteger rnd (inUnits f q e)).natAbs := by
  have low := two_zpow_log_le nonzero
  have high := lt_two_zpow_log q
  have full : (toInteger rnd (inUnits f q (Int.log 2 |q|))).natAbs ≤ 2 ^ (f.mw + 1) :=
    natAbs_toInteger_inUnits_le f rnd (high.le.trans (zpow_le_zpow_right₀ one_le_two (by push_cast; omega)))
  unfold exponentAfter
  rcases lt_trichotomy e (Int.log 2 |q|) with less | rfl | more
  · have reached : 2 ^ (f.mw + 1) ≤ (toInteger rnd (inUnits f q e)).natAbs :=
      le_natAbs_toInteger_inUnits f rnd ((zpow_le_zpow_right₀ one_le_two (by push_cast; omega)).trans low)
    simp only [reached, iff_true]
    split <;> omega
  · split <;> omega
  · have below : (toInteger rnd (inUnits f q e)).natAbs ≤ 2 ^ f.mw :=
      natAbs_toInteger_inUnits_le f rnd (high.le.trans (zpow_le_zpow_right₀ one_le_two (by omega)))
    have double : 2 ^ (f.mw + 1) = 2 ^ f.mw + 2 ^ f.mw := by rw [pow_succ, mul_two]
    have pos := Nat.two_pow_pos f.mw
    split <;> omega

theorem overflows_iff_lt (f : Fmt) (rnd : Rnd) (nonzero : q ≠ 0) : Overflows f rnd q ↔ f.bias < exponentAfter f rnd q := by
  rw [overflows_iff, lt_exponentAfter_iff f rnd nonzero]

theorem tiny_iff_lt (f : Fmt) (rnd : Rnd) (nonzero : q ≠ 0) : Tiny f rnd q ↔ exponentAfter f rnd q < f.emin := by
  rw [← not_iff_not, not_tiny_iff, ← lt_exponentAfter_iff f rnd nonzero, Int.sub_one_lt_iff, not_lt]

/-! ## The code that a rounding writes -/

/-- The binade in whose units a number is rounded: its own, or the lowest (R139). -/
def binade (f : Fmt) (q : ℚ) : Int := max (Int.log 2 |q|) f.emin

/-- The number of units that a mode takes. -/
def unitsTaken (f : Fmt) (rnd : Rnd) (q : ℚ) : Int := toInteger rnd (inUnits f q (binade f q))

/-- The encoding of a rounded number. -/
def roundedCode (f : Fmt) (rnd : Rnd) (q : ℚ) : Nat :=
  f.signBit (decide (q < 0)) + ((binade f q - f.emin).toNat * 2 ^ f.mw + (unitsTaken f rnd q).natAbs)

theorem unitsTaken_full (f : Fmt) (rnd : Rnd) (q : ℚ) : (unitsTaken f rnd q).natAbs ≤ 2 ^ (f.mw + 1) := by
  have own : Int.log 2 |q| ≤ binade f q := le_max_left _ _
  exact natAbs_toInteger_inUnits_le f rnd ((lt_two_zpow_log q).le.trans (zpow_le_zpow_right₀ one_le_two (by push_cast; omega)))

theorem unitsTaken_normal (f : Fmt) (rnd : Rnd) (nonzero : q ≠ 0) :
    2 ^ f.mw ≤ (unitsTaken f rnd q).natAbs ∨ (binade f q - f.emin).toNat = 0 := by
  rcases le_total f.emin (Int.log 2 |q|) with normal | sub
  · refine .inl (le_natAbs_toInteger_inUnits f rnd ?_)
    rw [binade, max_eq_left normal, sub_add_cancel]
    exact two_zpow_log_le nonzero
  · exact .inr (by rw [binade, max_eq_right sub, sub_self]; rfl)

/-- Where a number below the lowest binade rounds to a full binade in its own units, it does so in the units of the lowest. -/
theorem unitsTaken_of_carry (hf : IsFormat f) {rnd : Rnd} (sub : Int.log 2 |q| = f.emin - 1)
    (carry : 2 ^ (f.mw + 1) ≤ (toInteger rnd (inUnits f q (f.emin - 1))).natAbs) :
    (unitsTaken f rnd q).natAbs = 2 ^ f.mw ∧ (unitsTaken f rnd q : ℚ) ≠ inUnits f q (binade f q) := by
  have lowest : binade f q = f.emin := by rw [binade, sub]; omega
  have below : |q| < (2 : ℚ) ^ f.emin := by simpa [sub] using lt_two_zpow_log q
  have unit : (0 : ℚ) < (2 : ℚ) ^ (f.emin - f.mw) := by positivity
  have top : ((2 ^ f.mw : Nat) : ℚ) * (2 : ℚ) ^ (f.emin - f.mw) = (2 : ℚ) ^ f.emin := by
    push_cast
    rw [two_zpow_units, sub_add_cancel]
  have upper : (unitsTaken f rnd q).natAbs ≤ 2 ^ f.mw := by
    rw [unitsTaken, lowest]
    exact natAbs_toInteger_inUnits_le f rnd (by rw [sub_add_cancel]; exact below.le)
  have lower : 2 ^ f.mw ≤ (unitsTaken f rnd q).natAbs := by
    have tie : (2 : ℚ) ^ (f.emin - 1 - f.mw - 1) ≤ 1 / 2 * (2 : ℚ) ^ (f.emin - f.mw) := by
      rw [show f.emin - 1 - f.mw - 1 = f.emin - f.mw - 2 by ring, zpow_sub₀ two_ne_zero]
      norm_num
      linarith
    have last : (2 : ℚ) ^ (f.emin - 1 - f.mw) ≤ 1 * (2 : ℚ) ^ (f.emin - f.mw) := by
      rw [one_mul]
      exact zpow_le_zpow_right₀ one_le_two (by omega)
    rw [reaches_iff, sub_add_cancel] at carry
    rw [unitsTaken, lowest, le_natAbs_toInteger_iff rnd _ (Nat.two_pow_pos _) hf.two_pow_mw_even, outward_inUnits, abs_inUnits, le_div_iff₀ unit,
      lt_div_iff₀ unit, le_div_iff₀ unit, sub_mul, sub_mul, top]
    exact carry.imp (And.imp_right fun h => by linarith) (Or.imp (And.imp_right fun h => by linarith) id)
  have taken := le_antisymm upper lower
  refine ⟨taken, fun same => ?_⟩
  have size : |inUnits f q f.emin| = ((2 ^ f.mw : Nat) : ℚ) := by
    rw [← lowest, ← same, ← taken, ← Int.cast_abs, Int.abs_eq_natAbs, Int.cast_natCast]
  rw [abs_inUnits, div_eq_iff unit.ne', top] at size
  exact below.ne size

end
end Sys2Proof.Proofs
end

section
/-! Proofs for 05_numbers.md: the rounding of an exact real, case by case, and that it is correct (R142 to R144). -/

namespace Sys2Proof.Proofs

open Sys2Proof Sys2Proof.Machine Sys2Proof.Safety Sys2Proof.Laws

/-! ## The branches of the rounding -/

section
variable {f : Fmt} {rnd : Rnd} {x : XReal}

theorem roundF_of_zero (f : Fmt) (z : Bool) (rnd : Rnd) (zneg : Bool) (hx : 0 < x.den) (zero : exactly x = 0) :
    roundF f z rnd zneg x = (f.signBit zneg, 0) := if_pos ((exactly_eq_zero_iff hx).1 zero)

/-- What `roundF` asks, in rationals. -/
theorem roundF_of_nonzero (f : Fmt) (z : Bool) (rnd : Rnd) (zneg : Bool) (hx : 0 < x.den) (nonzero : exactly x ≠ 0) :
    roundF f z rnd zneg x =
      (let q := exactly x
       let neg := decide (q < 0)
       let y := inUnits f q (Int.log 2 |q|)
       if f.bias < exponentAfter f rnd q then
         (if (match rnd with | .rne => true | .rtz => false | .rdn => neg | .rup => !neg) then f.infBits neg else f.maxBits neg, fOf ||| fNx)
       else if exponentAfter f rnd q < f.emin then
         if z then (f.signBit neg, fUf ||| fNx)
         else (f.signBit neg + (toInteger rnd (inUnits f q f.emin)).natAbs,
           if decide ((toInteger rnd (inUnits f q f.emin) : ℚ) ≠ inUnits f q f.emin) then fUf ||| fNx else 0)
       else
         (f.signBit neg + (exponentAfter f rnd q + f.bias).toNat * 2 ^ f.mw
             + ((if (toInteger rnd y).natAbs = 2 ^ (f.mw + 1) then 2 ^ f.mw else (toInteger rnd y).natAbs) - 2 ^ f.mw),
           if decide ((toInteger rnd y : ℚ) ≠ y) then fNx else 0)) := by
  have num : x.num ≠ 0 := mt (exactly_eq_zero_iff hx).2 nonzero
  simp only [roundF, if_neg num, roundUnits_eq hx, exponent_eq_log hx num, ← exactly_neg_iff hx]
  rfl

variable (z zneg : Bool)

theorem roundF_of_overflows (hx : 0 < x.den) (nonzero : exactly x ≠ 0) (big : Overflows f rnd (exactly x)) :
    roundF f z rnd zneg x =
      (if rnd = .rtz ∨ (rnd = .rdn ∧ 0 < exactly x) ∨ (rnd = .rup ∧ exactly x < 0) then f.maxBits (decide (exactly x < 0))
        else f.infBits (decide (exactly x < 0)), fOf ||| fNx) := by
  rw [roundF_of_nonzero f z rnd zneg hx nonzero]
  simp only [if_pos ((overflows_iff_lt f rnd nonzero).1 big)]
  rcases lt_or_gt_of_ne nonzero with neg | plus
  · cases rnd <;> simp [neg, neg.not_gt]
  · cases rnd <;> simp [plus, plus.not_gt]

theorem not_overflows_of_tiny (hf : IsFormat f) {q : ℚ} (nonzero : q ≠ 0) (tiny : Tiny f rnd q) : ¬ Overflows f rnd q := by
  have below := (tiny_iff_lt f rnd nonzero).1 tiny
  have := fmt_emin_le_bias hf
  rw [overflows_iff_lt f rnd nonzero]
  omega

theorem roundF_true_of_tiny (hf : IsFormat f) (hx : 0 < x.den) (nonzero : exactly x ≠ 0) (tiny : Tiny f rnd (exactly x)) :
    roundF f true rnd zneg x = (f.signBit (decide (exactly x < 0)), fUf ||| fNx) := by
  rw [roundF_of_nonzero f true rnd zneg hx nonzero]
  simp only [if_neg (mt (overflows_iff_lt f rnd nonzero).2 (not_overflows_of_tiny hf nonzero tiny)),
    if_pos ((tiny_iff_lt f rnd nonzero).1 tiny), if_true]

theorem roundF_false_of_tiny (hf : IsFormat f) (hx : 0 < x.den) (nonzero : exactly x ≠ 0) (tiny : Tiny f rnd (exactly x)) :
    roundF f false rnd zneg x = (roundedCode f rnd (exactly x),
      if (unitsTaken f rnd (exactly x) : ℚ) = inUnits f (exactly x) (binade f (exactly x)) then 0 else fUf ||| fNx) := by
  have below := (tiny_iff_lt f rnd nonzero).1 tiny
  have lowest : binade f (exactly x) = f.emin := by
    refine max_eq_right ?_
    unfold exponentAfter at below
    split at below <;> omega
  rw [roundF_of_nonzero f false rnd zneg hx nonzero]
  simp [if_neg (mt (overflows_iff_lt f rnd nonzero).2 (not_overflows_of_tiny hf nonzero tiny)), below, roundedCode, unitsTaken, lowest]

/-- What a normal result writes is the code of the units taken in the number's own binade: a carry moves on to the next exponent. -/
theorem normalCode_eq {q : ℚ} (nonzero : q ≠ 0) (own : f.emin ≤ Int.log 2 |q|) :
    (exponentAfter f rnd q + f.bias).toNat * 2 ^ f.mw
        + ((if (toInteger rnd (inUnits f q (Int.log 2 |q|))).natAbs = 2 ^ (f.mw + 1) then 2 ^ f.mw
            else (toInteger rnd (inUnits f q (Int.log 2 |q|))).natAbs) - 2 ^ f.mw)
      = (Int.log 2 |q| - f.emin).toNat * 2 ^ f.mw + (toInteger rnd (inUnits f q (Int.log 2 |q|))).natAbs := by
  have double : 2 ^ (f.mw + 1) = 2 * 2 ^ f.mw := by rw [pow_succ, mul_comm]
  have bias := emin_eq f
  have full : 2 ^ f.mw ≤ (toInteger rnd (inUnits f q (Int.log 2 |q|))).natAbs :=
    le_natAbs_toInteger_inUnits f rnd (by rw [sub_add_cancel]; exact two_zpow_log_le nonzero)
  unfold exponentAfter
  set l := Int.log 2 |q|
  obtain ⟨n, hn⟩ := Int.le.dest own
  rw [show (l - f.emin).toNat = n by omega]
  by_cases carry : (toInteger rnd (inUnits f q l)).natAbs = 2 ^ (f.mw + 1)
  · rw [if_pos carry, if_pos carry, show (l + 1 + f.bias).toNat = n + 2 by omega, carry, double, Nat.sub_self, Nat.add_mul, Nat.add_zero]
  · rw [if_neg carry, if_neg carry, show (l + f.bias).toNat = n + 1 by omega, Nat.add_mul, Nat.one_mul]
    omega

/-- A number of a binade that rounds to all of it is not exact. -/
theorem ne_inUnits_of_full {q : ℚ} (full : (toInteger rnd (inUnits f q (Int.log 2 |q|))).natAbs = 2 ^ (f.mw + 1)) :
    (toInteger rnd (inUnits f q (Int.log 2 |q|)) : ℚ) ≠ inUnits f q (Int.log 2 |q|) := fun same => by
  have size : |inUnits f q (Int.log 2 |q|)| = ((2 ^ (f.mw + 1) : Nat) : ℚ) := by
    rw [← same, ← full, ← Int.cast_abs, Int.abs_eq_natAbs, Int.cast_natCast]
  rw [abs_inUnits, div_eq_iff (by positivity)] at size
  push_cast at size
  rw [two_zpow_units, show Int.log 2 |q| - f.mw + ((f.mw + 1 : Nat) : Int) = Int.log 2 |q| + 1 by push_cast; ring] at size
  exact (lt_two_zpow_log q).ne size

/-- A number below the lowest binade that rounds into it carries. -/
theorem carry_of_sub {q : ℚ} (sub : Int.log 2 |q| < f.emin) (normal : ¬ exponentAfter f rnd q < f.emin) :
    (toInteger rnd (inUnits f q (Int.log 2 |q|))).natAbs = 2 ^ (f.mw + 1) ∧ Int.log 2 |q| = f.emin - 1 ∧ exponentAfter f rnd q = f.emin := by
  unfold exponentAfter at normal ⊢
  split at normal
  · next carry => exact ⟨carry, by omega, by rw [if_pos carry]; omega⟩
  · exact absurd sub normal

theorem roundF_of_normal (hf : IsFormat f) (hx : 0 < x.den) (nonzero : exactly x ≠ 0) (tiny : ¬ Tiny f rnd (exactly x))
    (big : ¬ Overflows f rnd (exactly x)) :
    roundF f z rnd zneg x = (roundedCode f rnd (exactly x),
      if (unitsTaken f rnd (exactly x) : ℚ) = inUnits f (exactly x) (binade f (exactly x)) then 0 else fNx) := by
  rw [overflows_iff_lt f rnd nonzero] at big
  rw [tiny_iff_lt f rnd nonzero] at tiny
  rw [roundF_of_nonzero f z rnd zneg hx nonzero]
  simp only [if_neg big, if_neg tiny]
  set q := exactly x
  rcases le_or_gt f.emin (Int.log 2 |q|) with own | sub
  · -- the number's own binade
    have binade : binade f q = Int.log 2 |q| := max_eq_left own
    rw [roundedCode, unitsTaken, binade, Nat.add_assoc, normalCode_eq nonzero own]
    simp
  · -- a number that a carry brings into the lowest binade
    obtain ⟨carry, below, after⟩ := carry_of_sub sub tiny
    obtain ⟨taken, inexact⟩ := unitsTaken_of_carry (rnd := rnd) hf below (below ▸ carry.ge)
    have lowest : binade f q = f.emin := max_eq_right sub.le
    have first : (f.emin + f.bias).toNat = 1 := by rw [emin_eq, sub_add_cancel]; rfl
    rw [if_neg inexact, decide_eq_true (ne_inUnits_of_full carry), if_pos rfl, if_pos carry, after, first, roundedCode, taken, lowest]
    simp

theorem roundF_of_not_overflows (hf : IsFormat f) (hx : 0 < x.den) (nonzero : exactly x ≠ 0) (big : ¬ Overflows f rnd (exactly x)) :
    ∃ fl : FFlags, (Tiny f rnd (exactly x) → fl = fUf ||| fNx) ∧ (¬ Tiny f rnd (exactly x) → fl = fNx) ∧
      roundF f false rnd zneg x = (roundedCode f rnd (exactly x),
        if (unitsTaken f rnd (exactly x) : ℚ) = inUnits f (exactly x) (binade f (exactly x)) then 0 else fl) := by
  by_cases tiny : Tiny f rnd (exactly x)
  · exact ⟨_, fun _ => rfl, (absurd tiny ·), roundF_false_of_tiny zneg hf hx nonzero tiny⟩
  · exact ⟨_, (absurd · tiny), fun _ => rfl, roundF_of_normal false zneg hf hx nonzero tiny big⟩

theorem roundF_true_of_not_tiny (hf : IsFormat f) (hx : 0 < x.den) (nonzero : exactly x ≠ 0) (tiny : ¬ Tiny f rnd (exactly x)) :
    roundF f true rnd zneg x = roundF f false rnd zneg x := by
  by_cases big : Overflows f rnd (exactly x)
  · rw [roundF_of_overflows true zneg hx nonzero big, roundF_of_overflows false zneg hx nonzero big]
  · rw [roundF_of_normal true zneg hf hx nonzero tiny big, roundF_of_normal false zneg hf hx nonzero tiny big]

end

/-! ## The number that is written -/

section
variable {f : Fmt} {rnd : Rnd} {q : ℚ}

/-- The code of a number that does not overflow is finite. -/
theorem roundedCode_lt (hf : IsFormat f) (nonzero : q ≠ 0) (big : ¬ Overflows f rnd q) :
    (binade f q - f.emin).toNat * 2 ^ f.mw + (unitsTaken f rnd q).natAbs < (2 ^ f.ew - 1) * 2 ^ f.mw := by
  have last : 2 ^ f.ew - 1 = (f.bias - f.emin).toNat + 2 := by
    have := hf.two_pow_ew
    have := hf.bias_pos
    have := emin_eq f
    omega
  have top : binade f q ≤ f.bias := by
    refine max_le ?_ (fmt_emin_le_bias hf)
    rw [overflows_iff_lt f rnd nonzero] at big
    unfold exponentAfter at big
    split at big <;> omega
  have full := unitsTaken_full f rnd q
  have double : 2 ^ (f.mw + 1) = 2 * 2 ^ f.mw := by rw [pow_succ, mul_comm]
  rw [last, Nat.add_mul, ← double]
  rcases top.lt_or_eq with below | same
  · have le : ((binade f q - f.emin).toNat + 1) * 2 ^ f.mw ≤ (f.bias - f.emin).toNat * 2 ^ f.mw :=
      Nat.mul_le_mul_right _ (by have := le_max_right (Int.log 2 |q|) f.emin; unfold binade at below ⊢; omega)
    have := Nat.two_pow_pos f.mw
    rw [Nat.add_one_mul] at le
    omega
  · rw [overflows_iff, not_le, ← same] at big
    rw [same] at big ⊢
    rw [unitsTaken, same]
    omega

theorem unitsTaken_eq_signed (f : Fmt) (rnd : Rnd) (q : ℚ) :
    (unitsTaken f rnd q : ℚ) = signed (decide (q < 0)) * ((unitsTaken f rnd q).natAbs : ℚ) := by
  have size : ((unitsTaken f rnd q).natAbs : ℚ) = |(unitsTaken f rnd q : ℚ)| := by rw [Nat.cast_natAbs, Int.cast_abs]
  rw [size]
  by_cases neg : q < 0
  · have : (unitsTaken f rnd q : ℚ) ≤ 0 := by exact_mod_cast toInteger_nonpos rnd (inUnits_neg_iff.2 neg).le
    rw [abs_of_nonpos this, decide_eq_true neg]
    simp [signed]
  · have : (0 : ℚ) ≤ (unitsTaken f rnd q : ℚ) := by exact_mod_cast toInteger_nonneg rnd (not_lt.1 (mt inUnits_neg_iff.1 neg))
    rw [abs_of_nonneg this, decide_eq_false neg]
    simp [signed]

theorem finite_roundedCode (hf : IsFormat f) (nonzero : q ≠ 0) (big : ¬ Overflows f rnd q) : Finite f (roundedCode f rnd q) :=
  finite_signBit_add _ (roundedCode_lt hf nonzero big)

theorem signField_roundedCode (hf : IsFormat f) (nonzero : q ≠ 0) (big : ¬ Overflows f rnd q) :
    signField f (roundedCode f rnd q) = (decide (q < 0)).toNat := signField_signBit_add _ (lt_of_finiteCode (roundedCode_lt hf nonzero big))

theorem encoded_roundedCode (hf : IsFormat f) (nonzero : q ≠ 0) (big : ¬ Overflows f rnd q) :
    encoded f (roundedCode f rnd q) = unitsTaken f rnd q * (2 : ℚ) ^ (binade f q - f.mw) := by
  have order : f.emin ≤ binade f q := le_max_right _ _
  rw [roundedCode, encoded_signBit_add _ (lt_of_finiteCode (roundedCode_lt hf nonzero big)),
    magnitude_units (unitsTaken_full f rnd q) (unitsTaken_normal f rnd nonzero), ← mul_assoc, ← unitsTaken_eq_signed]
  congr 2
  omega

theorem even_roundedCode (hf : IsFormat f) (even : unitsTaken f rnd q % 2 = 0) : roundedCode f rnd q % 2 = 0 := by
  rw [roundedCode, mod_two_signBit_add hf, Nat.add_mod, Nat.mul_mod, hf.two_pow_mw_even, Nat.mul_zero, Nat.zero_mod, Nat.zero_add]
  omega

/-- No number of the format is a better rounding: those from the binade on are whole in its units, and the first of them is better than all
below. -/
theorem prefers_roundedCode (hf : IsFormat f) (nonzero : q ≠ 0) (big : ¬ Overflows f rnd q) {b : ℚ} (hb : Representable f b) :
    Prefers rnd q (encoded f (roundedCode f rnd q)) b (roundedCode f rnd q % 2 = 0) := by
  have unit : (0 : ℚ) < (2 : ℚ) ^ (binade f q - f.mw) := by positivity
  have whole : ∀ j : Int, Prefers rnd q (encoded f (roundedCode f rnd q)) (j * (2 : ℚ) ^ (binade f q - f.mw)) (roundedCode f rnd q % 2 = 0) := by
    intro j
    have best := ((prefers_toInteger rnd (inUnits f q (binade f q)) j).scale unit).imp_even (even_roundedCode hf)
    rwa [inUnits_mul, ← unitsTaken, ← encoded_roundedCode hf nonzero big] at best
  rcases hb.whole_or_small (le_max_right (Int.log 2 |q|) f.emin) with ⟨j, rfl⟩ | ⟨above, small⟩
  · exact whole j
  · have own : binade f q = Int.log 2 |q| := max_eq_left (by omega)
    change f.emin < binade f q at above
    change |b| < (2 : ℚ) ^ binade f q at small
    have first : (2 : ℚ) ^ binade f q ≤ |q| := own ▸ two_zpow_log_le nonzero
    have power : ((2 ^ f.mw : Int) : ℚ) * (2 : ℚ) ^ (binade f q - f.mw) = (2 : ℚ) ^ binade f q := by
      push_cast
      rw [two_zpow_units, sub_add_cancel]
    have pos : (0 : ℚ) < (2 : ℚ) ^ binade f q := by positivity
    rcases lt_or_gt_of_ne nonzero with neg | plus
    · have best := whole (-2 ^ f.mw)
      rw [Int.cast_neg, neg_mul, power] at best
      rw [abs_of_neg neg] at first
      exact best.of_inner (.inr ⟨by linarith, by linarith⟩) (by rwa [abs_neg, abs_of_pos pos])
    · have best := whole (2 ^ f.mw)
      rw [power] at best
      rw [abs_of_pos plus] at first
      exact best.of_inner (.inl ⟨pos.le, first⟩) (by rwa [abs_of_pos pos])

theorem rounded_roundedCode (hf : IsFormat f) (nonzero : q ≠ 0) (big : ¬ Overflows f rnd q) : Rounded f rnd q (roundedCode f rnd q) := by
  refine ⟨finite_roundedCode hf nonzero big, ?_, fun y finite => ?_⟩
  · rw [signField_roundedCode hf nonzero big]
    by_cases neg : q < 0 <;> simp [neg]
  · have best := prefers_roundedCode hf nonzero big (representable_encoded hf finite)
    cases rnd <;> exact best

theorem encoded_roundedCode_eq_iff (hf : IsFormat f) (nonzero : q ≠ 0) (big : ¬ Overflows f rnd q) :
    encoded f (roundedCode f rnd q) = q ↔ (unitsTaken f rnd q : ℚ) = inUnits f q (binade f q) := by
  rw [encoded_roundedCode hf nonzero big, inUnits, eq_div_iff (by positivity)]

end

/-- Settles O13: the fields tell what an encoding stands for, and the rounded number is the one that the mode takes in units of the binade. -/
theorem roundingIsCorrect : Obligations.RoundingIsCorrect := by
  intro f member b rnd zneg z x
  have hf := isFormat_of_mem member
  refine ⟨fun _ => ⟨decodeF_true hf b, decodeF_spec f b⟩, fun hx => ⟨roundF_of_zero f z rnd zneg hx, roundF_of_overflows z zneg hx,
    fun nonzero big => ?_, fun nonzero => ⟨roundF_true_of_tiny zneg hf hx nonzero, roundF_true_of_not_tiny zneg hf hx nonzero⟩⟩⟩
  obtain ⟨fl, isTiny, isNormal, result⟩ := roundF_of_not_overflows zneg hf hx nonzero big
  have same := encoded_roundedCode_eq_iff hf nonzero big
  rw [result]
  exact ⟨rounded_roundedCode hf nonzero big, fun whole => if_pos (same.1 whole),
    fun inexact tiny => (if_neg (mt same.2 inexact)).trans (isTiny tiny),
    fun inexact normal => (if_neg (mt same.2 inexact)).trans (isNormal normal)⟩

end Sys2Proof.Proofs
end

section
/-! Proofs for 05_numbers.md: a number of the format is its own rounding, and what is encoded as it was decoded (R139, R140). -/

namespace Sys2Proof.Proofs

open Sys2Proof Sys2Proof.Machine Sys2Proof.Safety Sys2Proof.Laws

section
variable {f : Fmt} {rnd : Rnd} {q : ℚ}

/-! ## Numbers of the format -/

theorem not_overflows_of_representable (h : Representable f q) : ¬ Overflows f rnd q := by
  have pos := Nat.two_pow_pos (f.mw + 1)
  have last : |inUnits f q f.bias| ≤ ((2 ^ (f.mw + 1) - 1 : Nat) : ℚ) := by
    rw [abs_inUnits, div_le_iff₀ (by positivity), Nat.cast_sub pos]
    push_cast
    exact largest_eq f ▸ h.abs_le_largest
  have := natAbs_toInteger_le rnd last
  rw [overflows_iff]
  omega

/-- A number of the format is whole in the units of its binade. -/
theorem Representable.inUnits_whole (h : Representable f q) (nonzero : q ≠ 0) : ∃ j : Int, inUnits f q (binade f q) = j := by
  rcases h.whole_or_small (le_max_right (Int.log 2 |q|) f.emin) with ⟨j, hj⟩ | ⟨above, small⟩
  · exact ⟨j, (div_eq_iff (by positivity)).2 hj⟩
  · rw [max_eq_left (by omega)] at small
    exact absurd (two_zpow_log_le nonzero) (not_le.2 small)

theorem unitsTaken_of_representable (h : Representable f q) (nonzero : q ≠ 0) : (unitsTaken f rnd q : ℚ) = inUnits f q (binade f q) := by
  obtain ⟨j, hj⟩ := h.inUnits_whole nonzero
  rw [unitsTaken, hj, toInteger_intCast]

theorem zero_lt_finiteCodes (hf : IsFormat f) : 0 < (2 ^ f.ew - 1) * 2 ^ f.mw := by
  have exponent := Nat.pow_le_pow_right two_pos hf.exponent
  exact Nat.mul_pos (by omega) (Nat.two_pow_pos _)

theorem finite_signBit (hf : IsFormat f) (neg : Bool) : Finite f (f.signBit neg) := finite_signBit_add neg (zero_lt_finiteCodes hf)

theorem signField_signBit (f : Fmt) (neg : Bool) : signField f (f.signBit neg) = neg.toNat := signField_signBit_add (c := 0) neg (Nat.two_pow_pos _)

theorem encoded_signBit (f : Fmt) (neg : Bool) : encoded f (f.signBit neg) = 0 := by
  have h := encoded_signBit_add (f := f) (c := 0) neg (Nat.two_pow_pos _)
  rw [Nat.add_zero] at h
  simp [h, magnitude]

/-- A number of the format is rounded to itself, without a flag. -/
theorem roundF_of_representable (hf : IsFormat f) (rnd : Rnd) (zneg : Bool) {x : XReal} (hx : 0 < x.den) (h : Representable f (exactly x)) :
    let r := roundF f false rnd zneg x
    r.2 = 0 ∧ Finite f r.1 ∧ encoded f r.1 = exactly x ∧ signField f r.1 = (if exactly x = 0 then zneg else decide (exactly x < 0)).toNat := by
  by_cases zero : exactly x = 0
  · rw [roundF_of_zero f false rnd zneg hx zero, if_pos zero]
    exact ⟨rfl, finite_signBit hf zneg, (encoded_signBit f zneg).trans zero.symm, signField_signBit f zneg⟩
  · have big := not_overflows_of_representable (rnd := rnd) h
    have same := unitsTaken_of_representable (rnd := rnd) h zero
    obtain ⟨fl, -, -, result⟩ := roundF_of_not_overflows zneg hf hx zero big
    rw [result, if_pos same, if_neg zero]
    exact ⟨rfl, finite_roundedCode hf zero big, (encoded_roundedCode_eq_iff hf zero big).2 same, signField_roundedCode hf zero big⟩

/-! ## Decoded and encoded again -/

/-- A finite encoding is of a number of its sign. -/
theorem decodeF_of_finite {x : Nat} (finite : expField f x ≠ 2 ^ f.ew - 1) :
    ∃ m e, decodeF f false x = .fin (decide (signField f x = 1)) m e ∧ datum (.fin (decide (signField f x = 1)) m e) = encoded f x := by
  have spec := decodeF_spec f x
  cases value : decodeF f false x with
  | nan => rw [value] at spec; exact absurd spec.1 finite
  | inf => rw [value] at spec; exact absurd spec.1 finite
  | fin neg m e =>
    rw [value] at spec
    obtain ⟨-, sign, number⟩ := spec
    obtain rfl : neg = decide (signField f x = 1) := by rw [Bool.eq_iff_iff, sign, decide_eq_true_iff]
    exact ⟨m, e, rfl, number⟩

theorem datum_nonpos (m : Nat) (e : Int) : datum (.fin true m e) ≤ 0 := by
  have : (0 : ℚ) ≤ m * (2 : ℚ) ^ e := by positivity
  simp [datum, this]

theorem datum_nonneg (m : Nat) (e : Int) : 0 ≤ datum (.fin false m e) := by
  have : (0 : ℚ) ≤ m * (2 : ℚ) ^ e := by positivity
  simp [datum, this]

/-- A number other than zero has the sign of its datum. -/
theorem datum_neg_iff {a : Bool} {m : Nat} {e : Int} (nonzero : datum (.fin a m e) ≠ 0) : datum (.fin a m e) < 0 ↔ a = true := by
  cases a
  · simpa using datum_nonneg m e
  · simpa using lt_of_le_of_ne (datum_nonpos m e) nonzero

theorem datum_eq_zero_iff (a : Bool) (m : Nat) (e : Int) : datum (.fin a m e) = 0 ↔ m = 0 := by
  cases a <;> simp [datum, zpow_ne_zero]

/-- The rounding of a number of the format keeps the sign of its datum, zero's too. -/
theorem signField_roundF_finReal (hf : IsFormat f) (rnd : Rnd) {a : Bool} {m : Nat} {e : Int} (h : Representable f (datum (.fin a m e))) :
    signField f (roundF f false rnd a (finReal a m e)).1 = a.toNat := by
  have result := (roundF_of_representable hf rnd a (x := finReal a m e) Nat.one_pos (by rwa [exactly_finReal])).2.2.2
  rw [result, exactly_finReal]
  split
  · rfl
  · next nonzero =>
    rw [show decide (datum (.fin a m e) < 0) = a by rw [Bool.eq_iff_iff, decide_eq_true_iff, datum_neg_iff nonzero]]

/-- What a finite encoding is decoded to is encoded as it was. -/
theorem encodeF_decodeF (hf : IsFormat f) {x : Nat} (hx : Finite f x) : encodeF f (decodeF f false x) = x := by
  obtain ⟨m, e, value, number⟩ := decodeF_of_finite hx.2
  have own : Representable f (datum (.fin (decide (signField f x = 1)) m e)) := number ▸ representable_encoded hf hx
  obtain ⟨-, finite, same, -⟩ := roundF_of_representable hf .rtz (decide (signField f x = 1))
    (x := finReal (decide (signField f x = 1)) m e) Nat.one_pos (by rwa [exactly_finReal])
  have sign := signField_roundF_finReal hf .rtz own
  rw [exactly_finReal, number] at same
  rw [value]
  refine finite_eq_of_encoded_eq finite hx (sign.trans ?_) (congrArg abs same)
  rcases signField_eq_zero_or_one f x with zero | one
  · rw [zero]; rfl
  · rw [one]; rfl

/-! ## VFRND -/

/-- The integer that a mode takes for a number of the format is one itself: large numbers are whole, and small integers all are in it. -/
theorem representable_toInteger (hf : IsFormat f) (rnd : Rnd) (h : Representable f q) : Representable f (toInteger rnd q) := by
  obtain ⟨j, w, bits, low, high, rfl⟩ := h
  rcases le_or_gt 0 w with whole | fine
  · obtain ⟨n, rfl⟩ := Int.eq_ofNat_of_zero_le whole
    have integer : (j : ℚ) * (2 : ℚ) ^ (n : Int) = ((j * 2 ^ n : Int) : ℚ) := by push_cast; rw [zpow_natCast]
    refine ⟨j, n, bits, low, high, ?_⟩
    rw [integer, toInteger_intCast]
  · have size : |(j : ℚ) * (2 : ℚ) ^ w| ≤ ((2 ^ f.mw : Nat) : ℚ) := by
      have bound : |(j : ℚ)| ≤ (2 : ℚ) ^ (f.mw + 1) := by
        rw [← Int.cast_abs, Int.abs_eq_natAbs]
        exact_mod_cast bits.le
      have half : (2 : ℚ) ^ w ≤ (2 : ℚ) ^ (-1 : Int) := zpow_le_zpow_right₀ one_le_two (by omega)
      rw [abs_mul, abs_of_pos (a := (2 : ℚ) ^ w) (by positivity)]
      calc |(j : ℚ)| * (2 : ℚ) ^ w ≤ (2 : ℚ) ^ (f.mw + 1) * (2 : ℚ) ^ (-1 : Int) := by gcongr
        _ = ((2 ^ f.mw : Nat) : ℚ) := by rw [pow_succ, zpow_neg_one]; push_cast; ring
    have small := natAbs_toInteger_le rnd size
    have pos := Nat.two_pow_pos f.mw
    have integers := hf.integers
    have bias := emin_eq f
    have fraction := hf.fraction
    exact ⟨toInteger rnd (j * (2 : ℚ) ^ w), 0, by rw [pow_succ]; omega, by omega, by omega, by rw [zpow_zero, mul_one]⟩

theorem fRound_spec (hf : IsFormat f) (rnd : Rnd) {i : Nat} (hi : Finite f i) :
    let r := fRound f rnd (decodeF f false i)
    r.2 = 0 ∧ encoded f r.1 = toInteger rnd (encoded f i) ∧ signField f r.1 = signField f i := by
  obtain ⟨m, e, value, number⟩ := decodeF_of_finite hi.2
  set neg := decide (signField f i = 1) with hneg
  have taken : (roundUnits rnd (finReal neg m e) 0).1 = (toInteger rnd (encoded f i)).natAbs := by
    rw [roundUnits_eq (x := finReal neg m e) Nat.one_pos, zpow_zero, div_one, exactly_finReal, number]
  have integer : (if neg then -((toInteger rnd (encoded f i)).natAbs : Int) else (toInteger rnd (encoded f i)).natAbs)
      = toInteger rnd (encoded f i) := by
    cases sign : neg
    · have := toInteger_nonneg rnd (number ▸ sign ▸ datum_nonneg m e)
      rw [if_neg Bool.false_ne_true]
      omega
    · have := toInteger_nonpos rnd (number ▸ sign ▸ datum_nonpos m e)
      rw [if_pos rfl]
      omega
  have integral : exactly ⟨toInteger rnd (encoded f i), 1, 0⟩ = toInteger rnd (encoded f i) := by simp [exactly]
  obtain ⟨-, -, same, sign⟩ := roundF_of_representable hf .rtz neg (x := ⟨toInteger rnd (encoded f i), 1, 0⟩) Nat.one_pos
    (integral ▸ representable_toInteger hf rnd (representable_encoded hf hi))
  rw [value]
  simp only [fRound, taken, integer]
  refine ⟨trivial, same.trans integral, sign.trans ?_⟩
  have own : neg.toNat = signField f i := by
    rcases signField_eq_zero_or_one f i with zero | one
    · rw [hneg, zero]; rfl
    · rw [hneg, one]; rfl
  rw [integral, ← own]
  congr 1
  split
  · rfl
  · next nonzero =>
    rw [Bool.eq_iff_iff, decide_eq_true_iff]
    cases sign : neg
    · simpa using toInteger_nonneg rnd (number ▸ sign ▸ datum_nonneg m e)
    · simpa using lt_of_le_of_ne (by exact_mod_cast toInteger_nonpos rnd (number ▸ sign ▸ datum_nonpos m e)) nonzero

end
end Sys2Proof.Proofs
end

section
/-! Proofs for 05_numbers.md: sums, products, quotients, compares, minimum and maximum of floats (R141, R143, R173, R180). -/

namespace Sys2Proof.Proofs

open Sys2Proof Sys2Proof.Machine Sys2Proof.Safety Sys2Proof.Laws

section
variable (f : Fmt) (z : Bool) (rnd : Rnd) (a b c : Bool) (m n k : Nat) (e d g : Int) (u v w : FVal)

/-! ## Results of finite numbers -/

theorem roundF_roundsTo {zneg : Bool} {q : ℚ} {x : XReal} (hx : 0 < x.den) (value : exactly x = q) :
    RoundsTo f z rnd zneg q (roundF f z rnd zneg x) := ⟨x, hx, value, rfl⟩

/-- The sign of an exact zero sum, as the model asks for it. -/
theorem sumSign_eq : sumSign rnd m n a b = if m = 0 ∧ n = 0 then zeroSign rnd a b else rnd == .rdn := by
  have mode : (rnd == .rdn) = decide (rnd = .rdn) := beq_eq_decide ..
  rw [sumSign, mode, zeroSign, mode]
  by_cases zeros : m = 0 ∧ n = 0
  · simp [zeros]
  · rw [if_neg zeros, if_neg fun h => zeros ⟨h.1, h.2.1⟩]

theorem fAdd_roundsTo : RoundsTo f z rnd (sumSign rnd m n a b) (datum (.fin a m e) + datum (.fin b n d))
    (fAdd f z rnd (.fin a m e) (.fin b n d)) := by
  rw [fAdd, ← sumSign_eq]
  exact roundF_roundsTo f z rnd (den_add Nat.one_pos Nat.one_pos) (by rw [exactly_add Nat.one_pos Nat.one_pos, exactly_finReal, exactly_finReal])

theorem fMul_roundsTo : RoundsTo f z rnd (a != b) (datum (.fin a m e) * datum (.fin b n d)) (fMul f z rnd (.fin a m e) (.fin b n d)) :=
  roundF_roundsTo f z rnd (den_mul Nat.one_pos Nat.one_pos) (by rw [exactly_mul, exactly_finReal, exactly_finReal])

theorem fFma_roundsTo : RoundsTo f z rnd (sumSign rnd (m * n) k (a != b) c) (datum (.fin a m e) * datum (.fin b n d) + datum (.fin c k g))
    (fFma f z rnd (.fin a m e) (.fin b n d) (.fin c k g)) := by
  rw [sumSign_eq]
  refine roundF_roundsTo f z rnd (den_add (den_mul Nat.one_pos Nat.one_pos) Nat.one_pos) ?_
  rw [exactly_add (den_mul Nat.one_pos Nat.one_pos) Nat.one_pos, exactly_mul, exactly_finReal, exactly_finReal, exactly_finReal]

theorem num_finReal_ne_zero {m : Nat} (nonzero : m ≠ 0) : (finReal a m e).num ≠ 0 := by cases a <;> simpa [finReal] using nonzero

theorem exactly_finReal_div {n : Nat} (nonzero : n ≠ 0) :
    exactly ((finReal a m e).div (finReal b n d)) = datum (.fin a m e) / datum (.fin b n d) := by
  rw [exactly_div Nat.one_pos Nat.one_pos (num_finReal_ne_zero b d nonzero), exactly_finReal, exactly_finReal]

theorem fDiv_roundsTo (nonzero : n ≠ 0) :
    RoundsTo f z rnd (a != b) (datum (.fin a m e) / datum (.fin b n d)) (fDiv f z rnd (.fin a m e) (.fin b n d)) := by
  rw [fDiv, if_neg nonzero]
  exact roundF_roundsTo f z rnd (den_div Nat.one_pos (num_finReal_ne_zero b d nonzero)) (exactly_finReal_div a b m e d nonzero)

/-! ## Infinities and NaNs (R141, R180) -/

theorem fAdd_inf_inf : fAdd f z rnd (.inf a) (.inf b) = if a = b then (f.infBits a, 0) else (f.nan, fNv) := by cases a <;> cases b <;> rfl

theorem fFma_inf_zero (zero : n = 0) :
    fFma f z rnd (.inf a) (.fin b n d) w = (f.nan, fNv) ∧ fFma f z rnd (.fin b n d) (.inf a) w = (f.nan, fNv) := by
  subst zero
  exact ⟨rfl, rfl⟩

theorem fFma_inf (number : isNan w = false) : fFma f z rnd (.inf a) (.inf b) w = fAdd f z rnd (.inf (a != b)) w
    ∧ (n ≠ 0 → fFma f z rnd (.inf a) (.fin b n d) w = fAdd f z rnd (.inf (a != b)) w
      ∧ fFma f z rnd (.fin b n d) (.inf a) w = fAdd f z rnd (.inf (b != a)) w) := by
  cases w
  case nan => cases number
  all_goals
    refine ⟨rfl, fun nonzero => ?_⟩
    obtain ⟨k, rfl⟩ := Nat.exists_eq_succ_of_ne_zero nonzero
    exact ⟨rfl, rfl⟩

theorem nanOf_pair : nanOf f [u, v] = (f.nan, if isSig u || isSig v then fNv else 0) := by simp [nanOf]

/-- A NaN operand makes the canonical NaN of every operation of two. -/
theorem nan_of_operand (nan : isNan u = true ∨ isNan v = true) :
    fAdd f z rnd u v = nanOf f [u, v] ∧ fMul f z rnd u v = nanOf f [u, v] ∧ fDiv f z rnd u v = nanOf f [u, v] := by
  cases u
  case nan => exact ⟨rfl, rfl, rfl⟩
  all_goals
    cases v
    case nan => exact ⟨rfl, rfl, rfl⟩
    all_goals simp [isNan] at nan

theorem fFma_nan (nan : isNan w = true) :
    fFma f z rnd (.fin a m e) (.fin b n d) w = (f.nan, if isSig w then fNv else 0)
      ∧ fFma f z rnd w (.fin a m e) (.fin b n d) = (f.nan, if isSig w then fNv else 0)
      ∧ fFma f z rnd (.fin a m e) w (.fin b n d) = (f.nan, if isSig w then fNv else 0) := by
  cases w
  case nan s => cases s <;> exact ⟨rfl, rfl, rfl⟩
  all_goals cases nan

/-! ## Compares, minimum and maximum (R173, R180) -/

theorem fLt_fin : fLt (.fin a m e) (.fin b n d) = decide (datum (.fin a m e) < datum (.fin b n d)) := by
  rw [fLt, lt_iff_exactly_lt Nat.one_pos Nat.one_pos, exactly_finReal, exactly_finReal]

theorem fCmp_fin :
    ∀ p ∈ [(FCond.eq, decide (datum (.fin a m e) = datum (.fin b n d))), (.ne, decide (datum (.fin a m e) ≠ datum (.fin b n d))),
        (.lt, decide (datum (.fin a m e) < datum (.fin b n d))), (.le, decide (datum (.fin a m e) ≤ datum (.fin b n d))),
        (.gt, decide (datum (.fin b n d) < datum (.fin a m e))), (.ge, decide (datum (.fin b n d) ≤ datum (.fin a m e))), (.unord, false)],
      fCmp p.1 (.fin a m e) (.fin b n d) = (p.2, 0) := by
  have equal : fEq (.fin a m e) (.fin b n d) = decide (datum (.fin a m e) = datum (.fin b n d)) := by
    simp only [fEq, isNan, fLt_fin, Bool.not_false, Bool.true_and, ← decide_not, not_lt, ← Bool.decide_and]
    rw [decide_eq_decide, and_comm]
    exact le_antisymm_iff.symm
  simp only [List.forall_mem_cons, List.not_mem_nil, IsEmpty.forall_iff, implies_true, fCmp, isNan, isSig, Bool.or_false, Bool.false_or,
    Bool.not_false, Bool.true_and, if_neg Bool.false_ne_true, equal, fLt_fin, ← decide_not, not_lt, ne_eq, and_self]

theorem fLt_of_nan (nan : isNan u = true ∨ isNan v = true) : fLt u v = false ∧ fLt v u = false := by
  cases u
  case nan => cases v <;> exact ⟨rfl, rfl⟩
  all_goals
    cases v
    case nan => exact ⟨rfl, rfl⟩
    all_goals simp [isNan] at nan

theorem fCmp_nan (nan : isNan u = true ∨ isNan v = true) :
    (∀ p ∈ [(FCond.eq, false), (.ne, true), (.unord, true)], fCmp p.1 u v = (p.2, if isSig u || isSig v then fNv else 0))
      ∧ ∀ p ∈ [FCond.lt, .le, .gt, .ge], fCmp p u v = (false, fNv) := by
  have unordered : (isNan u || isNan v) = true := by rwa [Bool.or_eq_true]
  have unequal : fEq u v = false := by rcases nan with h | h <;> simp [fEq, h]
  obtain ⟨lt, gt⟩ := fLt_of_nan u v nan
  simp [fCmp, unordered, unequal, lt, gt]

/-- Below in the order of minimum and maximum is below as numbers, or −0 below +0. -/
theorem fBelow_of_lt (less : datum (.fin a m e) < datum (.fin b n d)) :
    fBelow (.fin a m e) (.fin b n d) = true ∧ fBelow (.fin b n d) (.fin a m e) = false := by
  unfold fBelow
  refine ⟨by rw [fLt_fin, decide_eq_true less, Bool.true_or], ?_⟩
  rw [fLt_fin, decide_eq_false less.not_gt, Bool.false_or]
  split
  · next hx hy =>
    rw [hx, hy] at less
    simp [datum] at less
  · rfl

theorem fMinMax_of_lt (less : datum (.fin a m e) < datum (.fin b n d)) :
    fMinMax f true (.fin a m e) (.fin b n d) = (encodeF f (.fin a m e), 0) ∧ fMinMax f false (.fin a m e) (.fin b n d) = (encodeF f (.fin b n d), 0)
      ∧ fMinMax f true (.fin b n d) (.fin a m e) = (encodeF f (.fin a m e), 0)
      ∧ fMinMax f false (.fin b n d) (.fin a m e) = (encodeF f (.fin b n d), 0) := by
  obtain ⟨below, above⟩ := fBelow_of_lt a b m n e d less
  simp [fMinMax, isSig, isNan, below, above]

theorem fMinMax_zeros :
    fMinMax f true (.fin true 0 e) (.fin false 0 d) = (encodeF f (.fin true 0 e), 0)
      ∧ fMinMax f false (.fin true 0 e) (.fin false 0 d) = (encodeF f (.fin false 0 d), 0)
      ∧ fMinMax f true (.fin false 0 d) (.fin true 0 e) = (encodeF f (.fin true 0 e), 0) := by
  have below : fBelow (.fin true 0 e) (.fin false 0 d) = true := by simp [fBelow]
  have above : fBelow (.fin false 0 d) (.fin true 0 e) = false := by simp [fBelow, fLt_fin, datum]
  simp [fMinMax, isSig, isNan, below, above]

theorem fMinMax_nan (s : Bool) :
    fMinMax f s (.nan false) (.fin a m e) = (encodeF f (.fin a m e), 0) ∧ fMinMax f s (.fin a m e) (.nan false) = (encodeF f (.fin a m e), 0)
      ∧ fMinMax f s (.nan false) (.nan false) = (f.nan, 0) ∧ fMinMax f s (.nan true) v = (f.nan, fNv)
      ∧ fMinMax f s v (.nan true) = (f.nan, fNv) :=
  ⟨rfl, rfl, rfl, rfl, by simp [fMinMax, isSig]⟩

end

/-- Settles O14: finite operands are exact reals that are rounded once, and the special values are the cases of the definitions. -/
theorem floatOperationsRoundExactResults : Obligations.FloatOperationsRoundExactResults := by
  intro f z rnd a b c m n k e d g u v w x y t invalid
  have nans := fun h => nanOf_pair f u v ▸ nan_of_operand f z rnd u v h
  exact ⟨fAdd_roundsTo f z rnd a b m n e d, fMul_roundsTo f z rnd a b m n e d, fFma_roundsTo f z rnd a b c m n k e d g,
    fDiv_roundsTo f z rnd a b m n e d, fun zero => if_pos zero, fAdd_inf_inf f z rnd a b, rfl, rfl, rfl, rfl, rfl, rfl, rfl, rfl,
    fFma_inf_zero f z rnd a b n d w, fFma_inf f z rnd a b n d w, rfl, nans, fFma_nan f z rnd a b m n e d w, fCmp_fin a b m n e d, fCmp_nan u v,
    fMinMax_of_lt f a b m n e d, fMinMax_zeros f e d, fMinMax_nan f a m e v,
    fun member i hi => ⟨encodeF_decodeF (isFormat_of_mem member) hi, fRound_spec (isFormat_of_mem member) rnd hi⟩⟩

end Sys2Proof.Proofs
end

section
/-! Proofs for 05_numbers.md: lanes packed into a vector and merged into it (R162, R164), and the accumulators (R157, R216, R228, R238). -/

namespace Sys2Proof.Proofs

open Sys2Proof Sys2Proof.Machine Sys2Proof.Safety Sys2Proof.Laws

/-! ## Lanes -/

/-- Fields of width `w` side by side, the first the lowest. -/
def packed (w : Nat) (l : List Nat) : Nat := l.foldr (fun a x => a + 2 ^ w * x) 0

theorem packed_map {α : Type} (w : Nat) (g : α → Nat) (l : List α) : l.foldr (fun r x => g r + 2 ^ w * x) 0 = packed w (l.map g) := by
  rw [packed, List.foldr_map]

theorem packed_lt {w : Nat} {l : List Nat} (h : ∀ a ∈ l, a < 2 ^ w) : packed w l < 2 ^ (w * l.length) := by
  induction l with
  | nil => exact Nat.one_pos
  | cons a t ih =>
    have head := h a List.mem_cons_self
    have tail : packed w t + 1 ≤ 2 ^ (w * t.length) := ih fun b hb => h b (List.mem_cons_of_mem a hb)
    calc a + 2 ^ w * packed w t < 2 ^ w * (packed w t + 1) := by rw [Nat.mul_succ]; omega
      _ ≤ 2 ^ w * 2 ^ (w * t.length) := Nat.mul_le_mul_left _ tail
      _ = 2 ^ (w * (a :: t).length) := by rw [← pow_add, List.length_cons, Nat.mul_succ, Nat.add_comm]

theorem laneN_packed {w : Nat} {l : List Nat} (h : ∀ a ∈ l, a < 2 ^ w) (i : Nat) : laneN (packed w l) i w = l.getD i 0 := by
  induction l generalizing i with
  | nil => simp [laneN, packed]
  | cons a t ih =>
    have head := h a List.mem_cons_self
    have pos := Nat.two_pow_pos w
    rw [laneN, Nat.shiftRight_eq_div_pow, show packed w (a :: t) = a + 2 ^ w * packed w t from rfl]
    cases i with
    | zero => rw [Nat.zero_mul, pow_zero, Nat.div_one, Nat.add_mul_mod_self_left, Nat.mod_eq_of_lt head, List.getD_cons_zero]
    | succ i =>
      rw [List.getD_cons_succ, ← ih (fun b hb => h b (List.mem_cons_of_mem a hb)) i, laneN, Nat.shiftRight_eq_div_pow, Nat.succ_mul,
        Nat.add_comm (i * w), pow_add, ← Nat.div_div_eq_div_mul, Nat.add_mul_div_left _ _ pos, Nat.div_eq_of_lt head, Nat.zero_add]

theorem laneN_ofNat_packed {w n : Nat} {l : List Nat} (h : ∀ a ∈ l, a < 2 ^ w) (fits : w * l.length ≤ n) (i : Nat) :
    laneN (BitVec.ofNat n (packed w l)).toNat i w = l.getD i 0 := by
  rw [BitVec.toNat_ofNat, Nat.mod_eq_of_lt ((packed_lt h).trans_le (Nat.pow_le_pow_right two_pos fits)), laneN_packed h]

theorem fromLanes_eq_packed (w : Nat) (f : Nat → Nat) (i n : Nat) : fromLanes w f i n = packed w ((List.range' i n).map fun j => f j % 2 ^ w) := by
  induction n generalizing i with
  | zero => rfl
  | succ n ih => rw [fromLanes, ih, List.range'_succ]; rfl

theorem laneN_laneVec {w n i : Nat} (f : Nat → Nat) (fits : w * n ≤ 2048) (hi : i < n) : laneN (laneVec w n f).toNat i w = f i % 2 ^ w := by
  have small : ∀ a ∈ (List.range' 0 n).map fun j => f j % 2 ^ w, a < 2 ^ w := by
    simp only [List.mem_map]
    rintro _ ⟨j, -, rfl⟩
    exact Nat.mod_lt _ (Nat.two_pow_pos w)
  rw [laneVec, fromLanes_eq_packed, laneN_ofNat_packed small (by simpa using fits)]
  simp [hi]

/-- The bits of a lane are bits of the vector. -/
theorem testBit_laneN (x : VWord) (i w j : Nat) : (laneN x.toNat i w).testBit j = (decide (j < w) && x.getLsbD (i * w + j)) := by
  rw [laneN, Nat.testBit_mod_two_pow, Nat.testBit_shiftRight, BitVec.testBit_toNat]

/-- What a masked write leaves of a vector: the lanes whose mask is all ones are written (R164). -/
theorem laneN_merge_of_ones {old val mask : VWord} {i w : Nat} (ones : laneN mask.toNat i w = 2 ^ w - 1) :
    laneN ((old &&& ~~~mask) ||| (val &&& mask)).toNat i w = laneN val.toNat i w := by
  refine Nat.eq_of_testBit_eq fun j => ?_
  have bit := testBit_laneN mask i w j
  rw [ones, Nat.testBit_two_pow_sub_one] at bit
  by_cases hj : j < w
  · have set : mask.getLsbD (i * w + j) = true := by simpa [hj] using bit.symm
    simp only [testBit_laneN, BitVec.getLsbD_or, BitVec.getLsbD_and, BitVec.getLsbD_not, set, Bool.not_true, Bool.and_false,
      Bool.and_true, Bool.false_or]
  · simp only [testBit_laneN, hj, decide_false, Bool.false_and]

/-- The lanes whose mask is zero keep what they hold. -/
theorem laneN_merge_of_zero {old val mask : VWord} {i w : Nat} (fits : i * w + w ≤ 2048) (zero : laneN mask.toNat i w = 0) :
    laneN ((old &&& ~~~mask) ||| (val &&& mask)).toNat i w = laneN old.toNat i w := by
  refine Nat.eq_of_testBit_eq fun j => ?_
  have bit := testBit_laneN mask i w j
  rw [zero, Nat.zero_testBit] at bit
  by_cases hj : j < w
  · have clear : mask.getLsbD (i * w + j) = false := by simpa [hj] using bit.symm
    have inside : i * w + j < 2048 := by omega
    simp only [testBit_laneN, BitVec.getLsbD_or, BitVec.getLsbD_and, BitVec.getLsbD_not, clear, inside, decide_true,
      Bool.not_false, Bool.and_true, Bool.and_false, Bool.or_false]
  · simp only [testBit_laneN, hj, decide_false, Bool.false_and]

/-! ## Slices of the accumulators (R216, R238) -/

/-- Entries put side by side from `k` on, and the others. -/
theorem smGet_foldl_smPut {m : SMap (BitVec 40)} (h : smWf 0 m = true) (k n : Nat) (v : Nat → BitVec 40) (j : Nat) :
    smGet 0 ((List.range n).foldl (fun a i => smPut 0 (k + i) (v i) a) m) j = if k ≤ j ∧ j < k + n then v (j - k) else smGet 0 m j := by
  induction n with
  | zero => rw [if_neg (by omega)]; rfl
  | succ n ih =>
    rw [List.range_succ, List.foldl_append, List.foldl_cons, List.foldl_nil, smGet_smPut (foldl_smPut_wf _ _ _ h), ih]
    by_cases last : j = k + n
    · rw [if_pos last, if_pos (by omega), last, Nat.add_sub_cancel_left]
    · have same : (k ≤ j ∧ j < k + (n + 1)) ↔ (k ≤ j ∧ j < k + n) := by omega
      simp only [if_neg last, same]

theorem smGet_writeSlice {m : TMem} (h : smWf 0 m.acc = true) (k : Nat) (v : VWord) (j : Nat) :
    smGet 0 (writeSlice k v m).acc j = if k ≤ j ∧ j < k + 32 then v.extractLsb' (64 * (j - k)) 40 else smGet 0 m.acc j :=
  smGet_foldl_smPut h k 32 (fun n => v.extractLsb' (64 * n) 40) j

theorem laneN_readSlice (m : TMem) (k : Nat) {i : Nat} (hi : i < 32) :
    laneN (readSlice m k).toNat i 64 = ((smGet 0 m.acc (k + i)).signExtend 64).toNat := by
  rw [readSlice, laneN_laneVec _ (by decide) hi, Nat.mod_eq_of_lt (BitVec.isLt _)]

/-! ## Sparse tables as lists, for SHACC (R157, R228) -/

theorem smGet_mapValues {α β : Type} {d : α} {f : α → β} (m : SMap α) (k : Nat) :
    smGet (f d) (m.map fun x => (x.1, f x.2)) k = f (smGet d m k) := by
  induction m with
  | nil => rfl
  | cons x t ih =>
    simp only [List.map_cons, smGet, ih]
    split <;> rfl

theorem smWf_mapValues {α β : Type} [DecidableEq α] [DecidableEq β] {d : α} {d' : β} {f : α → β} (hf : ∀ v, v ≠ d → f v ≠ d')
    {m : SMap α} (h : smWf d m = true) : smWf d' (m.map fun x => (x.1, f x.2)) = true := by
  induction m with
  | nil => rfl
  | cons x t ih =>
    obtain ⟨value, above, rest⟩ := smWf_cons.mp h
    refine smWf_cons.mpr ⟨hf _ value, fun y hy => ?_, ih rest⟩
    obtain ⟨z, hz, rfl⟩ := List.mem_map.1 hy
    exact above z hz

/-- A table in canonical form whose keys start at `i`, listed from there. -/
theorem getElem?_smList {d : Int} {m : SMap Int} (h : smWf d m = true) {i n j : Nat} (start : ∀ x ∈ m, i ≤ x.1) (hj : j < n) :
    (smList d m i n)[j]? = some (smGet d m (i + j)) := by
  induction n generalizing m i j with
  | zero => omega
  | succ n ih =>
    cases m with
    | nil =>
      cases j with
      | zero => rfl
      | succ j => exact ih (m := []) rfl (fun x hx => nomatch hx) (Nat.lt_of_succ_lt_succ hj)
    | cons x t =>
      obtain ⟨-, above, rest⟩ := smWf_cons.mp h
      have first := start x List.mem_cons_self
      rw [smList]
      split
      · next here =>
        cases j with
        | zero => simp [smGet, here]
        | succ j =>
          rw [List.getElem?_cons_succ, ih rest (fun y hy => by have := above y hy; omega) (by omega), smGet, if_neg (by omega), Nat.add_right_comm,
            Nat.add_assoc]
      · next later =>
        cases j with
        | zero =>
          have unlisted : Above i (x :: t) := fun y hy => by
            rcases List.mem_cons.1 hy with rfl | hy
            · omega
            · have := above y hy; omega
          simp [smGet_of_above unlisted]
        | succ j =>
          rw [List.getElem?_cons_succ, ih h (fun y hy => by
            rcases List.mem_cons.1 hy with rfl | hy
            · omega
            · have := above y hy; omega) (by omega), Nat.add_right_comm, Nat.add_assoc]

theorem smGet_smOfList_of_lt {i n : Nat} (vs : List Int) (h : n < i) : smGet 0 (smOfList i vs) n = 0 := by
  induction vs generalizing i with
  | nil => rfl
  | cons v vs ih =>
    rw [smOfList]
    split
    · exact ih (by omega)
    · rw [smGet, if_neg (by omega), ih (by omega)]

theorem smGet_smOfList (i : Nat) (vs : List Int) (n : Nat) : smGet 0 (smOfList i vs) (i + n) = vs.getD n 0 := by
  induction vs generalizing i n with
  | nil => rfl
  | cons v vs ih =>
    rw [smOfList]
    cases n with
    | zero =>
      split
      · next zero => exact (smGet_smOfList_of_lt vs (Nat.lt_add_one i)).trans zero.symm
      · rw [smGet, if_pos (Nat.add_zero i).symm, List.getD_cons_zero]
    | succ n =>
      have tail : smGet 0 (smOfList (i + 1) vs) (i + (n + 1)) = vs.getD n 0 := by rw [← ih (i + 1) n, Nat.add_right_comm, Nat.add_assoc]
      rw [List.getD_cons_succ, ← tail]
      split
      · rfl
      · rw [smGet, if_neg (by omega)]

theorem toInt_ofInt_sat40 (t : Int) : (BitVec.ofInt 40 (sat40 t)).toInt = max (-(2 ^ 39)) (min t (2 ^ 39 - 1)) := by
  rw [BitVec.toInt_ofInt, sat40]
  exact Int.bmod_eq_of_le (by omega) (by omega)

/-- Each accumulator after SHACC: its shifted step sum added, clamped to 40 bits. -/
theorem toInt_smGet_shaccMem (m : TMem) (r : MRun) (sh : Nat) (acc : smWf 0 m.acc = true) (sums : smWf 0 r.sums = true) {n : Nat} (hn : n < 16384) :
    (smGet 0 (shaccMem r sh m).1.acc n).toInt = max (-(2 ^ 39)) (min ((smGet 0 m.acc n).toInt + smGet 0 r.sums n * 2 ^ sh) (2 ^ 39 - 1)) := by
  have values : smWf 0 (m.acc.map fun x => (x.1, x.2.toInt)) = true :=
    smWf_mapValues (fun v nonzero zero => nonzero (BitVec.eq_of_toInt_eq zero)) acc
  have old := getElem?_smList values (i := 0) (fun _ _ => Nat.zero_le _) hn
  have sum := getElem?_smList sums (i := 0) (fun _ _ => Nat.zero_le _) hn
  have value : smGet 0 (m.acc.map fun x => (x.1, x.2.toInt)) n = (smGet 0 m.acc n).toInt :=
    smGet_mapValues (d := (0 : BitVec 40)) (f := BitVec.toInt) m.acc n
  rw [Nat.zero_add] at old sum
  rw [value] at old
  set olds := smList 0 (m.acc.map fun x => (x.1, x.2.toInt)) 0 16384 with holds
  set adds := smList 0 r.sums 0 16384 with hadds
  have taken := smGet_smOfList 0 ((List.zipWith (fun a s => a + s * 2 ^ sh) olds adds).map sat40) n
  rw [Nat.zero_add, List.getD_eq_getElem?_getD, List.getElem?_map, List.getElem?_zipWith, old, sum] at taken
  simp only [shaccMem, ← holds, ← hadds]
  rw [show (0 : BitVec 40) = BitVec.ofInt 40 0 from rfl, smGet_mapValues, taken]
  exact toInt_ofInt_sat40 _

/-- Settles O36: entries put side by side, read back lane by lane, and sums over tables listed in order. -/
theorem accumulatorLaws : Obligations.AccumulatorLaws := by
  intro m r k sh v acc sums
  refine ⟨fun i hi => ?_, fun n outside => ?_, fun n hn => toInt_smGet_shaccMem m r sh acc sums hn⟩
  · have element : smGet 0 (writeSlice k v m).acc (k + i) = v.extractLsb' (64 * i) 40 := by
      rw [smGet_writeSlice acc, if_pos (by omega), Nat.add_sub_cancel_left]
    exact ⟨element, by rw [laneN_readSlice _ _ hi, element]⟩
  · rw [smGet_writeSlice acc, if_neg (by omega)]

end Sys2Proof.Proofs
end

section
/-! Proofs for 06_vector.md: the order in which VRED and VSCAN combine lanes (R179). -/

namespace Sys2Proof.Proofs

open Sys2Proof Sys2Proof.Machine Sys2Proof.Safety Sys2Proof.Laws

section
variable (f : Option Nat → Option Nat → Option Nat × FFlags)

/-! ## The tree of VRED -/

/-- A level of two lists side by side, the first of an even length, is a level of each. -/
theorem redLevel_append {n : Nat} {xs : List (Option Nat)} (even : xs.length = 2 * n) (ys : List (Option Nat)) :
    (redLevel f xs).1.length = n
      ∧ redLevel f (xs ++ ys) = ((redLevel f xs).1 ++ (redLevel f ys).1, (redLevel f xs).2 ||| (redLevel f ys).2) := by
  induction n generalizing xs with
  | zero =>
    obtain rfl := List.length_eq_zero_iff.1 even
    exact ⟨rfl, by simp [redLevel]⟩
  | succ n ih =>
    match xs, even with
    | a :: b :: t, even =>
      obtain ⟨length, level⟩ := ih (xs := t) (by simp only [List.length_cons] at even; omega)
      refine ⟨by simp [redLevel, length], ?_⟩
      simp only [List.cons_append, redLevel, level, BitVec.or_assoc]

/-- Flags only gather. -/
theorem redTree_flags (n : Nat) (l : List (Option Nat)) (fl : FFlags) :
    redTree f n l fl = ((redTree f n l 0).1, fl ||| (redTree f n l 0).2) := by
  induction n generalizing l fl with
  | zero => simp [redTree]
  | succ n ih =>
    rw [redTree, redTree, ih _ (fl ||| _), ih _ (0 ||| _)]
    simp [BitVec.or_assoc]

theorem redTree_succ (n : Nat) (l : List (Option Nat)) (fl : FFlags) :
    redTree f (n + 1) l fl = ((redTree f n (redLevel f l).1 0).1, fl ||| (redLevel f l).2 ||| (redTree f n (redLevel f l).1 0).2) :=
  redTree_flags f n _ _

/-- The tree of two halves combines the trees of each. -/
theorem redTree_append (n : Nat) {xs ys : List (Option Nat)} (left : xs.length = 2 ^ n) (right : ys.length = 2 ^ n) (fl : FFlags) :
    let a := redTree f n xs 0
    let b := redTree f n ys 0
    let c := f a.1 b.1
    redTree f (n + 1) (xs ++ ys) fl = (c.1, fl ||| a.2 ||| b.2 ||| c.2) := by
  induction n generalizing xs ys fl with
  | zero =>
    obtain ⟨x, rfl⟩ := List.length_eq_one_iff.1 left
    obtain ⟨y, rfl⟩ := List.length_eq_one_iff.1 right
    simp [redTree, redLevel]
  | succ n ih =>
    rw [pow_succ, Nat.mul_comm] at left right
    obtain ⟨length, level⟩ := redLevel_append f left ys
    have length' := (redLevel_append f right []).1
    have halves := ih length length' (fl ||| (redLevel f (xs ++ ys)).2)
    have first : redTree f (n + 1 + 1) (xs ++ ys) fl = redTree f (n + 1) (redLevel f (xs ++ ys)).1 (fl ||| (redLevel f (xs ++ ys)).2) := rfl
    simp only [first, level, redTree_succ f n xs, redTree_succ f n ys] at halves ⊢
    rw [halves]
    refine Prod.ext rfl ?_
    dsimp only
    ac_rfl

/-! ## The levels of VSCAN -/

@[simp] theorem length_scanLevel (step : Nat) (l : List (Option Nat)) : (scanLevel f step l).1.length = l.length := by simp [scanLevel]

@[simp] theorem length_scanTree (n step : Nat) (l : List (Option Nat)) (fl : FFlags) : (scanTree f n step l fl).1.length = l.length := by
  induction n generalizing step l fl with
  | zero => rfl
  | succ n ih => rw [scanTree, ih, length_scanLevel]

/-- A lane of a level is combined with the lane `step` below it, ABSENT where there is none. -/
theorem getElem?_scanLevel (step : Nat) (l : List (Option Nat)) {i : Nat} (hi : i < l.length) :
    (scanLevel f step l).1[i]? = some (f (if step ≤ i then l[i - step]?.getD none else none) l[i]).1 := by
  have below : (List.replicate step none ++ l)[i]? = some (if step ≤ i then l[i - step]?.getD none else none) := by
    split
    · next le =>
      have inside : i - step < l.length := by omega
      rw [List.getElem?_append_right (by simpa using le), List.length_replicate, List.getElem?_eq_getElem inside]
      rfl
    · next gt =>
      rw [List.getElem?_append_left (by simpa using gt), List.getElem?_replicate, if_pos (by omega)]
  rw [scanLevel, List.getElem?_map, List.getElem?_zipWith, below, List.getElem?_eq_getElem hi]
  rfl

theorem scanTree_fst (n step : Nat) (l : List (Option Nat)) (fl fl' : FFlags) : (scanTree f n step l fl).1 = (scanTree f n step l fl').1 := by
  induction n generalizing step l fl fl' with
  | zero => rfl
  | succ n ih => exact ih ..

/-- The last level is one of the lanes that the levels before it leave. -/
theorem scanTree_succ (n step : Nat) (l : List (Option Nat)) (fl : FFlags) :
    (scanTree f (n + 1) step l fl).1 = (scanLevel f (2 ^ n * step) (scanTree f n step l 0).1).1 := by
  induction n generalizing step l fl with
  | zero => simp [scanTree]
  | succ n ih =>
    rw [scanTree, ih, scanTree, scanTree_fst f n _ _ 0 (0 ||| _), pow_succ, Nat.mul_assoc]

end

/-- ABSENT changes nothing that it is combined with (R179). -/
theorem getElem?_scanTree_combOpt (op : RedOp) (ty : ElemTy) (ftz : Bool) (rnd : Rnd) (n : Nat) (xs : List (Option Nat)) (fl : FFlags) :
    let comb := combOpt op ty ftz rnd
    let l := (scanTree comb n 1 xs 0).1
    (scanTree comb (n + 1) 1 xs fl).1.length = xs.length ∧ ∀ i, (h : i < l.length) →
      (scanTree comb (n + 1) 1 xs fl).1[i]? = some (if 2 ^ n ≤ i then (comb (l[i - 2 ^ n]?.getD none) l[i]).1 else l[i]) := by
  refine ⟨length_scanTree _ _ _ _ _, fun i hi => ?_⟩
  rw [scanTree_succ, Nat.mul_one, getElem?_scanLevel _ _ _ hi]
  split <;> rfl

end Sys2Proof.Proofs
end

section
/-! Proofs for 05_numbers.md: conversions of one element (R146, R147, R160), SCACC and BSC (R158, R183, R185), and an operand as it is read (R141). -/

namespace Sys2Proof.Proofs

open Sys2Proof Sys2Proof.Machine Sys2Proof.Safety Sys2Proof.Laws

/-! ## Integers (R146) -/

theorem tyMin_le_tyMax (ty : ElemTy) : tyMin ty ≤ tyMax ty := by cases ty <;> decide

theorem satTy_eq (ty : ElemTy) (v : Int) : satTy ty v = max (tyMin ty) (min v (tyMax ty)) := by
  unfold satTy tyMin tyMax
  split <;> rfl

theorem roundInt_eq {x : XReal} (hx : 0 < x.den) (rnd : Rnd) :
    roundInt rnd x = (toInteger rnd (exactly x), decide ((toInteger rnd (exactly x) : ℚ) ≠ exactly x)) := by
  have units := roundUnits_eq hx rnd 0
  simp only [zpow_zero, div_one] at units
  rw [roundInt, units]
  refine Prod.ext ?_ rfl
  dsimp only
  split
  · next neg =>
    have := toInteger_nonpos rnd ((exactly_neg_iff hx).2 neg).le
    omega
  · next pos =>
    have := toInteger_nonneg rnd (not_lt.1 (mt (exactly_neg_iff hx).1 pos))
    omega

theorem realToInt_convertsTo (ty : ElemTy) (rnd : Rnd) {x : XReal} (hx : 0 < x.den) {q : ℚ} (value : exactly x = q) :
    ConvertsTo ty rnd q (realToInt ty rnd x) := by
  have limits := tyMin_le_tyMax ty
  rw [ConvertsTo, realToInt, roundInt_eq hx, value]
  dsimp only
  by_cases low : toInteger rnd q < tyMin ty
  · rw [if_pos (.inl low), if_pos low, satTy_eq, max_eq_left ((min_le_left _ _).trans low.le)]
  · by_cases high : tyMax ty < toInteger rnd q
    · rw [if_pos (.inr high), if_neg low, if_pos high, satTy_eq, min_eq_right high.le, max_eq_right limits]
    · rw [if_neg (not_or.2 ⟨low, high⟩), if_neg low, if_neg high]
      simp only [decide_not, Bool.not_eq_true', decide_eq_false_iff_not, ite_not]

/-! ## One element of VCVT (R146, R147, R181) -/

section
variable (src dst : ElemTy) (ftz sat : Bool) (rnd : Rnd) (x : Nat)

theorem isFloat_of_isInt {ty : ElemTy} (h : ty.isInt = true) : ty.isFloat = false := by
  revert h
  cases ty <;> decide

theorem cvtElem_of_float (float : src.isFloat = true) (int : dst.isInt = true) :
    cvtElem dst src ftz rnd sat x = floatToInt dst rnd (decodeF (fmtOf src) ftz x) := by
  rw [cvtElem, if_pos float, isFloat_of_isInt int]
  rfl

theorem cvtElem_of_int (int : src.isInt = true) :
    cvtElem dst src ftz rnd sat x =
      if dst.isFloat then intToFloat (fmtOf dst) ftz rnd (elemVal src x) else (narrow dst sat (elemVal src x), 0) := by
  rw [cvtElem, isFloat_of_isInt int]
  rfl

theorem cvtElem_float_float (float : src.isFloat = true) (float' : dst.isFloat = true) :
    cvtElem dst src ftz rnd sat x =
      floatToFloat (fmtOf dst) (ftz && !(dst == .fp32) && !(dst == src)) rnd (decodeF (fmtOf src) ftz x) := by
  rw [cvtElem, if_pos float, if_pos float']

theorem cvtElem_float_int_spec (float : src.isFloat = true) (int : dst.isInt = true) :
    match decodeF (fmtOf src) ftz x with
    | .nan _ => cvtElem dst src ftz rnd sat x = (0, fNv)
    | .inf neg => cvtElem dst src ftz rnd sat x = (wrapN dst.bits (if neg then tyMin dst else tyMax dst), fNv)
    | .fin a m e => ConvertsTo dst rnd (datum (.fin a m e)) (cvtElem dst src ftz rnd sat x) := by
  rw [cvtElem_of_float src dst ftz sat rnd x float int]
  cases decodeF (fmtOf src) ftz x with
  | nan => rfl
  | inf => rfl
  | fin a m e => exact realToInt_convertsTo dst rnd Nat.one_pos (exactly_finReal a m e)

theorem cvtElem_int_float_spec (int : src.isInt = true) (float : dst.isFloat = true) :
    RoundsTo (fmtOf dst) ftz rnd false (elemVal src x) (cvtElem dst src ftz rnd sat x) := by
  rw [cvtElem_of_int src dst ftz sat rnd x int, if_pos float]
  exact roundF_roundsTo _ ftz rnd Nat.one_pos (by simp [exactly])

theorem cvtElem_int_int_spec (int : src.isInt = true) (int' : dst.isInt = true) :
    (cvtElem dst src ftz rnd sat x).2 = 0 ∧ (cvtElem dst src ftz rnd sat x).1
      = wrapN dst.bits (if sat = true then max (tyMin dst) (min (elemVal src x) (tyMax dst)) else elemVal src x) := by
  rw [cvtElem_of_int src dst ftz sat rnd x int, isFloat_of_isInt int']
  exact ⟨rfl, by rw [← satTy_eq]; rfl⟩

theorem floatToFloat_spec (f : Fmt) (v : FVal) :
    match v with
    | .nan s => floatToFloat f ftz rnd v = (f.nan, if s then fNv else 0)
    | .inf neg => floatToFloat f ftz rnd v = (f.infBits neg, 0)
    | .fin a m e => RoundsTo f ftz rnd a (datum (.fin a m e)) (floatToFloat f ftz rnd v) := by
  cases v with
  | nan => rfl
  | inf => rfl
  | fin a m e => exact roundF_roundsTo f ftz rnd Nat.one_pos (exactly_finReal a m e)

/-- A number of a format is one of every format with at least its fraction and its exponents. -/
theorem Representable.widen {f g : Fmt} (fraction : f.mw ≤ g.mw) (low : g.emin ≤ f.emin) (high : f.bias ≤ g.bias) {q : ℚ}
    (h : Representable f q) :
    Representable g q := by
  obtain ⟨j, w, bits, first, last, rfl⟩ := h
  refine ⟨j * 2 ^ (g.mw - f.mw), w - (g.mw - f.mw : Nat), ?_, by omega, by omega, ?_⟩
  · rw [Int.natAbs_mul, Int.natAbs_pow, show g.mw + 1 = f.mw + 1 + (g.mw - f.mw) by omega, pow_add]
    exact Nat.mul_lt_mul_of_pos_right bits (Nat.two_pow_pos _)
  · have power : (2 : ℚ) ^ w = (2 : ℚ) ^ (g.mw - f.mw) * (2 : ℚ) ^ (w - (g.mw - f.mw : Nat)) := by
      rw [← zpow_natCast, ← zpow_add₀ two_ne_zero]
      congr 1
      ring
    rw [power]
    push_cast
    ring

/-- A finite encoding is read as a number of its format, flushed or not (R142). -/
theorem decodeF_finite_representable {f : Fmt} (hf : IsFormat f) {x : Nat} (hx : Finite f x) :
    ∃ a m e, decodeF f ftz x = .fin a m e ∧ Representable f (datum (.fin a m e)) := by
  obtain ⟨m, e, value, number⟩ := decodeF_of_finite hx.2
  have own := number ▸ representable_encoded hf hx
  cases ftz with
  | false => exact ⟨_, m, e, value, own⟩
  | true =>
    rw [decodeF_true hf]
    split
    · have order := fmt_emin_le_bias hf
      exact ⟨_, 0, 0, rfl, 0, f.emin - f.mw, Nat.two_pow_pos _, le_rfl, by omega, by simp [datum]⟩
    · exact ⟨_, m, e, value, own⟩

/-- A conversion that loses nothing: to FP32, or to the type itself. -/
theorem cvtElem_exact (member : src ∈ [ElemTy.bf16, .fp16, .fp32]) (wide : dst = .fp32 ∨ dst = src) (hx : Finite (fmtOf src) x) :
    (cvtElem dst src ftz rnd sat x).2 = 0 ∧ encoded (fmtOf dst) (cvtElem dst src ftz rnd sat x).1 = datum (decodeF (fmtOf src) ftz x) := by
  have float : src.isFloat = true := by
    simp only [List.mem_cons, List.not_mem_nil, or_false] at member
    rcases member with rfl | rfl | rfl <;> rfl
  have float' : dst.isFloat = true := by
    rcases wide with rfl | rfl
    exacts [rfl, float]
  have kept : (ftz && !(dst == .fp32) && !(dst == src)) = false := by rcases wide with rfl | rfl <;> simp
  obtain ⟨a, m, e, value, own⟩ := decodeF_finite_representable ftz (isFormat_fmtOf src) hx
  have target : Representable (fmtOf dst) (datum (.fin a m e)) := by
    rcases wide with rfl | rfl
    · exact own.widen (by cases src <;> decide) (by cases src <;> decide) (by cases src <;> decide)
    · exact own
  have result := roundF_of_representable (isFormat_fmtOf dst) rnd a (x := finReal a m e) Nat.one_pos (by rwa [exactly_finReal])
  rw [cvtElem_float_float src dst ftz sat rnd x float float', kept, value]
  exact ⟨result.1, result.2.2.1.trans (exactly_finReal a m e)⟩

end

/-! ## One element of QNT (R160) -/

section
variable {ty : ElemTy} {ftz : Bool} {rnd : Rnd} {x y : Nat} {a b : Bool} {m i : Nat} {e d : Int}

theorem qntElem_of_invalid
    (special : isNan (decodeF fp32 ftz x) = true ∨ isNan (decodeF fp32 ftz y) = true ∨ ∃ s, decodeF fp32 ftz y = .inf s) :
    qntElem ty ftz rnd x y = (0, fNv) := by
  rw [qntElem]
  revert special
  cases decodeF fp32 ftz x <;> cases decodeF fp32 ftz y <;> simp [isNan]

theorem qntElem_of_inf (hu : decodeF fp32 ftz x = .inf b) (hw : decodeF fp32 ftz y = .fin a m e) :
    qntElem ty ftz rnd x y =
      if m = 0 then (wrapN ty.bits (if b then tyMin ty else tyMax ty), fDz)
      else if a then (0, fNv) else (wrapN ty.bits (if b then tyMin ty else tyMax ty), fNv) := by
  rw [qntElem, hu, hw]

theorem qntElem_of_fin (hu : decodeF fp32 ftz x = .fin b i d) (hw : decodeF fp32 ftz y = .fin a m e) :
    qntElem ty ftz rnd x y =
      if m = 0 then (if i = 0 then (0, fDz) else (wrapN ty.bits (if b then tyMin ty else tyMax ty), fDz))
      else if a then (0, fNv) else realToInt ty rnd ((finReal b i d).div (finReal a m e)) := by
  rw [qntElem, hu, hw]

theorem qntElem_convertsTo (hu : decodeF fp32 ftz x = .fin b i d) (hw : decodeF fp32 ftz y = .fin false m e) (nonzero : m ≠ 0) :
    ConvertsTo ty rnd (datum (decodeF fp32 ftz x) / datum (decodeF fp32 ftz y)) (qntElem ty ftz rnd x y) := by
  rw [qntElem_of_fin hu hw, if_neg nonzero, if_neg Bool.false_ne_true, hu, hw]
  exact realToInt_convertsTo ty rnd (den_div (x := finReal b i d) Nat.one_pos (num_finReal_ne_zero false e nonzero))
    (exactly_finReal_div b false i d e nonzero)

end

theorem qntElem_spec (ty : ElemTy) (ftz : Bool) (rnd : Rnd) (x y : Nat) :
    let u := decodeF fp32 ftz x
    let w := decodeF fp32 ftz y
    let r := qntElem ty ftz rnd x y
    let limit (neg : Bool) : Nat := wrapN ty.bits (if neg then tyMin ty else tyMax ty)
    (isNan u = true ∨ isNan w = true ∨ (∃ s, w = .inf s) → r = (0, fNv))
      ∧ (∀ a m e, w = .fin a m e → isNan u = false →
        (m = 0 → (∀ b, u = .inf b → r = (limit b, fDz)) ∧ ∀ b i d, u = .fin b i d → r = (if i = 0 then (0, fDz) else (limit b, fDz)))
        ∧ (m ≠ 0 → a = true → r = (0, fNv))
        ∧ (m ≠ 0 → a = false → (∀ b, u = .inf b → r = (limit b, fNv))
          ∧ ∀ b i d, u = .fin b i d → ConvertsTo ty rnd (datum u / datum w) r)) := by
  refine ⟨qntElem_of_invalid, fun a m e hw number =>
    ⟨fun zero => ⟨fun b hu => ?_, fun b i d hu => ?_⟩, fun nonzero neg => ?_, fun nonzero plus => ?_⟩⟩
  · exact (qntElem_of_inf hu hw).trans (if_pos zero)
  · exact (qntElem_of_fin hu hw).trans (if_pos zero)
  · cases hu : decodeF fp32 ftz x with
    | nan s => rw [hu] at number; cases number
    | inf b => exact (qntElem_of_inf hu hw).trans ((if_neg nonzero).trans (if_pos neg))
    | fin b i d => exact (qntElem_of_fin hu hw).trans ((if_neg nonzero).trans (if_pos neg))
  · subst plus
    exact ⟨fun b hu => (qntElem_of_inf hu hw).trans (if_neg nonzero), fun b i d hu => qntElem_convertsTo hu hw nonzero⟩

end Sys2Proof.Proofs
end

section
/-! Proofs for 05_numbers.md: SCACC and BSC (R158, R183, R185), an operand as it is read (R141), and the lanes that VRED and VSCAN write
(06_vector.md R179). -/

namespace Sys2Proof.Proofs

open Sys2Proof Sys2Proof.Machine Sys2Proof.Safety Sys2Proof.Laws

/-! ## SCACC (R158, R185) -/

theorem scaccElem_spec (ftz : Bool) (rnd : Rnd) (adj : Nat) (q : Int) {ea eb : Int} (a : Nat) (ha : ea ≠ -128) (hb : eb ≠ -128) :
    match decodeF fp32 ftz a with
    | .nan s => scaccElem ftz rnd adj q ea eb a = some (fp32.nan, if s then fNv else 0)
    | .inf neg => scaccElem ftz rnd adj q ea eb a = some (fp32.infBits neg, 0)
    | .fin neg m e => ∃ r, scaccElem ftz rnd adj q ea eb a = some r
        ∧ RoundsTo fp32 ftz rnd (sumSign rnd m q.natAbs neg false) (datum (.fin neg m e) + q * (2 : ℚ) ^ (ea + eb + adj)) r := by
  rw [scaccElem, if_neg (not_or.2 ⟨ha, hb⟩)]
  cases decodeF fp32 ftz a with
  | nan => rfl
  | inf => rfl
  | fin neg m e =>
    refine ⟨_, rfl, ?_⟩
    simp only [sumSign_eq, Int.natAbs_eq_zero]
    refine roundF_roundsTo fp32 ftz rnd (den_add Nat.one_pos Nat.one_pos) ?_
    rw [exactly_add Nat.one_pos Nat.one_pos, exactly_finReal]
    simp [exactly]

/-- A lane of a vector packed from a list. -/
theorem laneN_foldr {α : Type} {w n : Nat} {g : α → Nat} (small : ∀ r, g r < 2 ^ w) {l : List α} (fits : w * l.length ≤ n) {i : Nat}
    (hi : i < l.length) :
    laneN (BitVec.ofNat n (l.foldr (fun r x => g r + 2 ^ w * x) 0)).toNat i w = g l[i] := by
  have bound : ∀ a ∈ l.map g, a < 2 ^ w := fun a ha => by
    obtain ⟨r, -, rfl⟩ := List.mem_map.1 ha
    exact small r
  rw [packed_map, laneN_ofNat_packed bound (by simpa using fits)]
  simp [hi]

/-- What SCACC writes to a lane, if anything. -/
def scaccLane (rnd : Rnd) (adj : Nat) (ftz : Bool) (k : Mask) (va vb vc old : VWord) (i : Nat) : Option (Flagged Nat) :=
  if k.getLsbD i = true then scaccElem ftz rnd adj (sextN 32 (laneN va.toNat i 32)) (sextN 8 (laneN vb.toNat i 8)) (sextN 8 (laneN vc.toNat i 8))
    (laneN old.toNat i 32) else none

/-- A lane of SCACC is written where the element is, and kept elsewhere. -/
theorem laneN_scaccOut (rnd : Rnd) (adj : Nat) (ftz : Bool) (k : Mask) (va vb vc old : VWord) {i : Nat} (hi : i < 64) :
    let o := scaccOut .i32 rnd adj ftz k va vb vc old
    laneN ((old &&& ~~~o.mask) ||| (o.val &&& o.mask)).toNat i 32 =
      match scaccLane rnd adj ftz k va vb vc old i with
      | some r => r.1 % 2 ^ 32
      | none => laneN old.toNat i 32 := by
  intro o
  have inside : i < ((upTo 64).map (scaccLane rnd adj ftz k va vb vc old)).length := by simpa using hi
  have mask : laneN o.mask.toNat i 32 = _ := laneN_foldr (by
    rintro (_ | _)
    · decide
    · exact Nat.sub_lt (by decide) (by decide)) (by simp) inside
  have val : laneN o.val.toNat i 32 = _ := laneN_foldr (by
    rintro (_ | v)
    · decide
    · exact Nat.mod_lt _ (by decide)) (by simp) inside
  rw [List.getElem_map, List.getElem_range] at mask val
  cases written : scaccLane rnd adj ftz k va vb vc old i with
  | none => rw [written] at mask; exact laneN_merge_of_zero (by omega) mask
  | some r => rw [written] at mask val; exact (laneN_merge_of_ones mask).trans val

/-! ## BSC (R183) -/

/-- The larger of a magnitude and a lane's. -/
def larger (x : XReal) (v : FVal) : XReal :=
  match v with
  | .fin _ n e => if x.lt ⟨n, 1, e⟩ then ⟨n, 1, e⟩ else x
  | _ => x

theorem exactly_magnitude (a : Bool) (n : Nat) (e : Int) : exactly ⟨n, 1, e⟩ = |datum (.fin a n e)| := by
  have size : |datum (.fin a n e)| = n * (2 : ℚ) ^ e := by
    rw [datum, mul_assoc, abs_mul, abs_of_nonneg (a := (n : ℚ) * (2 : ℚ) ^ e) (by positivity)]
    cases a <;> simp
  rw [size]
  simp [exactly]

theorem larger_spec {x : XReal} (hx : 0 < x.den) (nonneg : 0 ≤ exactly x) (v : FVal) :
    0 < (larger x v).den ∧ exactly (larger x v) = max (exactly x) |datum v| := by
  cases v with
  | nan | inf => exact ⟨hx, by simpa [larger, datum] using nonneg⟩
  | fin a n e =>
    rw [larger, lt_iff_exactly_lt hx Nat.one_pos, exactly_magnitude a]
    split
    · next less => exact ⟨Nat.one_pos, (exactly_magnitude a n e).trans (max_eq_right (of_decide_eq_true less).le).symm⟩
    · next le => exact ⟨hx, (max_eq_left (not_lt.1 (mt decide_eq_true le))).symm⟩

/-- What folding over the lanes gives is the largest magnitude. -/
theorem foldl_larger_spec (vs : List FVal) {x : XReal} (hx : 0 < x.den) (nonneg : 0 ≤ exactly x) :
    let r := vs.foldl larger x
    0 < r.den ∧ exactly x ≤ exactly r ∧ (∀ t ∈ vs, |datum t| ≤ exactly r)
      ∧ (exactly r = exactly x ∨ ∃ t ∈ vs, exactly r = |datum t|) := by
  induction vs generalizing x with
  | nil => exact ⟨hx, le_rfl, List.forall_mem_nil _, .inl rfl⟩
  | cons v vs ih =>
    obtain ⟨den, value⟩ := larger_spec hx nonneg v
    have grows : exactly x ≤ exactly (larger x v) := value ▸ le_max_left _ _
    obtain ⟨den', le, bound, attained⟩ := ih den (nonneg.trans grows)
    refine ⟨den', grows.trans le, ?_, ?_⟩
    · exact List.forall_mem_cons.2 ⟨(value ▸ le_max_right (exactly x) |datum v|).trans le, bound⟩
    · rcases attained with same | ⟨t, member, same⟩
      · rcases max_choice (exactly x) |datum v| with old | new
        · exact .inl (same.trans (value.trans old))
        · exact .inr ⟨v, List.mem_cons_self, same.trans (value.trans new)⟩
      · exact .inr ⟨t, List.mem_cons_of_mem v member, same⟩

/-- The smallest exponent whose scale covers a magnitude. -/
theorem scaleExp_spec {x : XReal} {cap : Nat} (hx : 0 < x.den) (pos : 0 < exactly x) (hcap : 0 < cap) :
    exactly x ≤ cap * (2 : ℚ) ^ scaleExp x cap ∧ cap * (2 : ℚ) ^ (scaleExp x cap - 1) < exactly x := by
  have capq : (0 : ℚ) < cap := by exact_mod_cast hcap
  have nonzero : (⟨cap, 1, 0⟩ : XReal).num ≠ 0 := by simpa using hcap.ne'
  have value : exactly (x.div ⟨cap, 1, 0⟩) = exactly x / cap := by
    rw [exactly_div hx Nat.one_pos nonzero]
    simp [exactly]
  set l := x.div ⟨cap, 1, 0⟩ with hl
  have den : 0 < l.den := den_div hx nonzero
  have positive : 0 < exactly l := value ▸ div_pos pos capq
  have exponent : l.exponent = Int.log 2 |exactly l| := exponent_eq_log den (mt (exactly_eq_zero_iff den).2 positive.ne')
  have low := two_zpow_log_le positive.ne'
  have high := lt_two_zpow_log (exactly l)
  have one : exactly ⟨1, 1, l.exponent⟩ = (2 : ℚ) ^ l.exponent := by simp [exactly]
  rw [← exponent, abs_of_pos positive] at low high
  rw [← div_le_iff₀' capq, ← lt_div_iff₀' capq, ← value, scaleExp, ← hl, lt_iff_exactly_lt Nat.one_pos den, one]
  split
  · next above => exact ⟨high.le, by simpa using above⟩
  · next same =>
    have reached : exactly l = (2 : ℚ) ^ l.exponent := le_antisymm (by simpa using same) low
    exact ⟨reached.le, reached ▸ zpow_lt_zpow_right₀ one_lt_two (by omega)⟩

/-- Whether a datum is no number. -/
def isSpecial (v : FVal) : Bool :=
  match v with
  | .nan _ => true
  | .inf _ => true
  | _ => false

theorem isSpecial_iff (v : FVal) : isSpecial v = true ↔ isNan v = true ∨ ∃ s, v = .inf s := by cases v <;> simp [isSpecial, isNan]

theorem bscExp_eq (planes : Nat) (vs : List FVal) :
    bscExp planes vs =
      if vs.any isSpecial then (127, fNv)
      else
        let m := vs.foldl larger ⟨0, 1, 0⟩
        if m.isZero then (-128, 0)
        else
          let e := max (scaleExp m (2 ^ (planes - 1) - 1)) (-127)
          if 127 < e then (127, fNv) else (e, 0) := rfl

theorem bscExp_of_special {planes : Nat} {vs : List FVal} (special : ∃ t ∈ vs, isNan t = true ∨ ∃ s, t = .inf s) :
    bscExp planes vs = (127, fNv) := by
  obtain ⟨t, member, h⟩ := special
  rw [bscExp_eq, if_pos (List.any_eq_true.2 ⟨t, member, (isSpecial_iff t).2 h⟩)]

section
variable {planes : Nat} {vs : List FVal} (numbers : ∀ t ∈ vs, isNan t = false ∧ ∀ s, t ≠ .inf s)
include numbers

theorem any_isSpecial_of_numbers : ¬ vs.any isSpecial = true := by
  rw [List.any_eq_true]
  rintro ⟨t, member, special⟩
  obtain ⟨number, finite⟩ := numbers t member
  rcases (isSpecial_iff t).1 special with nan | ⟨s, inf⟩
  · rw [number] at nan
    cases nan
  · exact finite s inf

theorem bscExp_of_zeros (zeros : ∀ t ∈ vs, datum t = 0) : bscExp planes vs = (-128, 0) := by
  obtain ⟨den, -, -, attained⟩ := foldl_larger_spec vs (x := ⟨0, 1, 0⟩) Nat.one_pos (by simp [exactly])
  have zero : exactly (vs.foldl larger ⟨0, 1, 0⟩) = 0 := by
    rcases attained with same | ⟨t, member, same⟩
    · rw [same]; simp [exactly]
    · rw [same, zeros t member, abs_zero]
  rw [bscExp_eq, if_neg (any_isSpecial_of_numbers numbers)]
  exact if_pos (beq_iff_eq.2 ((exactly_eq_zero_iff den).1 zero))

/-- BSC of lanes not all zero, in terms of the largest magnitude `q` and the scale `e` that covers it. -/
theorem bscExp_of_nonzero (hp : 2 ≤ planes) (nonzero : ∃ t ∈ vs, datum t ≠ 0) :
    ∃ (q : ℚ) (e : Int), (∀ t ∈ vs, |datum t| ≤ q) ∧ (∃ t ∈ vs, |datum t| = q)
      ∧ q ≤ ((2 : ℚ) ^ (planes - 1) - 1) * (2 : ℚ) ^ e
      ∧ ((2 : ℚ) ^ (planes - 1) - 1) * (2 : ℚ) ^ (e - 1) < q
      ∧ bscExp planes vs = if 127 < max e (-127) then (127, fNv) else (max e (-127), 0) := by
  have start : exactly ⟨0, 1, 0⟩ = 0 := by simp [exactly]
  obtain ⟨den, -, bound, attained⟩ := foldl_larger_spec vs (x := ⟨0, 1, 0⟩) Nat.one_pos start.ge
  obtain ⟨t, member, some⟩ := nonzero
  have pos : 0 < exactly (vs.foldl larger ⟨0, 1, 0⟩) := (abs_pos.2 some).trans_le (bound t member)
  have planes' : 2 ^ 1 ≤ 2 ^ (planes - 1) := Nat.pow_le_pow_right two_pos (by omega)
  have cap : ((2 ^ (planes - 1) - 1 : Nat) : ℚ) = (2 : ℚ) ^ (planes - 1) - 1 := by
    rw [Nat.cast_sub (by omega)]
    push_cast
    rfl
  obtain ⟨covers, least⟩ := scaleExp_spec (cap := 2 ^ (planes - 1) - 1) den pos (by omega)
  rw [cap] at covers least
  refine ⟨_, _, bound, ?_, covers, least, ?_⟩
  · rcases attained with same | ⟨t, member, same⟩
    · rw [start] at same
      exact absurd same pos.ne'
    · exact ⟨t, member, same.symm⟩
  · rw [bscExp_eq, if_neg (any_isSpecial_of_numbers numbers)]
    exact if_neg (mt beq_iff_eq.1 (mt (exactly_eq_zero_iff den).2 pos.ne'))

end

theorem bscExp_spec {planes : Nat} (hp : 2 ≤ planes) (vs : List FVal) :
    let cap : ℚ := 2 ^ (planes - 1) - 1
    let r := bscExp planes vs
    ((∃ t ∈ vs, isNan t = true ∨ ∃ s, t = .inf s) → r = (127, fNv))
      ∧ ((∀ t ∈ vs, isNan t = false ∧ ∀ s, t ≠ .inf s) →
        ((∀ t ∈ vs, datum t = 0) → r = (-128, 0))
        ∧ ((∃ t ∈ vs, datum t ≠ 0) → -127 ≤ r.1 ∧ r.1 ≤ 127
          ∧ ((∃ t ∈ vs, cap * 2 ^ 127 < |datum t|) → r = (127, fNv))
          ∧ ((∀ t ∈ vs, |datum t| ≤ cap * 2 ^ 127) → r.2 = 0 ∧ (∀ t ∈ vs, |datum t| ≤ cap * (2 : ℚ) ^ r.1)
            ∧ (r.1 = -127 ∨ ∃ t ∈ vs, cap * (2 : ℚ) ^ (r.1 - 1) < |datum t|)))) := by
  intro cap r
  refine ⟨bscExp_of_special, fun numbers => ⟨bscExp_of_zeros numbers, fun nonzero => ?_⟩⟩
  obtain ⟨q, e, bound, ⟨t, member, attained⟩, covers, least, result⟩ := bscExp_of_nonzero numbers hp nonzero
  change q ≤ cap * (2 : ℚ) ^ e at covers
  change cap * (2 : ℚ) ^ (e - 1) < q at least
  change r = _ at result
  have nonneg : 0 ≤ cap := by
    have : (1 : ℚ) ≤ 2 ^ (planes - 1) := one_le_pow₀ one_le_two
    simp only [cap]
    linarith
  have scale : ∀ {a b : Int}, a ≤ b → cap * (2 : ℚ) ^ a ≤ cap * (2 : ℚ) ^ b := fun h =>
    mul_le_mul_of_nonneg_left (zpow_le_zpow_right₀ one_le_two h) nonneg
  have top : cap * (2 : ℚ) ^ (127 : Int) = cap * 2 ^ 127 := rfl
  have large : 127 < max e (-127) ↔ cap * 2 ^ 127 < q := by
    rw [← top]
    refine ⟨fun h => (scale (show 127 ≤ e - 1 by omega)).trans_lt least, fun h => ?_⟩
    by_contra le
    exact absurd (covers.trans (scale (show e ≤ 127 by omega))) (not_le.2 h)
  by_cases beyond : 127 < max e (-127)
  · rw [if_pos beyond] at result
    rw [result]
    exact ⟨by decide, by decide, fun _ => rfl, fun all => absurd (large.1 beyond) (not_lt.2 (attained ▸ all t member))⟩
  · rw [if_neg beyond] at result
    rw [result]
    refine ⟨le_max_right _ _, not_lt.1 beyond, fun ⟨s, hs, more⟩ => absurd (large.2 (more.trans_le (bound s hs))) beyond, fun _ => ⟨rfl,
      fun s hs => (bound s hs).trans (covers.trans (scale (le_max_left _ _))), ?_⟩⟩
    rcases max_choice e (-127) with own | floor
    · exact .inr ⟨t, member, by rw [own, attained]; exact least⟩
    · exact .inl floor

end Sys2Proof.Proofs
end

section
/-! Proofs for 05_numbers.md: infinities and the largest finite numbers, an operand as it is read (R141, R142), and the lanes that VRED and VSCAN
write (06_vector.md R179). -/

namespace Sys2Proof.Proofs

open Sys2Proof Sys2Proof.Machine Sys2Proof.Safety Sys2Proof.Laws

/-! ## Infinities and largest numbers (R140) -/

section
variable {f : Fmt}

theorem infCode_lt (f : Fmt) : (2 ^ f.ew - 1) * 2 ^ f.mw < 2 ^ (f.ew + f.mw) := by
  rw [two_pow_fields]
  exact Nat.mul_lt_mul_of_pos_right (Nat.sub_lt (Nat.two_pow_pos _) Nat.one_pos) (Nat.two_pow_pos _)

theorem signField_infBits (neg : Bool) : signField f (f.infBits neg) = neg.toNat := signField_signBit_add neg (infCode_lt f)

theorem expField_infBits (neg : Bool) : expField f (f.infBits neg) = 2 ^ f.ew - 1 := by
  rw [Fmt.infBits, expField_signBit_add neg (infCode_lt f), Nat.mul_div_cancel _ (Nat.two_pow_pos _)]

theorem fracField_infBits (neg : Bool) : fracField f (f.infBits neg) = 0 := by
  rw [Fmt.infBits, fracField_signBit_add, Nat.mul_mod_left]

theorem decide_toNat_eq_one (neg : Bool) : decide (neg.toNat = 1) = neg := by cases neg <;> rfl

theorem decodeF_infBits (f : Fmt) (ftz neg : Bool) : decodeF f ftz (f.infBits neg) = .inf neg := by
  rw [decodeF_eq, if_pos (expField_infBits neg), if_pos (fracField_infBits neg), signField_infBits, decide_toNat_eq_one]

theorem finite_maxBits (hf : IsFormat f) (neg : Bool) : Finite f (f.maxBits neg) := by
  have pos := zero_lt_finiteCodes hf
  rw [Fmt.maxBits, Fmt.infBits, Nat.add_sub_assoc pos]
  exact finite_signBit_add neg (Nat.sub_lt pos Nat.one_pos)

theorem infBits_of_fields {x : Nat} (enc : Encoding f x) (last : expField f x = 2 ^ f.ew - 1) (frac : fracField f x = 0) :
    f.infBits (decide (signField f x = 1)) = x := by
  have small : x % 2 ^ (f.ew + f.mw) < 2 ^ (f.ew + f.mw) := Nat.mod_lt _ (Nat.two_pow_pos _)
  have whole := encoding_eq_signBit_add enc
  rw [whole, expField_signBit_add _ small] at last
  rw [whole, fracField_signBit_add] at frac
  have code : x % 2 ^ (f.ew + f.mw) = (2 ^ f.ew - 1) * 2 ^ f.mw := by
    have sum := Nat.div_add_mod' (x % 2 ^ (f.ew + f.mw)) (2 ^ f.mw)
    rw [last, frac] at sum
    exact sum.symm
  rw [Fmt.infBits, ← code]
  exact whole.symm

/-! ## An operand as it is read -/

/-- The bits above an encoding are not read. -/
theorem decodeF_mod (f : Fmt) (ftz : Bool) (x : Nat) : decodeF f ftz (x % 2 ^ (1 + f.ew + f.mw)) = decodeF f ftz x := by
  have top : 2 ^ (1 + f.ew + f.mw) = 2 ^ (f.ew + f.mw) * 2 := by rw [← pow_succ]; congr 1; omega
  have middle : 2 ^ (1 + f.ew + f.mw) = 2 ^ f.mw * 2 ^ f.ew * 2 := by rw [top, two_pow_fields, Nat.mul_comm (2 ^ f.ew)]
  have sign : signField f (x % 2 ^ (1 + f.ew + f.mw)) = signField f x := by
    rw [signField, top, Nat.mod_mul_right_div_self, Nat.mod_mod, signField]
  have exponent : expField f (x % 2 ^ (1 + f.ew + f.mw)) = expField f x := by
    rw [expField, middle, Nat.mul_assoc, Nat.mod_mul_right_div_self, Nat.mod_mul_right_mod, expField]
  have fraction : fracField f (x % 2 ^ (1 + f.ew + f.mw)) = fracField f x := by
    rw [fracField, middle, Nat.mul_assoc, Nat.mod_mul_right_mod, fracField]
  rw [decodeF_eq, decodeF_eq, sign, exponent, fraction]

theorem encodeF_zero (f : Fmt) (neg : Bool) (e : Int) : encodeF f (.fin neg 0 e) = f.signBit neg := by
  have zero : exactly (finReal neg 0 e) = 0 := by rw [exactly_finReal, datum_eq_zero_iff]
  rw [encodeF, roundF_of_zero f false .rtz neg Nat.one_pos zero]

/-- What is neither a NaN nor a zero is encoded as it was read. -/
theorem encodeF_decodeF_of_number (hf : IsFormat f) {ftz : Bool} {x : Nat} (enc : Encoding f x) (number : ∀ b, decodeF f ftz x ≠ .nan b)
    (nonzero : ∀ b e, decodeF f ftz x ≠ .fin b 0 e) : encodeF f (decodeF f ftz x) = x := by
  have plain : decodeF f ftz x = decodeF f false x := by
    cases ftz with
    | false => rfl
    | true =>
      rw [decodeF_true hf] at nonzero ⊢
      split
      · next sub => rw [if_pos sub] at nonzero; exact absurd rfl (nonzero _ _)
      · rfl
  rw [plain] at number ⊢
  by_cases last : expField f x = 2 ^ f.ew - 1
  · have value := decodeF_eq f false x
    rw [if_pos last] at value
    by_cases frac : fracField f x = 0
    · rw [value, if_pos frac]
      exact infBits_of_fields enc last frac
    · rw [if_neg frac] at value
      exact absurd value (number _)
  · exact encodeF_decodeF hf ⟨enc, last⟩

end

theorem bits_of_isFloat {ty : ElemTy} (float : ty.isFloat = true) : ty.bits = 1 + (fmtOf ty).ew + (fmtOf ty).mw := by
  revert float
  cases ty <;> decide

section
variable (ty : ElemTy) (ftz : Bool) (x : Nat)

theorem asRead_of_int (int : ty.isInt = true) : asRead ty ftz x = x := by
  rw [asRead, isFloat_of_isInt int]
  rfl

theorem asRead_of_float (float : ty.isFloat = true) : asRead ty ftz x = encodeF (fmtOf ty) (decodeF (fmtOf ty) ftz x) := if_pos float

theorem asRead_float_spec (float : ty.isFloat = true) :
    let a := decodeF (fmtOf ty) ftz x
    (∀ b, a = .nan b → asRead ty ftz x = (fmtOf ty).nan) ∧ (∀ b e, a = .fin b 0 e → asRead ty ftz x = (fmtOf ty).signBit b)
      ∧ ((∀ b, a ≠ .nan b) → (∀ b e, a ≠ .fin b 0 e) → asRead ty ftz x = x % 2 ^ ty.bits) := by
  intro a
  rw [asRead_of_float ty ftz x float]
  change (∀ b, a = .nan b → encodeF (fmtOf ty) a = _) ∧ (∀ b e, a = .fin b 0 e → encodeF (fmtOf ty) a = _) ∧ _
  refine ⟨fun b nan => by rw [nan]; rfl, fun b e zero => by rw [zero, encodeF_zero], fun number nonzero => ?_⟩
  have same : decodeF (fmtOf ty) ftz (x % 2 ^ ty.bits) = a := by rw [bits_of_isFloat float, decodeF_mod]
  have enc : Encoding (fmtOf ty) (x % 2 ^ ty.bits) := by
    rw [Encoding, ← bits_of_isFloat float]
    exact Nat.mod_lt _ (Nat.two_pow_pos _)
  rw [← same] at number nonzero
  change encodeF (fmtOf ty) a = _
  rw [← same]
  exact encodeF_decodeF_of_number (isFormat_fmtOf ty) enc number nonzero

end

/-! ## Combining lanes (R179) -/

section
variable (op : RedOp) (ty : ElemTy) (ftz : Bool) (rnd : Rnd) (x y : Nat)

theorem combOpt_of_int (int : ty.isInt = true) :
    (op = .add → combOpt op ty ftz rnd (some x) (some y) = (some ((x + y) % 2 ^ ty.bits), 0))
      ∧ (op = .min → combOpt op ty ftz rnd (some x) (some y) = (some (wrapN ty.bits (min (elemVal ty x) (elemVal ty y))), 0))
      ∧ (op = .max → combOpt op ty ftz rnd (some x) (some y) = (some (wrapN ty.bits (max (elemVal ty x) (elemVal ty y))), 0)) := by
  have plain := isFloat_of_isInt int
  refine ⟨?_, ?_, ?_⟩ <;> rintro rfl <;> simp [combOpt, combine, plain]

theorem combOpt_of_float (float : ty.isFloat = true) :
    let a := decodeF (fmtOf ty) ftz x
    let b := decodeF (fmtOf ty) ftz y
    combOpt op ty ftz rnd (some x) (some y) = (match op with
      | .add => let r := fAdd (fmtOf ty) ftz rnd a b; (some r.1, r.2)
      | .min => let r := fMinMax (fmtOf ty) true a b; (some r.1, r.2)
      | .max => let r := fMinMax (fmtOf ty) false a b; (some r.1, r.2)) := by
  cases op <;> simp [combOpt, combine, float]

theorem elemVal_emptyRed (int : ty.isInt = true) :
    elemVal ty (emptyRed .min ty) = tyMax ty ∧ elemVal ty (emptyRed .max ty) = tyMin ty := by
  revert int
  cases ty <;> decide

theorem decodeF_emptyRed (float : ty.isFloat = true) :
    decodeF (fmtOf ty) ftz (emptyRed .min ty) = .inf false ∧ decodeF (fmtOf ty) ftz (emptyRed .max ty) = .inf true := by
  rw [emptyRed, emptyRed, if_pos float, if_pos float]
  exact ⟨decodeF_infBits _ ftz false, decodeF_infBits _ ftz true⟩

theorem redTree_halves (n : Nat) {xs : List (Option Nat)} (length : xs.length = 2 ^ (n + 1)) (fl : FFlags) :
    let comb := combOpt op ty ftz rnd
    let a := redTree comb n (xs.take (2 ^ n)) 0
    let b := redTree comb n (xs.drop (2 ^ n)) 0
    let c := comb a.1 b.1
    redTree comb (n + 1) xs fl = (c.1, fl ||| a.2 ||| b.2 ||| c.2) := by
  have double : 2 ^ (n + 1) = 2 ^ n + 2 ^ n := by rw [pow_succ, mul_two]
  have halves := redTree_append (combOpt op ty ftz rnd) n (xs := xs.take (2 ^ n)) (ys := xs.drop (2 ^ n))
    (by rw [List.length_take]; omega) (by rw [List.length_drop]; omega) fl
  rwa [List.take_append_drop] at halves

/-- A lane of VSCAN is written where it is active, as an operand reads. -/
theorem laneN_scanOut (k : Mask) (va old : VWord) {i : Nat} (hi : i < lanesOf ty.bits) :
    let o := scanOut op ty rnd ftz k va
    laneN ((old &&& ~~~o.mask) ||| (o.val &&& o.mask)).toNat i ty.bits =
      if k.getLsbD i then
        asRead ty ftz (((scanTree (combOpt op ty ftz rnd) (Nat.log2 (lanesOf ty.bits)) 1 (redLanes ty k va) 0).1[i]?.getD none).getD 0) % 2 ^ ty.bits
      else laneN old.toNat i ty.bits := by
  intro o
  have fits : ty.bits * lanesOf ty.bits = 2048 := by cases ty <;> rfl
  have mask : laneN o.mask.toNat i ty.bits = _ := laneN_laneVec _ fits.le hi
  set lanes := (scanTree (combOpt op ty ftz rnd) (Nat.log2 (lanesOf ty.bits)) 1 (redLanes ty k va) 0).1 with hlanes
  have length : lanes.length = lanesOf ty.bits := by rw [hlanes, length_scanTree, redLanes, List.length_map, List.length_range]
  have inside : i < lanes.length := length ▸ hi
  have val : laneN o.val.toNat i ty.bits = asRead ty ftz (lanes[i].getD 0) % 2 ^ ty.bits :=
    laneN_foldr (g := fun v : Option Nat => asRead ty ftz (v.getD 0) % 2 ^ ty.bits) (fun _ => Nat.mod_lt _ (Nat.two_pow_pos _))
      (by rw [length, fits]) inside
  rw [List.getElem?_eq_getElem inside]
  split
  · next active =>
    rw [if_pos active, Nat.mod_eq_of_lt (Nat.sub_lt (Nat.two_pow_pos _) Nat.one_pos)] at mask
    exact (laneN_merge_of_ones mask).trans val
  · next inactive =>
    rw [if_neg inactive, Nat.zero_mod] at mask
    refine laneN_merge_of_zero ?_ mask
    have le : (i + 1) * ty.bits ≤ lanesOf ty.bits * ty.bits := Nat.mul_le_mul_right _ hi
    rw [Nat.succ_mul, Nat.mul_comm (lanesOf ty.bits), fits] at le
    exact le

end

end Sys2Proof.Proofs
end

section
/-! Proofs for 05_numbers.md: TLI (R161, R189), and what VCVT, QNT, SCACC, BSC, TLI, VRED and VSCAN make of their lanes. -/

namespace Sys2Proof.Proofs

open Sys2Proof Sys2Proof.Machine Sys2Proof.Safety Sys2Proof.Laws

/-! ## Overflow under the saturate bit (R161) -/

/-- A result that says it overflowed and is no finite number is an infinity. -/
def OverflowsToInf (f : Fmt) (r : Flagged Nat) : Prop :=
  r.2.getLsbD 2 = true → expField f r.1 = 2 ^ f.ew - 1 → ∃ neg, r.1 = f.infBits neg

section
variable {f : Fmt}

theorem overflowsToInf_of_noFlag {x : Nat} {fl : FFlags} (h : fl.getLsbD 2 = false) : OverflowsToInf f (x, fl) := fun flag =>
  absurd (h.symm.trans flag) Bool.false_ne_true

theorem getLsbD_ite {c : Prop} [Decidable c] {fl : FFlags} (h : fl.getLsbD 2 = false) : (if c then 0 else fl).getLsbD 2 = false := by
  split
  · decide
  · exact h

theorem roundF_overflowsToInf (hf : IsFormat f) (ftz : Bool) (rnd : Rnd) (zneg : Bool) {x : XReal} (hx : 0 < x.den) :
    OverflowsToInf f (roundF f ftz rnd zneg x) := by
  by_cases zero : exactly x = 0
  · rw [roundF_of_zero f ftz rnd zneg hx zero]
    exact overflowsToInf_of_noFlag (by decide)
  by_cases big : Overflows f rnd (exactly x)
  · rw [roundF_of_overflows ftz zneg hx zero big]
    intro _ last
    split at last
    · exact absurd last (finite_maxBits hf _).2
    · next other => exact ⟨_, if_neg other⟩
  by_cases tiny : Tiny f rnd (exactly x)
  · cases ftz with
    | true =>
      rw [roundF_true_of_tiny zneg hf hx zero tiny]
      exact overflowsToInf_of_noFlag (by decide)
    | false =>
      rw [roundF_false_of_tiny zneg hf hx zero tiny]
      exact overflowsToInf_of_noFlag (getLsbD_ite (by decide))
  · rw [roundF_of_normal ftz zneg hf hx zero tiny big]
    exact overflowsToInf_of_noFlag (getLsbD_ite (by decide))

theorem floatToFloat_overflowsToInf (hf : IsFormat f) (ftz : Bool) (rnd : Rnd) (v : FVal) : OverflowsToInf f (floatToFloat f ftz rnd v) := by
  cases v with
  | nan s => cases s <;> exact overflowsToInf_of_noFlag (by decide)
  | inf => exact overflowsToInf_of_noFlag (by decide)
  | fin neg m e => exact roundF_overflowsToInf hf ftz rnd neg (x := finReal neg m e) Nat.one_pos

theorem snd_satOverflow (f : Fmt) (sat : Bool) (r : Flagged Nat) : (satOverflow f sat r).2 = r.2 := by
  unfold satOverflow
  split <;> rfl

theorem satOverflow_saturated {r : Flagged Nat} (h : OverflowsToInf f r) (sat : Bool) : Saturated f sat r (satOverflow f sat r) := by
  have flag : ∀ fl : FFlags, ((fl &&& fOf) != 0) = fl.getLsbD 2 := by decide
  have infinite : ∀ neg, r.1 = f.infBits neg → expField f r.1 = 2 ^ f.ew - 1 := fun neg inf => inf ▸ expField_infBits neg
  refine ⟨snd_satOverflow f sat r, ?_⟩
  rw [satOverflow, flag]
  by_cases clamp : sat = true ∧ r.2.getLsbD 2 = true
  · rw [if_pos (Bool.and_eq_true_iff.2 clamp)]
    dsimp only
    by_cases last : expField f r.1 = 2 ^ f.ew - 1
    · rw [if_pos (show sat = true ∧ r.2.getLsbD 2 = true ∧ expField f r.1 = 2 ^ f.ew - 1 from ⟨clamp.1, clamp.2, last⟩)]
      obtain ⟨neg, inf⟩ := h clamp.2 last
      have differ : f.infBits true ≠ f.infBits false := fun same => by
        have sign := congrArg (signField f) same
        rw [signField_infBits, signField_infBits] at sign
        cases sign
      rw [inf, signField_infBits, decide_toNat_eq_one]
      cases neg
      · exact if_pos rfl
      · exact (if_neg differ).trans (if_pos rfl)
    · rw [if_neg (show ¬(sat = true ∧ r.2.getLsbD 2 = true ∧ expField f r.1 = 2 ^ f.ew - 1) from fun all => last all.2.2)]
      exact (if_neg (mt (infinite false) last)).trans (if_neg (mt (infinite true) last))
  · rw [if_neg (mt Bool.and_eq_true_iff.1 clamp), if_neg fun all => clamp ⟨all.1, all.2.1⟩]

end

/-! ## One element of TLI (R161, R189) -/

section
variable {df : Fmt} (hf : IsFormat df) (ftz sat : Bool) (rnd : Rnd)

/-- The result of TLI in a segment with this value and slope at the argument `t`: one rounding to FP32 and one to the destination. -/
def Interpolates (df : Fmt) (ftz : Bool) (rnd : Rnd) (sat : Bool) (value slope : Nat) (t : ℚ) (r : Flagged Nat) : Prop :=
  ∀ a m e b j d, decodeF fp32 ftz slope = .fin a m e → decodeF fp32 ftz value = .fin b j d →
    ∃ zneg r1 r2 r3, RoundsTo fp32 ftz rnd zneg (datum (.fin b j d) + datum (.fin a m e) * t) r1 ∧ Saturated fp32 sat r1 r2
      ∧ (df = fp32 → r3 = (r2.1, 0)) ∧ (df ≠ fp32 → r3 = floatToFloat df ftz rnd (decodeF fp32 false r2.1))
      ∧ Saturated df sat r3 (r.1, r3.2) ∧ r.2 = r2.2 ||| r3.2

include hf in
theorem tliExact_interpolates (value slope : Nat) {t : XReal} (ht : 0 < t.den) {q : ℚ} (hq : exactly t = q) :
    Interpolates df ftz rnd sat value slope q (tliExact df ftz rnd sat value slope t) := by
  intro a m e b j d hslope hvalue
  simp only [tliExact, hslope, hvalue]
  have den : 0 < (((finReal a m e).mul t).add (finReal b j d)).den := den_add (den_mul Nat.one_pos ht) Nat.one_pos
  have sum : exactly (((finReal a m e).mul t).add (finReal b j d)) = datum (.fin b j d) + datum (.fin a m e) * q := by
    rw [exactly_add (den_mul Nat.one_pos ht) Nat.one_pos, exactly_mul, exactly_finReal, exactly_finReal, hq, add_comm]
  refine ⟨_, _, _, _, roundF_roundsTo fp32 ftz rnd den sum, satOverflow_saturated (roundF_overflowsToInf isFormat_fp32 ftz rnd _ den) sat,
    fun same => if_pos same, fun other => if_neg other, ?_, by rw [snd_satOverflow df]⟩
  have clean : ∀ y : Nat, OverflowsToInf df (if df = fp32 then (y, 0) else floatToFloat df ftz rnd (decodeF fp32 false y)) := fun y => by
    split
    · exact overflowsToInf_of_noFlag (by decide)
    · exact floatToFloat_overflowsToInf hf ftz rnd _
  exact ⟨rfl, (satOverflow_saturated (clean _) sat).2⟩

/-- The position of an argument in a table, in steps from its start. -/
def tliPoint (tb : TliTable) (x x0 : XReal) : XReal := (x.add x0.neg).mul ⟨1, 1, -tb.step⟩

theorem den_tliPoint {tb : TliTable} {x x0 : XReal} (hx : 0 < x.den) (hx0 : 0 < x0.den) : 0 < (tliPoint tb x x0).den :=
  den_mul (den_add (y := x0.neg) hx hx0) Nat.one_pos

theorem exactly_tliPoint {tb : TliTable} {x x0 : XReal} (hx : 0 < x.den) (hx0 : 0 < x0.den) :
    exactly (tliPoint tb x x0) = (exactly x - exactly x0) / (2 : ℚ) ^ tb.step := by
  rw [tliPoint, exactly_mul, exactly_add (y := x0.neg) hx hx0, exactly_neg, ← sub_eq_add_neg, div_eq_mul_inv, ← zpow_neg]
  simp [exactly]

theorem exactly_int (n : Int) : exactly ⟨n, 1, 0⟩ = n := by simp [exactly]

/-- The tail of a table beyond one of its ends. -/
def tliTail (df : Fmt) (ftz : Bool) (rnd : Rnd) (sat : Bool) (tb : TliTable) (low : Bool) (u : XReal) (v : FVal) : Flagged Nat :=
  let i := if low then 0 else tb.n - 1
  match if low then tb.lo else tb.hi with
  | 0 => tliExact df ftz rnd sat (tb.entry i).1 (tb.entry i).2 ⟨if low then 0 else 1, 1, 0⟩
  | 1 => satOverflow df sat (floatToFloat df ftz rnd v)
  | 2 => (0, 0)
  | _ => tliExact df ftz rnd sat (tb.entry i).1 (tb.entry i).2 (if low then u else u.add ⟨-(tb.n - 1 : Int), 1, 0⟩)

include hf in
theorem tliTail_spec (tb : TliTable) (low : Bool) {u : XReal} (hu : 0 < u.den) (v : FVal) :
    let r := tliTail df ftz rnd sat tb low u v
    let code := if low then tb.lo else tb.hi
    let i := if low then 0 else tb.n - 1
    let at_ (t : ℚ) : Prop := Interpolates df ftz rnd sat (tb.entry i).1 (tb.entry i).2 t r
    (code = 0 → at_ (if low then 0 else 1)) ∧ (code = 2 → r = (0, 0)) ∧ (code = 3 → at_ (if low then exactly u else exactly u - (tb.n - 1)))
      ∧ (code = 1 → Saturated df sat (floatToFloat df ftz rnd v) r) := by
  intro r code i at_
  have tail : r = match code with
    | 0 => tliExact df ftz rnd sat (tb.entry i).1 (tb.entry i).2 ⟨if low then 0 else 1, 1, 0⟩
    | 1 => satOverflow df sat (floatToFloat df ftz rnd v)
    | 2 => (0, 0)
    | _ => tliExact df ftz rnd sat (tb.entry i).1 (tb.entry i).2 (if low then u else u.add ⟨-(tb.n - 1 : Int), 1, 0⟩) := rfl
  have segment := fun {t : XReal} (ht : 0 < t.den) {q : ℚ} => tliExact_interpolates hf ftz sat rnd (tb.entry i).1 (tb.entry i).2 ht (q := q)
  refine ⟨fun h => ?_, fun h => ?_, fun h => ?_, fun h => ?_⟩ <;> rw [h] at tail
  · refine (congrArg (Interpolates df ftz rnd sat _ _ _) tail).mpr (segment Nat.one_pos ?_)
    cases low
    · exact exactly_int 1
    · exact exactly_int 0
  · exact tail
  · refine (congrArg (Interpolates df ftz rnd sat _ _ _) tail).mpr ?_
    cases low
    · refine segment (den_add hu Nat.one_pos) ?_
      rw [exactly_add hu Nat.one_pos, exactly_int]
      push_cast
      ring
    · exact segment hu rfl
  · rw [tail]
    exact satOverflow_saturated (floatToFloat_overflowsToInf hf ftz rnd v) sat

section
variable {ftz sat rnd} {tb : TliTable} {x : Nat} {a b : Bool} {m j : Nat} {e d : Int}

theorem tliElem_of_fin (hx0 : decodeF fp32 ftz tb.x0 = .fin a m e) (hx : decodeF fp32 ftz x = .fin b j d) :
    tliElem df ftz rnd sat tb x =
      (let u := tliPoint tb (finReal b j d) (finReal a m e)
       if u.num < 0 then tliTail df ftz rnd sat tb true u (.fin b j d)
       else if (u.add ⟨-(tb.n : Int), 1, 0⟩).num < 0 then
         tliExact df ftz rnd sat (tb.entry u.floor.toNat).1 (tb.entry u.floor.toNat).2 (u.add ⟨-u.floor, 1, 0⟩)
       else tliTail df ftz rnd sat tb false u (.fin b j d)) := by
  simp only [tliElem, hx0, hx]
  rfl

include hf in
theorem tliElem_spec (hx0 : decodeF fp32 ftz tb.x0 = .fin a m e) (hx : decodeF fp32 ftz x = .fin b j d) :
    let r := tliElem df ftz rnd sat tb x
    let p : ℚ := (datum (.fin b j d) - datum (.fin a m e)) / (2 : ℚ) ^ tb.step
    let at_ (i : Nat) (t : ℚ) : Prop := Interpolates df ftz rnd sat (tb.entry i).1 (tb.entry i).2 t r
    (0 ≤ p → p < tb.n → at_ ⌊p⌋.toNat (p - ⌊p⌋))
      ∧ (p < 0 → (tb.lo = 0 → at_ 0 0) ∧ (tb.lo = 2 → r = (0, 0)) ∧ (tb.lo = 3 → at_ 0 p)
        ∧ (tb.lo = 1 → Saturated df sat (floatToFloat df ftz rnd (.fin b j d)) r))
      ∧ (tb.n ≤ p → (tb.hi = 0 → at_ (tb.n - 1) 1) ∧ (tb.hi = 2 → r = (0, 0)) ∧ (tb.hi = 3 → at_ (tb.n - 1) (p - (tb.n - 1)))
        ∧ (tb.hi = 1 → Saturated df sat (floatToFloat df ftz rnd (.fin b j d)) r)) := by
  intro r p at_
  have den : 0 < (tliPoint tb (finReal b j d) (finReal a m e)).den := den_tliPoint Nat.one_pos Nat.one_pos
  have point : exactly (tliPoint tb (finReal b j d) (finReal a m e)) = p := by
    rw [exactly_tliPoint Nat.one_pos Nat.one_pos, exactly_finReal, exactly_finReal]
  have result : r = _ := tliElem_of_fin hx0 hx
  set u := tliPoint tb (finReal b j d) (finReal a m e)
  have below : u.num < 0 ↔ p < 0 := by rw [← exactly_neg_iff den, point]
  have shifted : ∀ n : Int, exactly (u.add ⟨-n, 1, 0⟩) = p - n := fun n => by
    rw [exactly_add den Nat.one_pos, point, exactly_int, Int.cast_neg, sub_eq_add_neg]
  have inside : (u.add ⟨-(tb.n : Int), 1, 0⟩).num < 0 ↔ p < tb.n := by
    rw [← exactly_neg_iff (den_add den Nat.one_pos), shifted, sub_neg, Int.cast_natCast]
  have floor : u.floor = ⌊p⌋ := by rw [floor_eq_floor_exactly den, point]
  refine ⟨fun nonneg less => ?_, fun neg => ?_, fun beyond => ?_⟩
  · have segment : r = tliExact df ftz rnd sat (tb.entry u.floor.toNat).1 (tb.entry u.floor.toNat).2 (u.add ⟨-u.floor, 1, 0⟩) := by
      rw [result]
      exact (if_neg (not_lt.2 nonneg ∘ below.1)).trans (if_pos (inside.2 less))
    change Interpolates df ftz rnd sat _ _ _ r
    rw [segment, floor]
    exact tliExact_interpolates hf ftz sat rnd _ _ (den_add den Nat.one_pos) (shifted _)
  · have tail : r = tliTail df ftz rnd sat tb true u (.fin b j d) := by
      rw [result]
      exact if_pos (below.2 neg)
    have spec := tliTail_spec hf ftz sat rnd tb true den (.fin b j d)
    rwa [← tail, point] at spec
  · have tail : r = tliTail df ftz rnd sat tb false u (.fin b j d) := by
      rw [result]
      exact (if_neg (not_lt.2 ((Nat.cast_nonneg _).trans beyond) ∘ below.1)).trans (if_neg (not_lt.2 beyond ∘ inside.1))
    have spec := tliTail_spec hf ftz sat rnd tb false den (.fin b j d)
    rwa [← tail, point] at spec

theorem tliElem_of_nan {s : Bool} (hx0 : decodeF fp32 ftz tb.x0 = .fin a m e) (hx : decodeF fp32 ftz x = .nan s) :
    tliElem df ftz rnd sat tb x = (df.nan, if s then fNv else 0) := by
  simp only [tliElem, hx0, hx]

end
end

/-- BSC takes the data of the active lanes and writes all of its register (R183). -/
theorem bscOut_eq (ty : ElemTy) (ftz : Bool) (k : Mask) (va : VWord) (p1 : BitVec 3) :
    let r := bscExp (p1.toNat + 1) (((List.range (lanesOf ty.bits)).filter fun i => k.getLsbD i).map fun i => laneF ty ftz va i)
    bscOut ty p1 ftz k va = { mask := BitVec.allOnes 2048, val := BitVec.ofNat 2048 (wrapN 8 r.1), flags := r.2 } := by
  have active : ((upTo (lanesOf ty.bits)).filterMap fun i => if k.getLsbD i then some (laneF ty ftz va i) else none)
      = ((List.range (lanesOf ty.bits)).filter fun i => k.getLsbD i).map fun i => laneF ty ftz va i := by
    rw [← List.filterMap_eq_filter, List.map_filterMap]
    refine List.filterMap_congr fun i _ => ?_
    cases active : k.getLsbD i <;> simp [Option.guard, active]
  rw [bscOut, active]

/-- Settles O37: every element is the rounding of its exact value, lanes combine as the trees do, and a masked write leaves the other lanes. -/
theorem conversionsAndReductions : Obligations.ConversionsAndReductions := by
  intro src dst ftz sat rnd x y adj q ea eb tb vs planes op k xs n fl va vb vc old v df u w cvt zero limit
  refine ⟨cvtElem_float_int_spec src dst ftz sat rnd x, cvtElem_int_float_spec src dst ftz sat rnd x, cvtElem_int_int_spec src dst ftz sat rnd x,
    fun float float' narrow other => ?_, fun member wide finite _ => cvtElem_exact src dst ftz sat rnd x member wide finite,
    floatToFloat_spec ftz rnd df v, fun _ => qntElem_spec dst ftz rnd x y, fun absent => if_pos absent, scaccElem_spec ftz rnd adj q x,
    fun i hi => laneN_scaccOut rnd adj ftz k va vb vc old hi, fun hp => bscExp_spec hp vs, ?_, ?_, bscOut_eq src ftz k va⟩
  · have kept : (ftz && !(dst == .fp32) && !(dst == src)) = ftz := by
      rw [beq_false_of_ne narrow, beq_false_of_ne other, Bool.not_false, Bool.and_true, Bool.and_true]
    exact (cvtElem_float_float src dst ftz sat rnd x float float').trans (by rw [kept])
  · exact ⟨fun s a m e hx0 hx => tliElem_of_nan hx0 hx, fun a m e b j d hx0 hx _ => by
      have spec := tliElem_spec (rnd := rnd) (sat := sat) (isFormat_fmtOf dst) hx0 hx
      rwa [← hx0, ← hx] at spec⟩
  · refine ⟨rfl, rfl, fun int => (combOpt_of_int op src ftz rnd x y int).1, fun int => (combOpt_of_int op src ftz rnd x y int).2.1,
      fun int => (combOpt_of_int op src ftz rnd x y int).2.2, combOpt_of_float op src ftz rnd x y,
      fun length => redTree_halves op src ftz rnd n length fl,
      getElem?_scanTree_combOpt op src ftz rnd n xs fl, asRead_of_int src ftz x, asRead_float_spec src ftz x, rfl, rfl, rfl, elemVal_emptyRed src,
      decodeF_emptyRed src ftz, rfl, fun i hi => laneN_scanOut op src ftz rnd k va old hi⟩

end Sys2Proof.Proofs
end

section
/-! Proofs for 06_vector.md: the results of the vector slot, each by its rule (R170 to R189, 07_scratchpad.md R209). -/

namespace Sys2Proof.Proofs

open Sys2Proof Sys2Proof.Machine Sys2Proof.Safety Sys2Proof.Laws

/-- Settles O10: every such syllable only sends the lanes of its rule to its vector register. -/
theorem integerLaneResults : Obligations.IntegerLaneResults :=
  fun _ _ _ _ rule ready => exec_of_registerOp (registerOp_of_laneRule rule) ready

/-- Of the syllables with such a rule VSTP alone stores (R209). -/
theorem vstp_or_stores_nothing_of_vectorRule {s u : State} {i : Instr} {h : Hdr} (rule : vectorRule s i = some (h, u)) :
    storesTile i = false ∨ ∃ v page, i = .vstp h v page := by
  cases i
  case vext | vins | vcmp | kop | vred | vscan | pln | upl | vfadd | vfsub | vfmul | vfma | vfmin | vfmax | vfdiv | vfrnd | vfcmpK | vfcmpP
      | vcvt | qnt | bsc | scacc | tli | vldp => exact .inl rfl
  case vstp => cases rule; exact .inr ⟨_, _, rfl⟩
  all_goals cases rule

/-- Settles O12: a syllable that stores nothing only sends its rule's result to a register, and VSTP only writes its page. -/
theorem vectorResults : Obligations.VectorResults := by
  intro s i h t rule ready
  obtain plain | ⟨v, page, rfl⟩ := vstp_or_stores_nothing_of_vectorRule rule
  · exact exec_of_registerOp (registerOp_of_vectorRule rule plain) ready
  · cases rule
    exact run_of_plain (o := vstpOp h v page) ready rfl rfl rfl rfl fun _ => rfl

end Sys2Proof.Proofs
end

section
/-! Proofs for 06_vector.md: the lanes that a masked write leaves (R164), and the planes of PLN and UPL (R184). -/

namespace Sys2Proof.Proofs

open Sys2Proof Sys2Proof.Machine Sys2Proof.Safety Sys2Proof.Laws

/-! ## Merging and zeroing (R164) -/

theorem lane_end_le {w n i bits : Nat} (fits : w * n ≤ bits) (hi : i < n) : i * w + w ≤ bits :=
  calc i * w + w = w * (i + 1) := by rw [Nat.mul_succ, Nat.mul_comm]
    _ ≤ w * n := Nat.mul_le_mul_left w hi
    _ ≤ bits := fits

/-- A mask of the first `n` lanes is all ones in each of them. -/
theorem laneN_ones {w n i : Nat} (fits : w * n ≤ 2048) (hi : i < n) : laneN (BitVec.ofNat 2048 (2 ^ (w * n) - 1)).toNat i w = 2 ^ w - 1 := by
  refine Nat.eq_of_testBit_eq fun j => ?_
  rw [testBit_laneN, BitVec.getLsbD_ofNat, Nat.testBit_two_pow_sub_one, Nat.testBit_two_pow_sub_one]
  have inside : i * w + w ≤ w * n := lane_end_le le_rfl hi
  by_cases hj : j < w
  · simp only [hj, show i * w + j < 2048 by omega, show i * w + j < w * n by omega, decide_true, Bool.and_true]
  · simp only [hj, decide_false, Bool.false_and]

section
variable {w n i : Nat} (k : Mask) (z : Bool) (f : Nat → Flagged Nat) (fits : w * n ≤ 2048) (hi : i < n)
include fits hi

/-- An active lane has the low bits of its element, and an inactive one zero. -/
theorem laneN_lanesOut_val : laneN (lanesOut w n k z false f).val.toNat i w = if k.getLsbD i then (f i).1 % 2 ^ w else 0 := by
  have pos := Nat.two_pow_pos w
  have lane : laneN (lanesOut w n k z false f).val.toNat i w = _ := laneN_foldr (by
    rintro (_ | v)
    · exact pos
    · exact Nat.mod_lt _ pos) (by simpa using fits) (by simpa using hi)
  rw [lane, List.getElem_map, List.getElem_range]
  cases k.getLsbD i <;> rfl

/-- The lanes written are all of them under the zero bit, and the active ones without it. -/
theorem laneN_lanesOut_mask : laneN (lanesOut w n k z false f).mask.toNat i w = if z || k.getLsbD i then 2 ^ w - 1 else 0 := by
  cases z
  case true => exact laneN_ones fits hi
  case false =>
    have pos := Nat.two_pow_pos w
    have lane : laneN (lanesOut w n k false false f).mask.toNat i w = _ := laneN_foldr (by
      rintro (_ | v)
      · exact pos
      · exact Nat.sub_lt pos Nat.one_pos) (by simpa using fits) (by simpa using hi)
    rw [lane, List.getElem_map, List.getElem_range]
    cases k.getLsbD i <;> rfl

/-- What a masked write leaves of a lane. -/
theorem laneN_lanesOut_merge (old : VWord) :
    let o := lanesOut w n k z false f
    laneN ((old &&& ~~~o.mask) ||| (o.val &&& o.mask)).toNat i w =
      if k.getLsbD i then (f i).1 % 2 ^ w else if z then 0 else laneN old.toNat i w := by
  intro o
  have mask := laneN_lanesOut_mask k z f fits hi
  have val := laneN_lanesOut_val k z f fits hi
  by_cases written : (z || k.getLsbD i) = true
  · rw [if_pos written] at mask
    rw [laneN_merge_of_ones mask, val]
    split
    · rfl
    · next inactive => rw [if_pos (by simpa [inactive] using written)]
  · rw [if_neg written] at mask
    rw [laneN_merge_of_zero (lane_end_le fits hi) mask]
    rw [Bool.not_eq_true, Bool.or_eq_false_iff] at written
    rw [written.1, written.2, if_neg Bool.false_ne_true, if_neg Bool.false_ne_true]

end

/-! ## Planes (R184) -/

theorem bits_mul_lanesOf (ty : ElemTy) : ty.bits * lanesOf ty.bits = 2048 := by cases ty <;> rfl

/-- Planes are no more than the bits of the narrowest lane, so that P planes fit a register. -/
theorem plane_lt_bits (ty : ElemTy) (p1 : BitVec 3) : p1.toNat < ty.bits :=
  p1.isLt.trans_le (by cases ty <;> decide)

/-- A number packed from bits has them. -/
theorem testBit_packed_one (n : Nat) (b : Nat → Bool) (i : Nat) :
    (packed 1 ((List.range n).map fun j => (b j).toNat)).testBit i = (decide (i < n) && b i) := by
  have small : ∀ a ∈ (List.range n).map fun j => (b j).toNat, a < 2 ^ 1 := fun a ha => by
    obtain ⟨j, -, rfl⟩ := List.mem_map.1 ha
    exact Bool.toNat_lt _
  have lane := laneN_packed small i
  rw [laneN, Nat.mul_one, Nat.shiftRight_eq_div_pow, pow_one] at lane
  rw [Nat.testBit_eq_decide_div_mod_eq, lane]
  by_cases hi : i < n <;> simp [hi]

/-- Plane `j` of PLN: bit P−1−j of each lane. -/
def plane (ty : ElemTy) (p1 : BitVec 3) (x : VWord) (j : Nat) : Nat :=
  packed 1 ((List.range (lanesOf ty.bits)).map fun i => (x.getLsbD (i * ty.bits + (p1.toNat - j))).toNat)

theorem plane_lt (ty : ElemTy) (p1 : BitVec 3) (x : VWord) (j : Nat) : plane ty p1 x j < 2 ^ lanesOf ty.bits := by
  refine Nat.lt_of_lt_of_eq (packed_lt fun a ha => ?_) (by simp)
  obtain ⟨i, -, rfl⟩ := List.mem_map.1 ha
  exact Bool.toNat_lt _

theorem plnValue_eq (ty : ElemTy) (p1 : BitVec 3) (x : VWord) :
    plnValue ty p1 x = BitVec.ofNat 2048 (packed (lanesOf ty.bits) ((List.range (p1.toNat + 1)).map (plane ty p1 x))) := by
  have planes (j : Nat) :
      (upTo (lanesOf ty.bits)).foldr (fun i y => (x.toNat >>> (i * ty.bits + (p1.toNat - j))) % 2 + 2 * y) 0 = plane ty p1 x j := by
    rw [plane, ← packed_map]
    simp only [← BitVec.testBit_toNat, Nat.toNat_testBit, Nat.shiftRight_eq_div_pow, pow_one]
  simp only [plnValue, planes, packed_map]

theorem getLsbD_plnValue (ty : ElemTy) (p1 : BitVec 3) (x : VWord) (j : Nat) {i : Nat} (hi : i < lanesOf ty.bits) :
    (plnValue ty p1 x).getLsbD (j * lanesOf ty.bits + i) = (decide (j ≤ p1.toNat) && x.getLsbD (i * ty.bits + (p1.toNat - j))) := by
  have small : ∀ a ∈ (List.range (p1.toNat + 1)).map (plane ty p1 x), a < 2 ^ lanesOf ty.bits := fun a ha => by
    obtain ⟨j, -, rfl⟩ := List.mem_map.1 ha
    exact plane_lt ty p1 x j
  have fits : lanesOf ty.bits * ((List.range (p1.toNat + 1)).map (plane ty p1 x)).length ≤ 2048 := by
    rw [List.length_map, List.length_range, ← bits_mul_lanesOf ty, Nat.mul_comm ty.bits]
    exact Nat.mul_le_mul_left _ (plane_lt_bits ty p1)
  have lane := congrArg (·.testBit i) (laneN_ofNat_packed small fits j)
  simp only [testBit_laneN, hi, decide_true, Bool.true_and, ← plnValue_eq] at lane
  rw [lane]
  by_cases hj : j ≤ p1.toNat
  · simp [hj, Nat.lt_succ_of_le hj, plane, testBit_packed_one, hi]
  · simp [hj, show ¬j < p1.toNat + 1 by omega]

/-- The bits of PLN are those of the lanes. -/
theorem planeBit_plnValue (ty : ElemTy) (p1 : BitVec 3) (x : VWord) {i j : Nat} (hi : i < lanesOf ty.bits) (hj : j ≤ p1.toNat) :
    ((plnValue ty p1 x).toNat >>> (j * lanesOf ty.bits + i)) % 2 = laneN x.toNat i ty.bits / 2 ^ (p1.toNat - j) % 2 := by
  have inside := plane_lt_bits ty p1
  rw [Nat.shiftRight_eq_div_pow, ← Nat.toNat_testBit, ← Nat.toNat_testBit, BitVec.testBit_toNat, getLsbD_plnValue ty p1 x j hi,
    testBit_laneN, decide_eq_true hj, decide_eq_true (show p1.toNat - j < ty.bits by omega)]

/-- The bits of `v` below bit `p + 1`, read from the top, are a remainder. -/
theorem foldl_bits (v p : Nat) {m : Nat} (hm : m ≤ p + 1) :
    (List.range m).foldl (fun acc j => 2 * acc + v / 2 ^ (p - j) % 2) 0 = v / 2 ^ (p + 1 - m) % 2 ^ m := by
  induction m with
  | zero => rw [pow_zero, Nat.mod_one]; rfl
  | succ m ih =>
    have above : v / 2 ^ (p + 1 - m) = v / 2 ^ (p - m) / 2 := by
      rw [Nat.div_div_eq_div_mul, ← pow_succ, show p - m + 1 = p + 1 - m by omega]
    rw [List.range_succ, List.foldl_append, List.foldl_cons, List.foldl_nil, ih (by omega), above, Nat.add_sub_add_right,
      pow_succ', Nat.mod_mul, Nat.add_comm]

/-- UPL gathers the bits that PLN has spread. -/
theorem foldl_planeBits (ty : ElemTy) (p1 : BitVec 3) (x : VWord) {i : Nat} (hi : i < lanesOf ty.bits) :
    (List.range (p1.toNat + 1)).foldl (fun acc j => 2 * acc + ((plnValue ty p1 x).toNat >>> (j * lanesOf ty.bits + i)) % 2) 0 =
      laneN x.toNat i ty.bits % 2 ^ (p1.toNat + 1) := by
  have bits := foldl_bits (laneN x.toNat i ty.bits) p1.toNat le_rfl
  rw [Nat.sub_self, pow_zero, Nat.div_one] at bits
  rw [← bits]
  refine List.foldl_ext _ _ _ fun acc j hj => ?_
  rw [planeBit_plnValue ty p1 x hi (by simpa [Nat.lt_succ_iff] using hj)]

/-- A field with its top bit weighted negatively is its signed reading. -/
theorem sextN_succ (p v : Nat) :
    sextN (p + 1) v = if v / 2 ^ p % 2 = 1 then ((v % 2 ^ (p + 1) : Nat) : Int) - 2 ^ (p + 1) else ((v % 2 ^ (p + 1) : Nat) : Int) := by
  have low := Nat.mod_lt v (Nat.two_pow_pos p)
  have split := Nat.mod_pow_succ (x := v) (b := 2) (k := p)
  rw [sextN, Nat.add_sub_cancel]
  rcases Nat.mod_two_eq_zero_or_one (v / 2 ^ p) with top | top
  · rw [top, Nat.mul_zero, Nat.add_zero] at split
    rw [if_pos (split ▸ low), if_neg (by omega)]
    norm_cast
  · rw [top, Nat.mul_one] at split
    rw [if_neg (by omega), if_pos top]
    norm_cast

theorem wrapN_lt (w : Nat) (v : Int) : wrapN w v < 2 ^ w := by
  have pos : (0 : Int) < 2 ^ w := by positivity
  have := Int.emod_lt_of_pos v pos
  rw [wrapN, Int.toNat_lt (Int.emod_nonneg _ pos.ne')]
  exact_mod_cast this

theorem wrapN_natCast (w v : Nat) : wrapN w v = v % 2 ^ w := by
  rw [wrapN, ← Nat.cast_ofNat, ← Nat.cast_pow, ← Int.natCast_mod, Int.toNat_natCast]

theorem laneN_uplValue (ty : ElemTy) (p1 : BitVec 3) (u : Bool) (x : VWord) {i : Nat} (hi : i < lanesOf ty.bits) :
    laneN (uplValue ty p1 u (plnValue ty p1 x)).toNat i ty.bits =
      wrapN ty.bits (if u then ((laneN x.toNat i ty.bits % 2 ^ (p1.toNat + 1) : Nat) : Int) else
        sextN (p1.toNat + 1) (laneN x.toNat i ty.bits)) := by
  have top := planeBit_plnValue ty p1 x hi (Nat.zero_le _)
  rw [Nat.zero_mul, Nat.zero_add, Nat.sub_zero] at top
  rw [uplValue, laneN_laneVec _ (bits_mul_lanesOf ty).le hi, Nat.mod_eq_of_lt (wrapN_lt _ _), foldl_planeBits ty p1 x hi, top, sextN_succ]
  cases u <;> simp

/-- Settles O11: a lane of a masked write is told by its mask and the zero bit, and UPL gathers the bits of a lane that PLN has spread. -/
theorem lanesMergeAndPlanesJoin : Obligations.LanesMergeAndPlanesJoin := by
  refine ⟨fun w n k z f old i _ fits hi => laneN_lanesOut_merge k z f fits hi old, fun ty p1 x _ =>
    ⟨fun j i hi => getLsbD_plnValue ty p1 x j hi, fun i hi => ⟨?_, laneN_uplValue ty p1 false x hi⟩⟩⟩
  have short : laneN x.toNat i ty.bits % 2 ^ (p1.toNat + 1) < 2 ^ ty.bits :=
    (Nat.mod_lt _ (Nat.two_pow_pos _)).trans_le (Nat.pow_le_pow_right two_pos (plane_lt_bits ty p1))
  rw [laneN_uplValue ty p1 true x hi, if_pos rfl, wrapN_natCast, Nat.mod_eq_of_lt short]

end Sys2Proof.Proofs
end

section
/-! Proofs for 07_scratchpad.md: vector loads and stores, alone and beside an STS (R195, R206 to R208, R290). -/

namespace Sys2Proof.Proofs

open Sys2Proof Sys2Proof.Machine Sys2Proof.Safety Sys2Proof.Laws

/-! ## Two syllables of one bundle (R43) -/

section

variable {o1 o2 : SlotOp} {s : State}

theorem firstOf_pair_eq_none {f : SlotOp → State → Option TFault} (h : firstOf f [o1, o2] s = none) : f o1 s = none ∧ f o2 s = none := by
  simp only [firstOf, firstFault] at h
  cases first : f o1 s with
  | some e => simp [first] at h
  | none =>
    cases second : f o2 s with
    | some e => simp [first, second] at h
    | none => exact ⟨rfl, rfl⟩

theorem guarded_pair_on (on1 : readP s.tile o1.hdr.guard = true) (on2 : readP s.tile o2.hdr.guard = true) : guarded [o1, o2] s = [o1, o2] := by
  simp [guarded, SlotOp.on, on1, on2]

/-- The higher slot acts on what the effect of the lower one leaves. -/
theorem issueNow_pair (on1 : readP s.tile o1.hdr.guard = true) (on2 : readP s.tile o2.hdr.guard = true) (post1 : ∀ t, o1.post s t = t)
    (post2 : ∀ t, o2.post s t = t) :
    issueNow [o1, o2] s = endCycle (isPoint [o1, o2]) s (advance s (o2.eff s (o1.eff s s))) := by
  simp only [issueNow, guarded_pair_on on1 on2, List.foldl_cons, List.foldl_nil, post1, post2]

theorem issueOps_pair (on1 : readP s.tile o1.hdr.guard = true) (on2 : readP s.tile o2.hdr.guard = true)
    (settled : interlocked s.tile.regs = false) (free : isHeld [o1, o2] s = false)
    (banks : s.tile.ctl.bankLeft.getD (bankHold (o1.access s ++ o2.access s)) = 0) (again1 : o1.again s = false) (again2 : o2.again s = false)
    (five : firstOf SlotOp.fault5 [o1, o2] s = none) (six : firstOf SlotOp.fault6 [o1, o2] s = none) :
    issueOps [o1, o2] s = issueNow [o1, o2] s := by
  have both := guarded_pair_on on1 on2
  obtain ⟨five1, five2⟩ := firstOf_pair_eq_none five
  obtain ⟨six1, six2⟩ := firstOf_pair_eq_none six
  refine issueOps_of_clear settled free ?_ ?_ ?_ <;> rw [both]
  · simp [again1, again2]
  · simpa using banks
  · simp [five1, five2, six1, six2]

end

/-! ## A vector access as its slot executes it -/

theorem bits_div_eight_pos (ty : ElemTy) : 0 < ty.bits / 8 := by cases ty <;> decide

/-- The bytes of an element are at least one. -/
theorem vmemForm_size_pos {i : Instr} {h : Hdr} {m al : Nat} {load : Bool} (form : vmemForm i = some (h, m, al, load)) : 0 < m := by
  cases i with
  | vld _ ty | vst _ ty | vlds _ ty | vsts _ ty => cases form; exact bits_div_eight_pos ty
  | vgath | vscat => cases form; decide
  | _ => cases form

/-- What a vector access does, with its operands in `s`, to the state `u` that the lower slots of its bundle leave: a load takes its bytes
from `s`, a store writes over those of `u` (R195, R207). -/
def vmemEffect (s : State) (i : Instr) (u : State) : State :=
  match i with
  | .vld _ ty _ d _ _ | .vlds _ ty _ d _ _ _ => toV s 5 d (loadElems s.tile.mem ty.bits (vmemElems s i)) u
  | .vgath _ _ _ d _ _ _ => toV s 5 d (loadElems s.tile.mem 32 (vmemElems s i)) u
  | .vst _ ty _ v _ _ | .vsts _ ty _ v _ _ _ => onMem (storeElems ty.bits (readV s.tile.regs v) (vmemElems s i)) u
  | .vscat _ _ _ v _ _ _ => onMem (storeElems 32 (readV s.tile.regs v) (vmemElems s i)) u
  | _ => u

/-- The operation of a vector access of elements of `m` bytes: no point bundle, no wait of its own, nothing after its bundle. -/
structure VmemOp (s : State) (i : Instr) (h : Hdr) (m : Nat) (load : Bool) (o : SlotOp) : Prop where
  op     : slotOp i = some o
  hdr    : o.hdr = h
  point  : o.point = false
  wait   : o.wait s = false
  again  : o.again s = false
  post   : ∀ t, o.post s t = t
  access : o.access s = elemsAccess m (!load) (vmemElems s i)
  fault6 : o.fault6 s = if load then elemsPoison s.tile m (vmemElems s i) else none
  eff    : ∀ u, o.eff s u = vmemEffect s i u

theorem vmemOp_of_form {i : Instr} {h : Hdr} {m al : Nat} {load : Bool} (s : State) (form : vmemForm i = some (h, m, al, load)) :
    ∃ o, VmemOp s i h m load o := by
  cases i with
  | vld | vst | vlds | vsts | vgath | vscat =>
    cases form
    exact ⟨_, rfl, rfl, rfl, rfl, rfl, fun _ => rfl, rfl, rfl, fun _ => rfl⟩
  | _ => cases form

/-- Every element is aligned to `al` and inside the program area (R207, R208). -/
def ElemsInReach (s : State) (i : Instr) (m al : Nat) : Prop := ∀ e ∈ vmemElems s i, InReach s.tile e.2 m al

/-- Every check of R207 and R208 passes. -/
structure VmemPasses (s : State) (i : Instr) (m al : Nat) (load : Bool) : Prop where
  start : (vmemStart s i).toNat % 64 = 0
  reach : ElemsInReach s i m al
  clean : load = true → ∀ e ∈ vmemElems s i, firstPoison s.tile.mem e.2.toNat m = none

section

variable {s : State} {i : Instr} {m al : Nat} {aligned : Bool}

theorem elemsInReach_of_all (reach : ((vmemElems s i).all fun e => decide (e.2.toNat % al = 0) && inProg s.tile e.2.toNat m) = true) :
    ElemsInReach s i m al := by
  intro e he
  have inside := List.all_eq_true.mp reach e he
  rw [Bool.and_eq_true, decide_eq_true_eq, inProg, decide_eq_true_eq] at inside
  exact inside

theorem vmemPasses_store (start : aligned = true → (vmemStart s i).toNat % 64 = 0)
    (checks : (aligned && (vmemElems s i).all fun e => decide (e.2.toNat % al = 0) && inProg s.tile e.2.toNat m) = true) :
    VmemPasses s i m al false := by
  obtain ⟨first, reach⟩ := Bool.and_eq_true_iff.mp checks
  exact ⟨start first, elemsInReach_of_all reach, fun loads => absurd loads Bool.false_ne_true⟩

theorem vmemPasses_load (start : aligned = true → (vmemStart s i).toNat % 64 = 0)
    (checks : ((aligned && (vmemElems s i).all fun e => decide (e.2.toNat % al = 0) && inProg s.tile e.2.toNat m)
      && (vmemElems s i).all fun e => (firstPoison s.tile.mem e.2.toNat m).isNone) = true) : VmemPasses s i m al true := by
  obtain ⟨placed, clean⟩ := Bool.and_eq_true_iff.mp checks
  obtain ⟨first, reach⟩ := Bool.and_eq_true_iff.mp placed
  exact ⟨start first, elemsInReach_of_all reach, fun _ e he => Option.isNone_iff_eq_none.mp (List.all_eq_true.mp clean e he)⟩

end

/-- The rule of a vector access gives its form, its accesses and its effect alone, and where it lets the access go on every check passes. -/
theorem vmemRule_spec {s t : State} {i : Instr} {h : Hdr} {ok : Bool} {xs : List FRange} (rule : vmemRule s i = some (h, ok, xs, t)) :
    ∃ m al load, vmemForm i = some (h, m, al, load) ∧ xs = elemsAccess m (!load) (vmemElems s i) ∧ t = vmemEffect s i s
      ∧ (ok = true → VmemPasses s i m al load) := by
  cases i with
  | vld => cases rule; exact ⟨_, _, _, rfl, rfl, rfl, vmemPasses_load beq_iff_eq.mp⟩
  | vst => cases rule; exact ⟨_, _, _, rfl, rfl, rfl, vmemPasses_store beq_iff_eq.mp⟩
  | vlds | vgath => cases rule; exact ⟨_, _, _, rfl, rfl, rfl, vmemPasses_load fun _ => rfl⟩
  | vsts | vscat => cases rule; exact ⟨_, _, _, rfl, rfl, rfl, vmemPasses_store fun _ => rfl⟩
  | _ => cases rule

section

variable {s : State} {i : Instr} {h : Hdr} {m al : Nat} {load : Bool} {o : SlotOp}

theorem VmemOp.fault5_eq_none (k : VmemOp s i h m load o) (form : vmemForm i = some (h, m, al, load)) (start : (vmemStart s i).toNat % 64 = 0)
    (reach : ElemsInReach s i m al) : o.fault5 s = none := by
  obtain ⟨p, op, -, -, fault5⟩ := vmem_fault5 (s := s) form
  obtain rfl : o = p := Option.some.inj (k.op.symm.trans op)
  rw [fault5, if_neg (not_not.mpr start)]
  exact firstFault_eq_none fun e he => spadFault_of_inReach (reach e he) e.1

theorem VmemOp.fault6_eq_none (k : VmemOp s i h m load o)
    (clean : load = true → ∀ e ∈ vmemElems s i, firstPoison s.tile.mem e.2.toNat m = none) : o.fault6 s = none := by
  rw [k.fault6]
  split
  · next loads => exact firstFault_eq_none fun e he => poisonFault_of_clean (clean loads e he)
  · rfl

/-- A vector access that passes its checks issues as soon as nothing is in its way. -/
theorem vmem_issues (form : vmemForm i = some (h, m, al, load)) (passes : VmemPasses s i m al load)
    (ready : Ready h (elemsAccess m (!load) (vmemElems s i)) s) : exec i s = .next (issued h false s (vmemEffect s i s)) := by
  obtain ⟨o, k⟩ := vmemOp_of_form s form
  have done := run_of_plain (by rwa [k.hdr, k.access]) (k.eff s) (k.fault5_eq_none form passes.start passes.reach) k.wait
    (k.fault6_eq_none passes.clean) k.post k.again
  rw [exec_syllable k.op, done, k.hdr, k.point]

/-- The lowest active element of a load that touches a poisoned block is the one reported (R208). -/
theorem elemsPoison_of_lowest {t : Tile} {es fs : List (Nat × Word)} {e : Nat × Word} {b : Nat} (hm : 0 < m)
    (below : ∀ y ∈ es, firstPoison t.mem y.2.toNat m = none) (here : firstPoison t.mem e.2.toNat m = some b) :
    elemsPoison t m (es ++ e :: fs) = some (poisonAt b) :=
  firstFault_of_pass (fun y hy => poisonFault_of_clean (below y hy)) (poisonFault_of_poisoned hm here)

theorem vmem_takes_poison {es fs : List (Nat × Word)} {e : Nat × Word} {b : Nat} (form : vmemForm i = some (h, m, al, true))
    (start : (vmemStart s i).toNat % 64 = 0) (reach : ElemsInReach s i m al) (ready : Ready h (elemsAccess m false (vmemElems s i)) s)
    (elems : vmemElems s i = es ++ e :: fs) (below : ∀ y ∈ es, firstPoison s.tile.mem y.2.toNat m = none)
    (here : firstPoison s.tile.mem e.2.toNat m = some b) : Takes (poisonAt b) i s := by
  obtain ⟨o, k⟩ := vmemOp_of_form s form
  have poisoned : o.fault6 s = some (poisonAt b) := by
    rw [k.fault6, if_pos rfl, elems, elemsPoison_of_lowest (vmemForm_size_pos form) below here]
  rw [Takes, exec_syllable k.op]
  exact run_of_fault6 (by rwa [k.hdr, k.access]) (k.fault5_eq_none form start reach) k.wait k.again poisoned

end

/-! ## Beside an STS (R195) -/

theorem readS1_onMem (a : Src) (f : TMem → TMem) (s : State) : readS1 a (onMem f s) = onMem f (readS1 a s) := by
  unfold readS1 latchSa refresh
  split <;> rfl

/-- A vector access acts on what the STS of its bundle has stored. -/
theorem issueOps_sts_vmem {s : State} {i : Instr} {h h1 : Hdr} {m : Nat} {load : Bool} {w : Width} {r : Reg} {base : Src} {disp : BitVec 26}
    {o : SlotOp} (k : VmemOp s i h m load o) (free : isHeld [stsOp h1 w r base disp, o] s = false)
    (five : firstOf SlotOp.fault5 [stsOp h1 w r base disp, o] s = none) (six : firstOf SlotOp.fault6 [stsOp h1 w r base disp, o] s = none)
    (on : readP s.tile h.guard = true) (on1 : readP s.tile h1.guard = true) (settled : interlocked s.tile.regs = false)
    (banks : s.tile.ctl.bankLeft.getD (bankHold ((stsOp h1 w r base disp).access s ++ o.access s)) = 0) :
    issueOps [stsOp h1 w r base disp, o] s = endCycle (h1.pp || h.pp) s (advance s (vmemEffect s i
      (readS1 base (onMem (spadStore (spadAddr s.tile.regs base disp).toNat (Width.size w) (readG s.tile.regs r).toNat) s)))) := by
  have on2 : readP s.tile o.hdr.guard = true := by rwa [k.hdr]
  have point : isPoint [stsOp h1 w r base disp, o] = (h1.pp || h.pp) := by simp [isPoint, k.hdr, k.point, stsOp]
  have stored : (stsOp h1 w r base disp).eff s s =
      readS1 base (onMem (spadStore (spadAddr s.tile.regs base disp).toNat (Width.size w) (readG s.tile.regs r).toNat) s) :=
    (readS1_onMem base _ s).symm
  rw [issueOps_pair (o1 := stsOp h1 w r base disp) on1 on2 settled free banks rfl k.again five six,
    issueNow_pair (o1 := stsOp h1 w r base disp) on1 on2 (fun _ => rfl) k.post, point, stored, k.eff]

/-- Settles O18: alone, a vector access passes its checks or takes the POISON of its lowest poisoned element; beside an STS, which executes
before it, it acts on what the STS leaves. -/
theorem vectorLoadsAndStores : Obligations.VectorLoadsAndStores := by
  intro s i h xs t
  refine ⟨fun rule ready => ?_, fun m al es fs e b form start ready reach elems below here =>
    vmem_takes_poison form start reach ready elems below here,
    fun h1 w r base disp ok o1 o2 op1 op2 rule free five six on on1 settled banks => ?_⟩
  · obtain ⟨m, al, load, form, rfl, rfl, passes⟩ := vmemRule_spec rule
    exact vmem_issues form (passes rfl) ready
  · obtain ⟨m, al, load, form, -, -, -⟩ := vmemRule_spec rule
    obtain ⟨o, k⟩ := vmemOp_of_form s form
    obtain rfl : o = o2 := Option.some.inj (k.op.symm.trans op2)
    cases op1
    exact issueOps_sts_vmem k free five six on on1 settled banks

end Sys2Proof.Proofs
end

section
/-! Proofs for 07_scratchpad.md: sync words and their instructions (R200 to R203, R210 to R212, R290). -/

namespace Sys2Proof.Proofs

open Sys2Proof Sys2Proof.Machine Sys2Proof.Safety Sys2Proof.Laws

/-! ## The fields of a sync word (R200) -/

/-- A sync word of its fields: overflow, generation, target and count, its reserved bits zero. -/
def syncWord (ov : BitVec 1) (gen : BitVec 16) (target count : BitVec 36) : BitVec 128 :=
  (0 : BitVec 11) ++ (ov ++ (gen ++ (target ++ ((0 : BitVec 28) ++ count))))

section

variable (ov : BitVec 1) (gen : BitVec 16) (target count : BitVec 36)

theorem count_syncWord : (syncWord ov gen target count).extractLsb' 0 36 = count := by
  iterate 4 refine extractLsb'_of_under ?_ (by decide)
  exact BitVec.extractLsb'_append_eq_right

theorem reservedLow_syncWord : (syncWord ov gen target count).extractLsb' 36 28 = 0 := by
  iterate 4 refine extractLsb'_of_under ?_ (by decide)
  exact BitVec.extractLsb'_append_eq_left

theorem target_syncWord : (syncWord ov gen target count).extractLsb' 64 36 = target := by
  iterate 3 refine extractLsb'_of_under ?_ (by decide)
  exact BitVec.extractLsb'_append_eq_left

theorem gen_syncWord : (syncWord ov gen target count).extractLsb' 100 16 = gen := by
  iterate 2 refine extractLsb'_of_under ?_ (by decide)
  exact BitVec.extractLsb'_append_eq_left

theorem overflow_syncWord : (syncWord ov gen target count).extractLsb' 116 1 = ov :=
  extractLsb'_of_under BitVec.extractLsb'_append_eq_left (by decide)

theorem reservedHigh_syncWord : (syncWord ov gen target count).extractLsb' 117 11 = 0 := BitVec.extractLsb'_append_eq_left

end

/-! ## An update (R201) -/

/-- The count that an update of `n` bytes makes before whole generations are taken from it. -/
def clampedSum (n : Nat) (w : BitVec 128) : Nat := min ((w.extractLsb' 0 36).toNat + n) (2 ^ 36 - 1)

theorem clampedSum_lt (n : Nat) (w : BitVec 128) : clampedSum n w < 2 ^ 36 := (Nat.min_le_right _ _).trans_lt (by norm_num)

/-- The generations that a count of `sum` completes: none without a target. -/
def gensOf (sum target : Nat) : Nat := if target = 0 then 0 else sum / target

/-- What is left of a count of `sum` after its whole generations: all of it without a target. -/
def countLeft (sum target : Nat) : Nat := if target = 0 then sum else sum % target

theorem sub_gensOf_mul (sum target : Nat) : sum - gensOf sum target * target = countLeft sum target := by
  unfold gensOf countLeft
  split
  · rw [Nat.zero_mul, Nat.sub_zero]
  · exact Nat.mod_eq_sub_div_mul.symm

theorem countLeft_le (sum target : Nat) : countLeft sum target ≤ sum := by
  rw [← sub_gensOf_mul]
  exact Nat.sub_le _ _

theorem syncUpdate_eq_syncWord (n : Nat) (w : BitVec 128) :
    let target := w.extractLsb' 64 36
    syncUpdate n w = syncWord (if 2 ^ 36 ≤ (w.extractLsb' 0 36).toNat + n then 1 else w.extractLsb' 116 1)
      (w.extractLsb' 100 16 + BitVec.ofNat 16 (gensOf (clampedSum n w) target.toNat)) target
      (BitVec.ofNat 36 (countLeft (clampedSum n w) target.toNat)) := by
  intro target
  have clamp : (if 2 ^ 36 ≤ (w.extractLsb' 0 36).toNat + n then 2 ^ 36 - 1 else (w.extractLsb' 0 36).toNat + n) = clampedSum n w := by
    unfold clampedSum
    split <;> omega
  simp only [syncUpdate, syncWord, clamp, ← sub_gensOf_mul, BitVec.ofNat_add, BitVec.ofNat_toNat, BitVec.setWidth_eq]
  rfl

/-- The fields of an updated sync word, one by one (R201). -/
theorem syncUpdate_fields (n : Nat) (w : BitVec 128) :
    let count := (w.extractLsb' 0 36).toNat
    let target := (w.extractLsb' 64 36).toNat
    let sum := min (count + n) (2 ^ 36 - 1)
    let w' := syncUpdate n w
    (w'.extractLsb' 0 36).toNat = (if target = 0 then sum else sum % target)
      ∧ (w'.extractLsb' 64 36).toNat = target
      ∧ w'.extractLsb' 100 16 = w.extractLsb' 100 16 + BitVec.ofNat 16 (if target = 0 then 0 else sum / target)
      ∧ w'.extractLsb' 116 1 = (if 2 ^ 36 ≤ count + n then 1 else w.extractLsb' 116 1)
      ∧ w'.extractLsb' 36 28 = 0 ∧ w'.extractLsb' 117 11 = 0 := by
  intro count target sum w'
  have update : w' = _ := syncUpdate_eq_syncWord n w
  rw [update, count_syncWord, target_syncWord, gen_syncWord, overflow_syncWord, reservedLow_syncWord, reservedHigh_syncWord, BitVec.toNat_ofNat]
  exact ⟨Nat.mod_eq_of_lt ((countLeft_le _ _).trans_lt (clampedSum_lt n w)), rfl, rfl, rfl, rfl, rfl⟩

/-! ## A syllable that waits (R25) -/

/-- A syllable that only its own wait holds, and that notes nothing while held, spends a held cycle. -/
theorem run_of_wait {o : SlotOp} {s : State} (guard : readP s.tile o.hdr.guard = true) (settled : interlocked s.tile.regs = false)
    (fresh : s.tile.ctl.bankLeft = none) (f5 : o.fault5 s = none) (wait : o.wait s = true) (reach : o.reach = id) (held : o.held = id) :
    o.run s = .next (heldHaltable s) := by
  have one := guarded_one_on guard
  have holds : isHeld [o] s = true := by simp [isHeld, one, wait]
  have five : firstOf SlotOp.fault5 (guarded [o] s) s = none := by simp [one, firstOf, firstFault, f5]
  simp [SlotOp.run, issueOps, settled, fresh, five, holds, noteHold_of_id reach held]

/-! ## The instructions (R203, R210 to R212) -/

section

variable {s : State} {h : Hdr} {c x : Reg}

theorem syncFault_of_inReach {t : Tile} {v : Word} (reach : InReach t v 16 16) : syncFault t v = none := spadFault_of_inReach reach 0

theorem swinit_fault5_of_target (reach : InReach s.tile (readG s.tile.regs c) 16 16) :
    (swinitOp h c x).fault5 s = if 2 ^ 36 ≤ (readG s.tile.regs x).toNat then some (illegal s) else none := by
  simp only [swinitOp, syncFault_of_inReach reach]

theorem swinit_issues (ready : Ready h [acc (readG s.tile.regs c).toNat 16 true] s) (reach : InReach s.tile (readG s.tile.regs c) 16 16)
    (fits : (readG s.tile.regs x).toNat < 2 ^ 36) : exec (.swinit h c x) s =
      .next (issued h false s (onMem (spadStore (readG s.tile.regs c).toNat 16 ((readG s.tile.regs x).toNat * 2 ^ 64)) s)) :=
  have passes := (swinit_fault5_of_target (h := h) reach).trans (if_neg (Nat.not_le.mpr fits))
  run_of_plain (o := swinitOp h c x) ready rfl passes rfl rfl fun _ => rfl

theorem swinit_takes_illegal (j : Judged h s) (reach : InReach s.tile (readG s.tile.regs c) 16 16)
    (large : 2 ^ 36 ≤ (readG s.tile.regs x).toNat) : Takes (illegal s) (.swinit h c x) s :=
  run_of_fault5 (o := swinitOp h c x) j ((swinit_fault5_of_target reach).trans (if_pos large)) rfl

end

/-- Settles O19: past its checks each instruction acts on the word at its address, WAITS once its generation has passed; an update makes a word
of the fields that R201 gives. -/
theorem syncWords : Obligations.SyncWords := by
  refine ⟨fun s h c x a b => ⟨swinit_issues, swinit_takes_illegal, fun p ready reach poisoned => ?_, fun ready fresh reach early => ?_,
    fun ready reach => ?_, fun ready reach clean => ?_, fun ready reach passed => ?_⟩, syncUpdate_fields⟩
  · exact run_of_fault6 (o := swrdOp h c x) ready (syncFault_of_inReach reach) rfl rfl (poisonFault_of_poisoned (by decide) poisoned)
  · exact run_of_wait (o := waitsOp h a b) ready.guard ready.settled fresh (syncFault_of_inReach reach) (by simp [waitsOp, early]) rfl rfl
  · exact run_of_plain (o := swaddOp h c x) ready rfl (syncFault_of_inReach reach) rfl rfl fun _ => rfl
  · exact run_of_plain (o := swrdOp h c x) ready rfl (syncFault_of_inReach reach) rfl (poisonFault_of_clean clean) fun _ => rfl
  · have through : (waitsOp h a b).wait s = false := by simp [waitsOp, passed]
    exact run_of_plain (o := waitsOp h a b) ready rfl (syncFault_of_inReach reach) through rfl fun _ => rfl

end Sys2Proof.Proofs
end

section
/-! Proofs for 08_matrix.md: a micro-op and the word that encodes it (R226). -/

namespace Sys2Proof.Proofs

open Sys2Proof Sys2Proof.Machine Sys2Proof.Safety Sys2Proof.Laws

/-! ## Codes and fields -/

theorem PaddTgt.ofCode_eq_some {c t} : PaddTgt.ofCode c = some t ↔ t.code = c := by cases t <;> revert c <;> decide
@[simp] theorem PaddTgt.ofCode_code (t : PaddTgt) : PaddTgt.ofCode t.code = some t := PaddTgt.ofCode_eq_some.mpr rfl

/-- A word is put together from its high and low bits. -/
theorem eq_append {m n : Nat} {x : BitVec (m + n)} {a : BitVec m} {b : BitVec n} (hi : hiBits m n x = a) (lo : loBits m n x = b) :
    x = a ++ b := by
  rw [← hi, ← lo, hiBits_append_loBits]

/-! ## Micro-ops (R226) -/

/-- What the encoder puts together decoding reads back, field by field. -/
theorem decodeMicro_of_encode {i : Instr} {w : BitVec 32} (wf : wellFormed i = true) (e : encodeMicro i = some w) :
    decodeMicro w = some i := by
  cases i
  case uopEnd | uInit | shacc | yld => cases e; rfl
  case lda | ldb | pat | step | stepAll | padd | paddImm | zgt =>
    cases e
    simp only [decodeMicro, hiBits_append, loBits_append, PaddTgt.ofCode_code]
    rfl
  case rpt =>
    cases e
    simp only [decodeMicro, hiBits_append, loBits_append]
    exact if_pos ⟨of_decide_eq_true wf, trivial⟩
  all_goals cases e

theorem wellFormed_of_decodeMicro {i : Instr} {w : BitVec 32} (e : decodeMicro w = some i) : wellFormed i = true := by
  revert e
  fun_cases decodeMicro w <;> rintro ⟨⟩
  case case20 legal => -- RPT, whose count is of an mp register or of the group's panels
    exact decide_eq_true legal.1
  all_goals rfl

/-- A word is encoded as its code and the 27 bits after it. -/
theorem some_append_of_fields {w : BitVec 32} {c : BitVec 5} {r : BitVec 27} (code : (hiBits 5 27 w).toNat = c.toNat)
    (rest : loBits 5 27 w = r) : some (c ++ r) = some w :=
  congrArg some (eq_append (BitVec.eq_of_toNat_eq code) rest).symm

/-- A row's checks fix every field that is no operand, but for the immediate of a PADD without one. The cases are the rows of R226 in their
order, STEP and PADD by their forms. -/
theorem encodeMicro_of_decode {i : Instr} {w : BitVec 32} (e : decodeMicro w = some i) (read : ∀ t, i ≠ .padd t) :
    encodeMicro i = some w := by
  revert e
  fun_cases decodeMicro w <;> rintro ⟨⟩
  case case1 code zero => exact some_append_of_fields (c := 0) (r := 0) code zero
  case case3 code zero | case15 code zero | case24 code zero => exact some_append_of_fields code zero
  case case5 code zero | case7 code zero | case9 code zero => exact some_append_of_fields code (eq_append rfl zero)
  case case12 code _ _ _ zero all plane =>
    exact some_append_of_fields code (eq_append rfl (eq_append rfl (eq_append plane (eq_append (isSet_iff.mp all) (not_not.mp zero)))))
  case case14 code _ _ _ zero one =>
    have one := flag_ne_one.mp (isSet_iff.not.mp one)
    exact some_append_of_fields code (eq_append rfl (eq_append rfl (eq_append rfl (eq_append one (not_not.mp zero)))))
  case case18 code _ _ target imm =>
    have target := PaddTgt.ofCode_eq_some.mp target
    exact some_append_of_fields code (eq_append target.symm (eq_append (isSet_iff.mp imm) rfl))
  case case19 t _ _ => exact absurd rfl (read t)
  case case20 code _ _ legal => exact some_append_of_fields code (eq_append rfl (eq_append rfl (eq_append rfl legal.2)))
  case case22 code zero => exact some_append_of_fields code (eq_append zero rfl)

/-- Settles O4: decoding reads back every operand, and a word that decodes has its row's zeros. -/
theorem everyMicroOpDecodesFromItsWord : Obligations.EveryMicroOpDecodesFromItsWord :=
  ⟨fun _ _ => decodeMicro_of_encode, fun _ _ e => ⟨wellFormed_of_decodeMicro e, encodeMicro_of_decode e⟩⟩

end Sys2Proof.Proofs
end

section
/-! Proofs for 08_matrix.md: matrix calls, MLDR and the Coppice's jobs enter the matrix queue (R218, R220, R241; 09_coppice.md R247, R259, R262). -/

namespace Sys2Proof.Proofs

open Sys2Proof Sys2Proof.Machine Sys2Proof.Safety Sys2Proof.Laws

section

variable {s : State} {h : Hdr} {rt tag : BitVec 8} {pa pb : BitVec 3} {a b : Src}

theorem mqFull_of_place (place : s.tile.eng.mq.length < 4) : mqFull s = false := decide_eq_false (Nat.not_le.mpr place)

theorem enterCall_of_ok {delta : Bool} {c : MCallSnap} {i s : State}
    (ok : checkCall i.tile delta rt tag (pa.toNat + 1) (pb.toNat + 1) = .ok c) :
    enterCall delta i rt tag pa pb s = mqPush (if delta then .calld c else .call c) (callFp c) s := by
  simp only [enterCall, ok]

theorem mldr_eff_of_good (good : mldrBad s.tile (srcMaG s.tile.regs a) (srcMbG s.tile.regs b) = false) :
    (mldrOp h a b).eff s s = mqPush (.mldr (srcMaG s.tile.regs a).toNat (srcMbG s.tile.regs b))
      [{ base := (srcMaG s.tile.regs a).toNat, len := 4 * (field (srcMbG s.tile.regs b).toNat 23 12 + 1), write := false }] (readM2 a b s) :=
  if_neg (Bool.eq_false_iff.mp good)

end

/-- Settles O31: with a place in the queue nothing but the checks keeps a job out of it. -/
theorem matrixJobsEnterTheQueue : Obligations.MatrixJobsEnterTheQueue := by
  intro s h rt tag pa pb a b place
  have room := mqFull_of_place place
  refine ⟨fun c ready clean => ⟨fun ok => ?_, fun ok => ?_⟩, fun ready => ⟨fun good => ?_, ?_, ?_, ?_, ?_, ?_⟩⟩
  · exact run_of_plain (o := mcallOp h rt tag pa pb) ready (enterCall_of_ok ok) rfl room clean fun _ => rfl
  · exact run_of_plain (o := mcalldOp h rt tag pa pb) ready (enterCall_of_ok ok) rfl room clean fun _ => rfl
  · exact run_of_plain (o := mldrOp h a b) ready (mldr_eff_of_good good) rfl room rfl fun _ => rfl
  · exact run_of_plain (o := cpbindOp h a b) ready rfl rfl room rfl fun _ => rfl
  · exact run_of_plain (o := cpsavOp h a b) ready rfl rfl room rfl fun _ => rfl
  · exact run_of_plain (o := cprstOp h a b) ready rfl rfl room rfl fun _ => rfl
  · exact run_of_plain (o := cpinvLayerOp h a) ready rfl rfl room rfl fun _ => rfl
  · exact run_of_plain (o := cpinvAllOp h) ready rfl rfl room rfl fun _ => rfl

end Sys2Proof.Proofs
end

section
/-! Proofs for 08_matrix.md: the micro-ops of a running routine and the arrival of a panel load (R224, R225, R228 to R232; 09_coppice.md R260). -/

namespace Sys2Proof.Proofs

open Sys2Proof Sys2Proof.Machine Sys2Proof.Safety Sys2Proof.Laws

/-! ## Planes of a STEP (R228, R230) -/

/-- Planes that A has, within the budget of Y, are all added, each taking 32 of it. -/
theorem stepPlanes_eq_ok {c : MCallSnap} {planes : Nat} {signed : Bool} {x y : Buf} {js : List Nat} {r : MRun}
    (inside : ∀ j ∈ js, j < c.pa) (room : r.y + 32 * js.length ≤ 256) :
    stepPlanes c planes signed x y js r =
      .ok { r with y := r.y + 32 * js.length, sums := js.foldl (fun sums j => stepPlane c planes signed x y j sums) r.sums } := by
  induction js generalizing r with
  | nil => rfl
  | cons j js ih =>
    rw [List.length_cons] at room
    have plane : ¬c.pa ≤ j := Nat.not_le.mpr (inside j List.mem_cons_self)
    have budget : ¬256 < r.y + 32 := by omega
    rw [stepPlanes, if_neg plane, if_neg budget, ih (fun k hk => inside k (List.mem_cons_of_mem j hk)) (by dsimp only; omega)]
    simp only [List.foldl_cons, List.length_cons, Nat.mul_add, Nat.mul_one, Nat.add_assoc, Nat.add_comm 32]

/-! ## The micro-ops (R228 to R232) -/

section

variable {s : State} {c : MCallSnap} {r : MRun} (run : runCall s.tile.eng = some (c, r)) (low : r.upc ≤ 4095)
include run low

/-- A micro-op of a routine that runs in its store has its effect. -/
theorem micro_of_run {f : MCallSnap → MRun → State → State} {u : State} (effect : f c r s = u) : micro f s = .next u := by
  simp only [micro, run, if_neg (Nat.not_lt.mpr low), effect]

theorem microStep_of_run {f : MCallSnap → MRun → MRun} {r' : MRun} (effect : f c r = r') :
    microStep f s = .next (setRun (slotDone r.upc r') s) :=
  micro_of_run run low (by rw [effect])

theorem execPadd_of_run (t : PaddTgt) : execPadd t s = .next (setRun (slotDone r.upc (paddTo t (padStep c t) r)) s) := by
  cases t <;> exact microStep_of_run run low rfl

theorem execYld_of_kept (kept : discarding s = false) : execYld s = .next (setRun (slotDone r.upc { r with y := 0 }) s) :=
  micro_of_run run low (if_neg (Bool.eq_false_iff.mp kept))

theorem execYld_of_discarding (discards : discarding s = true) : execYld s = .next (stopJob s) := micro_of_run run low (if_pos discards)

theorem execUopEnd_of_discarding (discards : discarding s = true) : execUopEnd s = .next (stopJob s) :=
  micro_of_run run low (if_pos discards)

theorem microLoad_of_inside {ofB : Bool} (inside : LoadInside c r ofB) (b : BitVec 1) :
    microLoad ofB b s = .next (setRun (slotDone r.upc (loadIssued c r ofB b)) s) := by
  obtain ⟨first, last⟩ := inside
  have fits : ¬(loadStart r ofB < (loadRange c ofB).base ∨
      ((loadRange c ofB).base + (loadRange c ofB).len : Int) < loadStart r ofB + loadLen c ofB) := by omega
  exact micro_of_run run low (if_neg fun outside => fits (of_decide_eq_true (Bool.and_eq_true_iff.mp outside).1))

theorem execPat_of_packed {b : BitVec 1} (arrived : loadPending r false b = false) (packed : (bufOf r false b).st = .packed) :
    execPat b s = .next (setRun (slotDone r.upc (setBuf false b (expandBuf c r.kb (bufOf r false b)) r)) s) :=
  micro_of_run run low ((if_neg (Bool.eq_false_iff.mp arrived)).trans (if_neg (not_not.mpr packed)))

theorem microStepOp_of_ready {a b : BitVec 1} (ready : StepReady r a b) {js : MCallSnap → List Nat} (inside : ∀ j ∈ js c, j < c.pa)
    (room : r.y + 32 * (js c).length ≤ 256) : microStepOp a b js s =
      .next (setRun (slotDone r.upc { r with y := r.y + 32 * (js c).length, sums := (js c).foldl (stepSums s c r a b) r.sums }) s) := by
  obtain ⟨arrivedA, arrivedB, loadedA, loadedB⟩ := ready
  have arrived : ¬(loadPending r false a || loadPending r true b) = true := by simp [arrivedA, arrivedB]
  have loaded : ¬((bufOf r false a).st ≠ .loaded ∨ (bufOf r true b).st ≠ .loaded) := by simp [loadedA, loadedB]
  refine micro_of_run run low ((if_neg arrived).trans ((if_neg loaded).trans ?_))
  simp only [stepPlanes_eq_ok inside room]
  rfl

theorem execStep_of_ready {a b : BitVec 1} {p : BitVec 3} (ready : StepReady r a b) (plane : p.toNat < c.pa) (room : r.y + 32 ≤ 256) :
    execStep a b p s = .next (setRun (slotDone r.upc { r with y := r.y + 32, sums := stepSums s c r a b r.sums p.toNat }) s) :=
  microStepOp_of_ready run low (js := fun _ => [p.toNat]) ready (List.forall_mem_singleton.mpr plane) room

theorem execStepAll_of_ready {a b : BitVec 1} (ready : StepReady r a b) (room : r.y + 32 * c.pa ≤ 256) : execStepAll a b s =
    .next (setRun (slotDone r.upc { r with y := r.y + 32 * c.pa, sums := (upTo c.pa).foldl (stepSums s c r a b) r.sums }) s) := by
  have planes : (upTo c.pa).length = c.pa := List.length_range
  have done := microStepOp_of_ready run low (js := fun c => upTo c.pa) ready (fun _ => List.mem_range.mp) (by rwa [planes])
  rwa [planes] at done

theorem execShacc_of_run : execShacc s =
    .next (setRun (slotDone r.upc { r with sums := [], ovf := r.ovf || (shaccMem r (accShift s c r) s.tile.mem).2 })
      (onMem (fun _ => (shaccMem r (accShift s c r) s.tile.mem).1) s)) :=
  micro_of_run run low rfl

theorem execRpt_of_good {ctr : BitVec 1} {src : BitVec 4} {len1 : BitVec 6} (good : rptBad r ctr r.upc (len1.toNat + 1) = false) :
    execRpt ctr src len1 s = .next (if rptCount c src = 0 then setRun (slotDone (r.upc + (len1.toNat + 1)) r) s else
      setRun { armCounter ctr { left := rptCount c src, first := r.upc + 1, last := r.upc + (len1.toNat + 1) } r with upc := r.upc + 1 } s) :=
  micro_of_run run low (if_neg (Bool.eq_false_iff.mp good))

theorem execZgt_of_clean {slot : BitVec 12} (ahead : r.upc < slot.toNat) (clean : scalesClean s.tile.mem c = true) :
    execZgt slot s = .next (if (allZero s.tile.mem c r false || allZero s.tile.mem c r true) = true then
        setRun { r with upc := slot.toNat, l0 := leaveBody slot.toNat r.l0, l1 := leaveBody slot.toNat r.l1 } s
      else setRun (slotDone r.upc r) s) := by
  obtain ⟨cleanA, cleanB⟩ := Bool.and_eq_true_iff.mp clean
  refine micro_of_run run low ((if_neg (Nat.not_le.mpr ahead)).trans (if_neg ?_))
  simp [Option.isNone_iff_eq_none.mp cleanA, Option.isNone_iff_eq_none.mp cleanB]

end

/-! ## The matrix port (R231) -/

/-- The oldest load arrives whole where no poisoned byte is in it. -/
theorem panelLoadArrival_of_clean {s : State} {c : MCallSnap} {r : MRun} {ofB : Bool} {buf : BitVec 1} {addr : Nat} {kb : Int}
    {rest : List (Bool × BitVec 1 × Nat × Int)} (run : runCall s.tile.eng = some (c, r)) (oldest : r.loads = (ofB, buf, addr, kb) :: rest)
    (clean : loadPoisoned s.tile.mem c r ofB addr = false) : panelLoadArrival s =
      setRun (setBuf ofB buf { bufOf r ofB buf with words := if ofB then loadB s.tile c r addr else loadA s.tile.mem c r addr }
        { r with loads := rest }) s := by
  simp only [panelLoadArrival, run, oldest, clean, Bool.false_eq_true, if_false]

/-- Settles O35: a routine that runs in its store has each micro-op's effect, and a load that nothing poisons arrives. -/
theorem microOpsRun : Obligations.MicroOpsRun := by
  intro s c r a b t i p ctr src len1 slot run low
  refine ⟨microStep_of_run run low rfl, execYld_of_kept run low,
    fun discards => ⟨execYld_of_discarding run low discards, rfl, rfl, execUopEnd_of_discarding run low discards⟩,
    execPadd_of_run run low t, microStep_of_run run low rfl, micro_of_run run low rfl,
    fun inside => microLoad_of_inside run low inside b, fun inside => microLoad_of_inside run low inside b, execPat_of_packed run low,
    execStep_of_ready run low, execStepAll_of_ready run low, execShacc_of_run run low, fun good => ⟨fun zero => ?_, fun nonzero => ?_⟩,
    fun ahead clean kept => ?_, fun ahead clean zero => ?_,
    fun ofB buf addr kb rest oldest clean => congrArg _ (panelLoadArrival_of_clean run oldest clean)⟩
  · exact (execRpt_of_good run low good).trans (congrArg _ (if_pos zero))
  · exact (execRpt_of_good run low good).trans (congrArg _ (if_neg nonzero))
  · exact (execZgt_of_clean run low ahead clean).trans (congrArg _ (if_neg (Bool.eq_false_iff.mp kept)))
  · exact (execZgt_of_clean run low ahead clean).trans (congrArg _ (if_pos zero))

end Sys2Proof.Proofs
end

section
/-! Proofs for 10_flume.md: what reading lines of the slices leaves as it was, and that no monitor matters to a tile's lane step
(R271, R288; 13_memory.md R335 to R339, R363). -/

namespace Sys2Proof.Proofs

open Sys2Proof Sys2Proof.Machine Sys2Proof.Safety Sys2Proof.Laws

/-! ## A touch of lines -/

/-- A tile with its monitor replaced. -/
def setMon (m : Option Monitor) (t : Tile) : Tile := { t with eng := { t.eng with mon := m } }

/-- What a touch of lines keeps: the Flume, the tile in focus but for its monitor, and the writes counted as held for a snapshot. -/
structure LineKeeps (s t : State) : Prop where
  cur      : t.cur = s.cur
  flume    : t.flume = s.flume
  tile     : ∃ m, t.tile = setMon m s.tile
  snaphold : ∀ vd, (getVd vd t).snaphold = (getVd vd s).snaphold

namespace LineKeeps

theorem of_tile {s t : State} (cur : t.cur = s.cur) (flume : t.flume = s.flume) (tile : t.tile = s.tile)
    (snaphold : ∀ vd, (getVd vd t).snaphold = (getVd vd s).snaphold) : LineKeeps s t := ⟨cur, flume, ⟨s.tile.eng.mon, tile⟩, snaphold⟩

theorem refl (s : State) : LineKeeps s s := of_tile rfl rfl rfl fun _ => rfl

theorem trans {s t u : State} (h : LineKeeps s t) (k : LineKeeps t u) : LineKeeps s u := by
  obtain ⟨m, first⟩ := h.tile
  obtain ⟨n, second⟩ := k.tile
  exact ⟨k.cur.trans h.cur, k.flume.trans h.flume, ⟨n, by rw [second, first]; rfl⟩, fun vd => (k.snaphold vd).trans (h.snaphold vd)⟩

theorem foldl {α : Type} {f : State → α → State} (h : ∀ s x, LineKeeps s (f s x)) (xs : List α) (s : State) : LineKeeps s (xs.foldl f s) :=
  List.foldlRecOn (motive := LineKeeps s) xs f (refl s) fun t kept x _ => kept.trans (h t x)

theorem ite {c : Prop} [Decidable c] {s t u : State} (h : LineKeeps s t) (k : LineKeeps s u) : LineKeeps s (if c then t else u) := by
  split
  · exact h
  · exact k

theorem onMemSys (f : MemSys → MemSys) (s : State) : LineKeeps s (onMemSys f s) := of_tile rfl rfl rfl fun _ => rfl

theorem modVd (vd : BitVec 8) (f : VDev → VDev) (s : State) (h : ∀ v, (f v).snaphold = v.snaphold) : LineKeeps s (modVd vd f s) := by
  refine of_tile rfl rfl rfl fun w => ?_
  rw [getVd_modVd]
  split
  · next same => rw [h, same]
  · rfl

end LineKeeps

variable (s : State)

theorem wakeMon_eq_setMon (lo hi : Nat) (t : Tile) : ∃ m, wakeMon lo hi t = setMon m t := by
  unfold wakeMon
  split
  · split
    · split
      · exact ⟨_, rfl⟩
      · exact ⟨t.eng.mon, rfl⟩
    · exact ⟨t.eng.mon, rfl⟩
  · exact ⟨t.eng.mon, rfl⟩

theorem wakeSectors_lineKeeps (lo hi : Nat) : LineKeeps s (wakeSectors lo hi s) := ⟨rfl, rfl, wakeMon_eq_setMon lo hi _, fun _ => rfl⟩

theorem undefSector_lineKeeps (n : Nat) : LineKeeps s (undefSector n s) := .of_tile rfl rfl rfl fun _ => rfl

theorem dropLine_lineKeeps (l : Line) : LineKeeps s (dropLine l s) := (LineKeeps.onMemSys _ s).trans (wakeSectors_lineKeeps _ _ _)

theorem evictLine_lineKeeps (l : Line) : LineKeeps s (evictLine l s) :=
  .ite (dropLine_lineKeeps s l) ((dropLine_lineKeeps s l).trans (.modVd _ _ _ fun _ => rfl))

theorem makeRoom_lineKeeps (line : Nat) : LineKeeps s (makeRoom line s) := by
  unfold makeRoom
  refine .ite (.refl s) ?_
  split
  · exact evictLine_lineKeeps s _
  · exact .refl s

theorem grantCount_lineKeeps (h : Hints) : LineKeeps s (grantCount h s).2 := by
  unfold grantCount
  split
  · split
    · split
      · exact .refl s
      · exact .modVd h.vd (fun v => { v with pinref := v.pinref + 1 }) s fun _ => rfl
    · exact .refl s
  · exact .refl s

theorem countRead_lineKeeps (l : Line) : LineKeeps s (countRead l s) := by
  unfold countRead
  refine .ite (.refl s) (.ite (.onMemSys _ s) (.ite ?_ (.onMemSys _ s)))
  have first := (dropLine_lineKeeps s l).trans (.ite (c := l.dirty0) (undefSector_lineKeeps _ (2 * l.line)) (.refl _))
  exact first.trans (.ite (undefSector_lineKeeps _ _) (.refl _))

theorem touchLine_lineKeeps (line : Nat) (s0 s1 write : Bool) (h : Hints) : LineKeeps s (touchLine line s0 s1 write h s) := by
  unfold touchLine
  split
  · have granted : LineKeeps s (if write then (0, makeRoom line s) else grantCount h (makeRoom line s)).2 := by
      split
      · exact makeRoom_lineKeeps s line
      · exact (makeRoom_lineKeeps s line).trans (grantCount_lineKeeps _ h)
    have filled (l : Line) := granted.trans (.onMemSys (putLine l) _)
    exact .ite (filled _) ((filled _).trans (countRead_lineKeeps _ _))
  · next old _ =>
    have granted (b : Bool) : LineKeeps s (if b then grantCount h s else (old.count, s)).2 := by
      split
      · exact grantCount_lineKeeps s h
      · exact .refl s
    have put (b : Bool) (l : Line) := (granted b).trans (.onMemSys (putLine l) _)
    exact .ite (.onMemSys _ s) (.ite (put _ _) ((put _ _).trans (countRead_lineKeeps _ _)))

theorem touchLines_lineKeeps (pa n : Nat) (write : Bool) (h : Hints) : LineKeeps s (touchLines pa n write h s) :=
  .ite (.refl s) (.foldl (fun s _ => touchLine_lineKeeps s _ _ _ _ _) _ s)

theorem devTouch_lineKeeps (vd : BitVec 8) (pa n : Nat) : LineKeeps s (devTouch vd pa n s) := touchLines_lineKeeps s _ _ _ _

/-! ## A tile's lane step under another monitor (R288) -/

section

variable (f : Flume) (mem : MemSys) (ticks p lap pos n : Nat) (j : BJob) (c : Capture) (m : Option Monitor) (t : Tile)

@[simp] theorem setMon_stage : (setMon m t).eng.stage = t.eng.stage := rfl
@[simp] theorem setMon_bq : (setMon m t).eng.bq = t.eng.bq := rfl
@[simp] theorem setMon_vd : (setMon m t).place.vd = t.place.vd := rfl
@[simp] theorem hasStaged_setMon : hasStaged j (setMon m t).eng = hasStaged j t.eng := rfl
@[simp] theorem setBState_setMon (st : BState) : setBState n j st (setMon m t) = setMon m (setBState n j st t) := rfl
@[simp] theorem failTile_setMon : failTile j (setMon m t) n = setMon m (failTile j t n) := rfl
@[simp] theorem freeBanks_setMon : freeBanks (setMon m t) = setMon m (freeBanks t) := rfl
@[simp] theorem setMon_mem : (setMon m t).mem = t.mem := rfl

theorem drainOne_setMon : drainOne ticks p (setMon m t) = setMon m (drainOne ticks p t) := by
  unfold drainOne
  rw [setMon_stage]
  cases t.eng.stage <;> rfl

theorem foldl_setMon {α : Type} {g : Tile → α → Tile} (h : ∀ t x, g (setMon m t) x = setMon m (g t x)) (xs : List α) :
    xs.foldl g (setMon m t) = setMon m (xs.foldl g t) :=
  List.foldl_hom (setMon m) (g₁ := g) (g₂ := g) (fun t x => h t x)

theorem ite_setMon {c : Prop} [Decidable c] {x y x' y' : Tile} (hx : x' = setMon m x) (hy : y' = setMon m y) :
    (if c then x' else y') = setMon m (if c then x else y) := by
  rw [hx, hy, apply_ite (setMon m)]

theorem stageFlit_setMon (bs : List Byte) : stageFlit j n bs (setMon m t) = setMon m (stageFlit j n bs t) := ite_setMon m rfl rfl

theorem endDrained_setMon : endDrained n (setMon m t) = setMon m (endDrained n t) := by
  unfold endDrained
  rw [setMon_bq]
  split
  · rfl
  · split
    · exact ite_setMon m rfl rfl
    · rfl

theorem captureFlit_setMon : captureFlit f mem p lap pos n j c (setMon m t) = setMon m (captureFlit f mem p lap pos n j c t) := by
  unfold captureFlit
  refine ite_setMon m ?_ rfl
  dsimp only
  by_cases wanted : c.wanted.contains ((pos - c.first) / 16) = true
  · rw [if_pos wanted, if_pos wanted]
    cases raftOf (governing f lap) (bcRaft j.card) with
    | none => rfl
    | some r =>
      dsimp only
      rw [stageFlit_setMon, ite_setMon m (failTile_setMon ..) rfl]
      rfl
  · rw [if_neg wanted, if_neg wanted]
    rfl

theorem lapLeft_setMon (vd : BitVec 8) : lapLeft f vd lap n j c (setMon m t) = setMon m (lapLeft f vd lap n j c t) := by
  unfold lapLeft
  refine ite_setMon m rfl ?_
  dsimp only
  rw [foldl_setMon m t fun t i => failTile_setMon i j m t]
  split <;> rfl

theorem newLapJob_setMon : newLapJob f lap n (setMon m t) = setMon m (newLapJob f lap n t) := by
  unfold newLapJob
  rw [setMon_bq, setMon_vd]
  split
  · rfl
  · split
    · exact ite_setMon m rfl rfl
    · exact ite_setMon m rfl rfl
    · exact ite_setMon m (lapLeft_setMon ..) rfl
    · rfl

theorem flitJob_setMon : flitJob f mem p lap pos n (setMon m t) = setMon m (flitJob f mem p lap pos n t) := by
  unfold flitJob
  rw [setMon_bq]
  split
  · rfl
  · split
    · exact captureFlit_setMon ..
    · rfl

theorem laneTile_setMon : laneTile f mem ticks p (setMon m t) = setMon m (laneTile f mem ticks p t) := by
  have ended := foldl_setMon (g := fun t n => endDrained n t) m (freeBanks (drainOne ticks p t)) fun t n => endDrained_setMon n m t
  unfold laneTile
  dsimp only
  rw [drainOne_setMon, freeBanks_setMon, setMon_bq, ended, setMon_bq]
  refine ite_setMon m ?_ rfl
  rw [ite_setMon m (foldl_setMon m _ (fun t n => newLapJob_setMon f _ n m t) _) rfl]
  exact foldl_setMon m _ (fun t n => flitJob_setMon f mem p _ _ n m t) _

end

end Sys2Proof.Proofs
end

section
/-! Proofs for 10_flume.md: lane steps, lap boundaries and the publication of a lap map (R266 to R268, R274, R278, R279, R503; 18_module.md R478). -/

namespace Sys2Proof.Proofs

open Sys2Proof Sys2Proof.Machine Sys2Proof.Safety Sys2Proof.Laws

/-! ## What follows a lap boundary -/

section

variable (s : State)

theorem haltGang_tile_mem (k : Nat) : (haltGang k s).tile.mem = s.tile.mem := by
  unfold haltGang
  dsimp only
  split
  · exact overTiles_tile (·.mem) (fun t => by split <;> rfl) _ s
  · rfl

/-- Halts at a lap boundary leave the Flume and the memories of the tile in focus. -/
theorem plannedHalts_keeps : (plannedHalts s).flume = s.flume ∧ (plannedHalts s).tile.mem = s.tile.mem :=
  List.foldlRecOn (motive := fun t : State => t.flume = s.flume ∧ t.tile.mem = s.tile.mem) s.binds _ ⟨rfl, rfl⟩ fun t kept b _ => by
    split
    · exact ⟨(haltGang_worldKeeps b.1 t).flume.trans kept.1, (haltGang_tile_mem t b.1).trans kept.2⟩
    · exact kept

theorem sendCommits_mem (f : Flume) (t : Tile) : (sendCommits f t).mem = t.mem := by
  unfold sendCommits
  dsimp only
  split
  · split <;> rfl
  · rfl

theorem lapBegun_keeps (f : Flume) : (lapBegun f s).flume = s.flume ∧ (lapBegun f s).tile.mem = s.tile.mem := by
  unfold lapBegun
  split
  · exact ⟨rfl, rfl⟩
  · obtain ⟨flume, mem⟩ := plannedHalts_keeps (everyTile (fun _ => sendCommits s.flume) s)
    exact ⟨flume, mem.trans (sendCommits_mem _ _)⟩

/-! ## A lane step (R267, R268) -/

theorem feedReads_lineKeeps (f : Flume) : LineKeeps s (feedReads f s) := by
  unfold feedReads
  refine .ite (.foldl (fun s r => ?_) _ s) (.refl s)
  exact .ite (touchLines_lineKeeps s _ _ _ _) (.refl s)

theorem laneStep_flume : (laneStep s).flume = flumeCycle s.flume := (lapBegun_keeps _ _).1

theorem laneStep_tile_mem : (laneStep s).tile.mem = (laneTile s.flume s.mem s.ticks s.cur s.tile).mem := by
  have fed := feedReads_lineKeeps s s.flume
  obtain ⟨m, tile⟩ := fed.tile
  calc (laneStep s).tile.mem
      = (laneTile s.flume s.mem s.ticks (feedReads s.flume s).cur (feedReads s.flume s).tile).mem := (lapBegun_keeps _ _).2
    _ = (laneTile s.flume s.mem s.ticks s.cur s.tile).mem := by rw [fed.cur, tile, laneTile_setMon, setMon_mem]

end

section

variable {f : Flume}

/-- The Flume one lane step on, in the same lap. -/
def steppedOn (f : Flume) : Flume := { f with steps := f.steps + 1, pos := f.pos + 1, t := f.t + 1 }

theorem flumeCycle_of_due (due : laneStepDue f = true) : flumeCycle f =
    if f.pos + 1 = topLen f then endLap (f.pos + 1) (f.steps + 1) (steppedOn f) else steppedOn f := if_pos due

theorem flumeCycle_of_still (still : laneStepDue f = false) :
    (flumeCycle f).steps = f.steps ∧ (flumeCycle f).pos = f.pos ∧ topLap (flumeCycle f) = topLap f := by
  rw [flumeCycle, if_neg (Bool.eq_false_iff.mp still)]
  split <;> exact ⟨rfl, rfl, rfl⟩

/-- A lap ends where there is one: the next begins at position 0, under the maps as they are. -/
theorem endLap_begins (laps : f.laps ≠ []) (len start : Nat) :
    let g := endLap len start f
    g.steps = f.steps ∧ g.pos = 0 ∧ (topLap g).lap = (topLap f).lap + 1 ∧ g.maps = f.maps := by
  obtain ⟨l, ls, cons⟩ := List.exists_cons_of_ne_nil laps
  simp only [endLap, topLap, cons, List.headD_cons, and_self]

theorem flumeCycle_steps_of_due (laps : f.laps ≠ []) (due : laneStepDue f = true) : (flumeCycle f).steps = f.steps + 1 := by
  rw [flumeCycle_of_due due]
  split
  · exact (endLap_begins (f := steppedOn f) laps _ _).1
  · rfl

/-- A half published last governs from its lap on (R278). -/
theorem governing_of_published {g : Flume} {n : Nat} {m : LapHalf} (maps : g.maps = (publishHalf n m f).maps) : governing g n = m := by
  simp [governing, maps, publishHalf]

end

/-! ## Publication (R274, R278, R279, R503) -/

theorem flumePins_flume (s : State) : (flumePins s).flume = s.flume := by
  refine (LineKeeps.foldl (fun s r => ?_) _ _).flume
  exact .ite (touchLines_lineKeeps s _ _ _ _) (.refl s)

section

variable {s : State} {from_ : Nat} {m : LapHalf} (ok : halfOk m = true) (names : namesKept m s = true) (active : s.mod.power = .active)
include ok names active

theorem not_refused_of_active : ¬ (!(halfOk m && namesKept m s && mayPublish m s.mod)) = true := by
  simp [ok, names, mayPublish, active]

theorem lapMapPublish_of_later (len : topLen s.flume ≠ 0) (pace : topPace s.flume ≠ 0) (later : (topLap s.flume).lap < from_) :
    lapMapPublish from_ m s = flumePins { readRafts m s with flume := publishHalf from_ (withAccess s m) s.flume } := by
  have forced : ¬ (topLen s.flume = 0 ∨ topPace s.flume = 0) := not_or_intro len pace
  rw [lapMapPublish, if_neg (not_refused_of_active ok names active)]
  dsimp only
  rw [if_neg forced, if_pos later]

theorem lapMapPublish_flume_of_stopped (stopped : topLen s.flume = 0 ∨ topPace s.flume = 0) : (lapMapPublish from_ m s).flume =
    endLap s.flume.pos s.flume.steps (publishHalf ((topLap s.flume).lap + 1) (withAccess s m) s.flume) := by
  rw [lapMapPublish, if_neg (not_refused_of_active ok names active)]
  dsimp only
  rw [if_pos stopped, flumePins_flume]
  exact (lapBegun_keeps _ _).1

end

theorem lapMapPublish_of_refused {s : State} {from_ : Nat} {m : LapHalf} (asleep : s.mod.power ≠ .active) (pace : m.pace ≠ 0) :
    lapMapPublish from_ m s = s := by
  have refused : mayPublish m s.mod = false := by simp [mayPublish, asleep, pace]
  rw [lapMapPublish, refused, Bool.and_false]
  rfl

/-- Settles O41: the Flume of a lane step is `flumeCycle` of the old one, since neither the reads of the feed nor what follows a lap boundary
changes it, and a half published last governs from its lap. -/
theorem flumeSteps : Obligations.FlumeSteps := by
  intro s from_ m laps
  refine ⟨⟨_, rfl, laneStep_tile_mem s, fun still => ?_, fun due => ?_⟩, fun ok names active len pace later => ?_, fun asleep pace => ?_,
    fun ok names active stopped => ⟨_, rfl, ?_⟩⟩
  · rw [laneStep_flume]
    exact flumeCycle_of_still still
  · rw [laneStep_flume]
    refine ⟨flumeCycle_steps_of_due laps due, fun within => ?_, fun last => ?_⟩
    · rw [flumeCycle_of_due due, if_neg within]
      exact ⟨rfl, rfl⟩
    · rw [flumeCycle_of_due due, if_pos last]
      obtain ⟨-, pos, lap, -⟩ := endLap_begins (f := steppedOn s.flume) laps (s.flume.pos + 1) (s.flume.steps + 1)
      exact ⟨pos, lap⟩
  · exact congrArg _ (lapMapPublish_of_later ok names active len pace later)
  · exact congrArg _ (lapMapPublish_of_refused asleep pace)
  · rw [lapMapPublish_flume_of_stopped ok names active stopped]
    obtain ⟨-, -, lap, maps⟩ :=
      endLap_begins (f := publishHalf ((topLap s.flume).lap + 1) (withAccess s m) s.flume) laps s.flume.pos s.flume.steps
    exact ⟨lap, governing_of_published maps⟩

end Sys2Proof.Proofs
end

section
/-! Proofs for 10_flume.md: board jobs, from their issue to their completion (R281, R283, R285, R286, R291, R298), and the copy jobs that issue
beside them (11_copy.md R299, R302, R311 to R314). -/

namespace Sys2Proof.Proofs

open Sys2Proof Sys2Proof.Machine Sys2Proof.Safety Sys2Proof.Laws

/-! ## Board jobs (R285, R286, R291) -/

section

variable {s : State} {n : Nat} {j : BJob} (job : s.tile.eng.bq[n]? = some j)
include job

theorem boardArm_of_clear (waiting : j.st = .waiting) (clear : edgesClear s.tile.eng j.serial j.fp = true) :
    boardArm n s = onEng (fun e => { e with bq := e.bq.set n { j with st := armState s.flume s.cur s.tile.place.vd j } }) s := by
  have armed : s.tile.eng.bq.modify n (armJob s.flume s.cur s.tile) =
      s.tile.eng.bq.set n { j with st := armState s.flume s.cur s.tile.place.vd j } := by
    rw [List.modify_eq_set_getElem?, job, Option.map_eq_map, Option.map_some, Option.getD_some, armJob, if_pos ⟨waiting, clear⟩]
  simp only [boardArm, onEng, onTile, armed]

theorem boardComplete_of_staged (staged : hasStaged j s.tile.eng = true) : boardComplete n s = s := by
  simp only [boardComplete, job, staged, if_true]

theorem boardComplete_of_over {status : BitVec 8} {version : BitVec 16} {lap badtile : Nat} (written : hasStaged j s.tile.eng = false)
    (ended : j.st = .over status version lap badtile) (good : status.getLsbD 0 = true ∨ status.getLsbD 3 = true) :
    boardComplete n s =
      let s2 := if status.getLsbD 0 && bcHv j.card then onMem (spadStore (bcHdr j.card + 6) 2 version.toNat) s else s
      let s3 := onEng (fun e => { e with bq := e.bq.eraseIdx n }) (onMem (writeCard j.cardAddr status version lap badtile) s2)
      if bcSe j.card then onMem (syncAdd (bcSync j.card) (256 * bcLength j.card)) s3 else s3 := by
  have passes : (status.getLsbD 0 || status.getLsbD 3) = true := Bool.or_eq_true_iff.mpr good
  simp only [boardComplete, job, written, ended, passes, Bool.false_eq_true, if_false, if_true]
  cases status.getLsbD 0 && bcHv j.card <;> rfl

end

/-- Settles O40: the queue changes at the one job named, and a job's end is what its status selects. -/
theorem boardJobsArmAndComplete : Obligations.BoardJobsArmAndComplete := fun _ _ _ job =>
  ⟨fun waiting clear => congrArg _ (boardArm_of_clear job waiting clear), fun staged => congrArg _ (boardComplete_of_staged job staged),
    fun _ _ _ _ written ended good => congrArg _ (boardComplete_of_over job written ended good)⟩

/-! ## Cards at issue (R281, R283, R299, R302, R311) -/

section

variable {i s : State} {a : Word} {q : BitVec 2}

theorem enterCopy_of_card (good : cardCause i.tile (cardAt i.tile a) (BitVec.ofNat 64 (cardFar (cardAt i.tile a))) false = none) :
    enterCopy i a none q i = onEng nextSerial (onQueue q (· ++ [copyJobOf i a (BitVec.ofNat 64 (cardFar (cardAt i.tile a))) false]) i) := by
  simp only [enterCopy, good]
  rfl

theorem enterCopy_of_displaced {x : Word}
    (good : cardCause i.tile (cardAt i.tile a) (displace (cardAt i.tile a) x).1 (displace (cardAt i.tile a) x).2 = none) :
    enterCopy i a (some x) q i = onEng nextSerial (onQueue q (· ++ [copyJobOf i a (displace (cardAt i.tile a) x).1 true]) i) := by
  simp only [enterCopy, good]
  rfl

theorem enterBoard_of_card {win : Window} {rep : Bool} {a : Nat} (good : boardBad s.tile (boardCard s.tile a) = false) :
    enterBoard s.tile win rep a s = onEng (fun e => nextSerial { e with bq := e.bq ++ [boardJobOf s a win rep] }) s := by
  simp only [enterBoard, good, Bool.false_eq_true, if_false]
  rfl

end

section

variable {s : State} {h : Hdr} {c : Reg}

/-- CPY and CPYS past their checks and with a place in their queue leave what the entry of their card leaves. -/
theorem copyOp_issues {aux : Option Reg} {q : BitVec 2} {u : State} (ready : Ready h [acc (readG s.tile.regs c).toNat 64 false] s)
    (reach : InReach s.tile (readG s.tile.regs c) 64 64) (clean : firstPoison s.tile.mem (readG s.tile.regs c).toNat 64 = none)
    (room : (queueOf s.tile q).length < 16) (enters : enterCopy s (readG s.tile.regs c) (aux.map (readG s.tile.regs)) q s = u) :
    (copyOp h c aux q).run s = .next (issued h false s u) :=
  run_of_plain (o := copyOp h c aux q) ready enters (spadFault_of_inReach reach 0) (decide_eq_false (Nat.not_le.mpr room))
    (poisonFault_of_clean clean) fun _ => rfl

theorem board_issues {win : Window} {rep : Bool} (ready : Ready h [acc (readG s.tile.regs c).toNat 32 false] s)
    (reach : InReach s.tile (readG s.tile.regs c) 32 32) (clean : firstPoison s.tile.mem (readG s.tile.regs c).toNat 32 = none)
    (room : s.tile.eng.bq.length < 8) (good : boardBad s.tile (boardCard s.tile (readG s.tile.regs c).toNat) = false) :
    exec (.board h win rep c) s = .next (issued h false s
      (onEng (fun e => nextSerial { e with bq := e.bq ++ [boardJobOf s (readG s.tile.regs c).toNat win rep] }) s)) :=
  run_of_plain (o := boardOp h win rep c) ready (enterBoard_of_card good) (spadFault_of_inReach reach 0)
    (decide_eq_false (Nat.not_le.mpr room)) (poisonFault_of_clean clean) fun _ => rfl

/-! ## Waits and kills (R298, R312, R314) -/

theorem cdrn_issues {sel : QSel} (ready : Ready h [] s) (drained : ∀ q ∈ selected sel, queueOf s.tile q = []) :
    exec (.cdrn h sel) s = .next (issued h false s s) := by
  have passes : (cdrnOp h sel).wait s = false := List.any_eq_false.mpr fun q among => by simp [drained q among]
  exact run_of_plain (o := cdrnOp h sel) ready rfl rfl passes rfl fun _ => rfl

theorem lapw_issues {x : Reg} (ready : Ready h [] s) (come : (readG s.tile.regs x).toNat ≤ lapOf s.flume s.cur) :
    exec (.lapw h x) s = .next (issued h true s s) :=
  run_of_plain (o := lapwOp h x) ready rfl rfl (decide_eq_false (Nat.not_lt.mpr come)) rfl fun _ => rfl

theorem ckill_issues {sel : QSel} (ready : Ready h [] s) :
    exec (.ckill h sel) s = .next (endCycle h.pp s (killQueues (selected sel) (advance s s))) := by
  have issue := run_of_ready (o := ckillOp h sel) ready rfl rfl rfl
  rwa [show ((ckillOp h sel).hdr.pp || (ckillOp h sel).point) = h.pp from Bool.or_false _] at issue

end

/-- Settles O34: a good card is entered as its job, a wait that has passed leaves the state as it was, and a kill acts once the bundle has
issued. -/
theorem copyAndBoardInstructions : Obligations.CopyAndBoardInstructions := fun _ _ _ _ _ _ _ _ =>
  ⟨fun ready reach clean room => ⟨fun good => copyOp_issues ready reach clean room (enterCopy_of_card good),
      fun good => copyOp_issues ready reach clean room (enterCopy_of_displaced good)⟩,
    board_issues, cdrn_issues, lapw_issues, ckill_issues⟩

end Sys2Proof.Proofs
end

section
/-! Proofs for 10_flume.md: mailboxes, raises and completions of a job, and schedule tables (R290; 15_tiles_time.md R399, R400, R405, R406,
R408 to R410). -/

namespace Sys2Proof.Proofs

open Sys2Proof Sys2Proof.Machine Sys2Proof.Safety Sys2Proof.Laws

section

variable {s : State} {h : Hdr} {a : Src}

@[simp] theorem readS1_tile_place (a : Src) (s : State) : (readS1 a s).tile.place = s.tile.place := by
  unfold readS1 latchSa refresh
  split <;> rfl

/-! ## JRAISE (R406) -/

theorem jraiseEff_of_fits {v : Word} (early : s.tile.place.posted = false) (fits : s.tile.place.pend.toNat + v.toNat < 2 ^ 32) :
    jraiseEff v s = onPlace (fun p => { p with pend := BitVec.ofNat 32 (p.pend.toNat + v.toNat) }) s := by
  simp only [jraiseEff, early, Bool.false_and, Bool.false_eq_true, if_false, if_neg (Nat.not_le.mpr fits)]

theorem jraiseEff_of_large {v : Word} (early : s.tile.place.posted = false) (large : 2 ^ 32 ≤ s.tile.place.pend.toNat + v.toNat) :
    jraiseEff v s = jcbFault 33 s := by
  simp only [jraiseEff, early, Bool.false_and, Bool.false_eq_true, if_false, if_pos large]

theorem jraiseEff_of_posted (v : Word) (posted : s.tile.place.posted = true) (this : s.tile.place.thisRun = true) :
    jraiseEff v s = jcbFault 32 s := by
  simp [jraiseEff, posted, this]

/-- In a run after the one that posted a raise does nothing. -/
theorem jraiseEff_of_later (v : Word) (posted : s.tile.place.posted = true) (later : s.tile.place.thisRun = false) : jraiseEff v s = s := by
  simp [jraiseEff, posted, later]

theorem jraise_issues {u : State} (ready : Ready h [] s) (eff : jraiseEff (srcSa s.tile.regs a) (readS1 a s) = u) :
    exec (.jraise h a) s = .next (issued h false s u) :=
  run_of_plain (o := jraiseOp h a) ready eff rfl rfl rfl fun _ => rfl

/-! ## JDONE (R406) -/

theorem jdoneEff_of_early (early : s.tile.place.posted = false) : jdoneEff s =
    stored (jdoneEntry s.tile.place.pend) (onPlace (fun p => { p with pend := 0, posted := true, thisRun := true }) s) := by
  simp only [jdoneEff, early, Bool.false_and, Bool.false_eq_true, if_false]
  rfl

theorem jdoneEff_of_posted (posted : s.tile.place.posted = true) (this : s.tile.place.thisRun = true) : jdoneEff s = jcbFault 34 s := by
  simp [jdoneEff, posted, this]

theorem jdoneEff_of_later (posted : s.tile.place.posted = true) (later : s.tile.place.thisRun = false) : jdoneEff s = s := by
  simp [jdoneEff, posted, later]

/-- JDONE waits for a place in the store queue only where it takes one (log entry 50). -/
theorem jdone_issues {u : State} (ready : Ready h [] s) (place : s.tile.place.posted = true ∨ s.tile.eng.sq.length < 32) (eff : jdoneEff s = u) :
    exec (.jdone h) s = .next (issued h false s u) := by
  have passes : (jdoneOp h).wait s = false := by
    obtain posted | room := place
    · simp [jdoneOp, posted]
    · simp [jdoneOp, sqFull, sqDepth, Nat.not_le.mpr room]
  exact run_of_plain (o := jdoneOp h) ready eff rfl passes rfl fun _ => rfl

/-! ## NEXT (R405, R408, R410) -/

theorem commitPend_of_zero (zero : s.tile.place.pend = 0) : commitPend s = s := if_pos (by simp [zero])

theorem commitPend_of_done {u : State} (raised : s.tile.place.pend ≠ 0)
    (done : jcbUpdate (jcbOf (ownBind s)) s.tile.place.pend.toNat 0 (onPlace (fun p => { p with pend := 0 }) s) = .done u) :
    commitPend s = u := by
  have raise : s.tile.place.pend.toNat ≠ 0 := fun zero => raised (BitVec.toNat_inj.mp zero)
  simp only [commitPend, if_neg raise, done]

section

variable {d : Reg} {pe : BitVec 5}

theorem next_issues_end (free : commitHeld s = false) (ready : Ready h [] s) (ended : s.tile.place.schedN.toNat ≤ s.tile.place.schedPos.toNat) :
    exec (.next h d pe) s = .next (issued h false s (onPlace (fun p => { p with schedProg := false })
      (pushRes 0 2 0 (.gp d 0 (physP s.tile.regs pe) true) (commitPend s)))) := by
  have none_left : itemLeft s.tile.place = false := decide_eq_false (Nat.not_lt.mpr ended)
  refine run_of_plain (o := nextOp h d pe) ?_ ?_ rfl free ?_ (fun _ => rfl) free
  all_goals simp only [nextOp, none_left, Bool.false_eq_true, if_false]
  exact ready

section

variable (ready : Ready h [acc (itemAddr s.tile.place) 4 false] s) (left : s.tile.place.schedPos.toNat < s.tile.place.schedN.toNat)
include ready left

theorem nextOp_ready : Ready (nextOp h d pe).hdr ((nextOp h d pe).access s) s := by
  simp only [nextOp, itemLeft, decide_eq_true left, if_true]
  exact ready

variable (free : commitHeld s = false)
include free

theorem next_issues_item (clean : firstPoison s.tile.mem (itemAddr s.tile.place) 4 = none) :
    exec (.next h d pe) s = .next (issued h false s (onPlace (fun p => { p with schedPos := p.schedPos + 1, schedProg := true })
      (pushRes 0 2 0 (.gp d (BitVec.ofNat 64 (readB s.tile.mem.spad (itemAddr s.tile.place) 4)) (physP s.tile.regs pe) false) (commitPend s)))) := by
  refine run_of_plain (o := nextOp h d pe) (nextOp_ready ready left) ?_ rfl free ?_ (fun _ => rfl) free
  all_goals simp only [nextOp, itemLeft, decide_eq_true left, if_true]
  exact poisonFault_of_clean clean

theorem next_takes_poison {b : Nat} (poisoned : firstPoison s.tile.mem (itemAddr s.tile.place) 4 = some b) :
    Takes (poisonAt b) (.next h d pe) s := by
  refine run_of_fault6 (o := nextOp h d pe) (nextOp_ready ready left) rfl free free ?_
  simp only [nextOp, itemLeft, decide_eq_true left, if_true]
  exact poisonFault_of_poisoned (by decide) poisoned

end

end

end

/-- Settles O30: each instruction issues with the effect that its state selects; NEXT is judged by whether an item is left. -/
theorem mailboxJobAndScheduleInstructions : Obligations.MailboxJobAndScheduleInstructions := by
  intro s h d a idx pe p item n
  have place : (readS1 a s).tile.place = p := readS1_tile_place a s
  refine ⟨fun ready => ?_, fun ready early fits => ?_, fun ready early room => ?_,
    fun ready posted => ⟨fun this => ⟨?_, ?_⟩, fun later => ⟨?_, ?_⟩⟩, fun ready early large => ?_,
    fun free => ⟨next_issues_end free, fun ready left => ⟨next_issues_item ready left free, fun _ => next_takes_poison ready left free⟩⟩,
    commitPend_of_zero, fun raised _ => commitPend_of_done raised⟩
  · exact run_of_plain (o := mbxOp h d a idx) ready rfl rfl rfl rfl fun _ => rfl
  · exact jraise_issues ready (jraiseEff_of_fits (by rwa [place]) (by rwa [place]))
  · exact jdone_issues ready (.inr room) (jdoneEff_of_early early)
  · exact jraise_issues ready (jraiseEff_of_posted _ (by rwa [place]) (by rwa [place]))
  · exact jdone_issues ready (.inl posted) (jdoneEff_of_posted posted this)
  · exact jraise_issues ready (jraiseEff_of_later _ (by rwa [place]) (by rwa [place]))
  · exact jdone_issues ready (.inl posted) (jdoneEff_of_later posted later)
  · exact jraise_issues ready (jraiseEff_of_large (by rwa [place]) (by rwa [place]))

end Sys2Proof.Proofs
end

section
/-! Proofs for 10_flume.md: the commands of VD 0 (R279; 14_translation.md R375; 16_preemption.md R437, R442; 17_host.md R443, R449, R450, R473). -/

namespace Sys2Proof.Proofs

open Sys2Proof Sys2Proof.Machine Sys2Proof.Safety Sys2Proof.Laws

/-! ## Commands that set a field of their target (R449, R450) -/

section

variable {c : Cmd} {t : State}

section

variable (off : (getVd (cmdTarget c) t).enabled = false)
include off

theorem quotaCmd_of_off : quotaCmd c t = .done 1 0 t := if_pos (by simp [targetOk, off])
theorem enrollCmd_of_off : enrollCmd c t = .done 1 0 t := if_pos (by simp [targetOk, off])
theorem poolCmd_of_off : poolCmd c t = .done 1 0 t := if_pos (by simp [targetOk, off])
theorem accessCmd_of_off (allow : Bool) : accessCmd allow c t = .done 1 0 t := if_pos (by simp [targetOk, off])

end

section

variable (on : (getVd (cmdTarget c) t).enabled = true) (loose : frozen (getVd (cmdTarget c) t) = false)
include on loose

section

variable (ok : quotaOk (cmdRecord c) = true)
include ok

/-- A QUOTA that neither its operands nor its target refuses sets the record where no gang is above it. -/
theorem quotaCmd_of_admitted (admits : overQuota (cmdTarget c) { getVd (cmdTarget c) t with quota := { raw := cmdRecord c } } t = []) :
    quotaCmd c t = .done 0 0 (dropAll (cmdTarget c) (modVd (cmdTarget c) (fun v => { v with quota := { raw := cmdRecord c } }) t)) := by
  refine (if_neg (by simp [ok, targetOk, on])).trans ((if_neg (Bool.eq_false_iff.mp loose)).trans ?_)
  rw [admits]

/-- QUOTA evicts the gangs that its record no longer admits and waits for them (R437; log entry 34). -/
theorem quotaCmd_of_beyond {k : Nat} {ks : List Nat}
    (beyond : overQuota (cmdTarget c) { getVd (cmdTarget c) t with quota := { raw := cmdRecord c } } t = k :: ks) :
    quotaCmd c t = .wait ((k :: ks).foldl (fun s k => evictGang k s) t) := by
  refine (if_neg (by simp [ok, targetOk, on])).trans ((if_neg (Bool.eq_false_iff.mp loose)).trans ?_)
  rw [beyond]

end

theorem enrollCmd_of_on : enrollCmd c t = .done 0 0 (modVd (cmdTarget c)
    (fun v => { v with keys := v.keys.set (c.q2.extractLsb' 8 2).toNat (cmdRecord c) (c.q2.extractLsb' 8 2).isLt }) t) := by
  simp only [enrollCmd, targetOk, on, loose, Bool.not_true, Bool.false_eq_true, if_false]

theorem poolCmd_of_on (ok : poolOk (cmdTarget c) c.q3.toNat c.q4.toNat t = true) :
    poolCmd c t = .done 0 0 (modVd (cmdTarget c) (fun v => { v with poolBase := c.q3.toNat, poolBytes := c.q4.toNat }) t) := by
  simp only [poolCmd, ok, targetOk, on, loose, Bool.and_self, Bool.not_true, Bool.false_eq_true, if_false]

theorem accessCmd_of_close : accessCmd false c t =
    .done 0 0 (republish (modVd (cmdTarget c) (fun v => { v with models := v.models.filter (· != c.q3.extractLsb' 0 16) }) t)) := by
  simp only [accessCmd, targetOk, on, loose, Bool.not_true, Bool.false_eq_true, if_false]

theorem accessCmd_of_open (closed : (getVd (cmdTarget c) t).models.contains (c.q3.extractLsb' 0 16) = false) : accessCmd true c t =
    .done 0 0 (republish (modVd (cmdTarget c) (fun v => { v with models := v.models ++ [c.q3.extractLsb' 0 16] }) t)) := by
  simp only [accessCmd, targetOk, on, loose, Bool.not_true, Bool.false_eq_true, if_false, if_true, modVd, closed]

end

theorem pairCmd_of_on (on : (getVd (c.q2.extractLsb' 8 8) t).enabled = true) (loose : frozen (getVd (c.q2.extractLsb' 8 8) t) = false) :
    pairCmd c t = .done 0 0 (modVd (c.q2.extractLsb' 8 8) (fun v => { v with
      pairs := v.pairs.set (c.q2.extractLsb' 0 2).toNat (if c.q2.getLsbD 24 then some (c.q2.extractLsb' 16 8) else none)
        (c.q2.extractLsb' 0 2).isLt }) t) := by
  simp only [pairCmd, targetOk, on, loose, Bool.not_true, Bool.false_eq_true, if_false]

end

/-! ## Commands that write to their issuer's space (R442, R449) -/

section

variable {vd : BitVec 8} {c : Cmd} {t u : State}

theorem cmdStore_of_written {va : Nat} {bs : List Byte} (k : Bool → State → CmdOut) (write : sysWrite vd va bs true t = (true, u))
    (free : (getVd vd u).snaphold = (getVd vd t).snaphold) : cmdStore vd c va bs k t = k true u := by
  simp only [cmdStore, unlessHeld, write, free, if_true]

theorem slotsCmd_of_written (write : sysWrite vd c.q2.toNat (slotTable t) true t = (true, u))
    (free : (getVd vd u).snaphold = (getVd vd t).snaphold) : slotsCmd vd c t = .done 0 0 u :=
  cmdStore_of_written _ write free

theorem dumpCmd_of_written (inside : c.q3.toNat + c.q4.toNat ≤ 2 ^ 31)
    (write : sysWrite vd c.q2.toNat (readList t.mem.dmem (dumpBase + c.q3.toNat) c.q4.toNat) true
      (devTouch vd (dumpBase + c.q3.toNat) c.q4.toNat t) = (true, u))
    (free : (getVd vd u).snaphold = (getVd vd t).snaphold) : dumpCmd vd c t = .done 0 0 u := by
  have touched := (devTouch_lineKeeps t vd (dumpBase + c.q3.toNat) c.q4.toNat).snaphold vd
  exact (if_neg (Nat.not_lt.mpr inside)).trans (cmdStore_of_written _ write (free.trans touched.symm))

end

/-- Settles O51: a command that is heard is carried out by its body (`runCmd_of_heard`). -/
theorem managementCommands : Obligations.ManagementCommands := by
  intro c s t u g v heard
  refine ⟨fun off => ⟨fun h => next_of_heard h (quotaCmd_of_off off), fun h => next_of_heard h (enrollCmd_of_off off),
      fun h => next_of_heard h (poolCmd_of_off off),
      fun h => ⟨next_of_heard h (accessCmd_of_off off _), next_of_heard h (accessCmd_of_off off _)⟩⟩,
    fun on h ok loose => ⟨fun admits => next_of_heard h (quotaCmd_of_admitted on loose ok admits), fun k ks beyond => ?_⟩,
    fun on loose => ⟨fun h => next_of_heard h (enrollCmd_of_on on loose), fun h ok => next_of_heard h (poolCmd_of_on on loose ok),
      fun h => ⟨next_of_heard h (accessCmd_of_close on loose), fun closed => next_of_heard h (accessCmd_of_open on loose closed)⟩⟩,
    fun h on loose => next_of_heard h (pairCmd_of_on on loose), fun h write free => next_of_heard h (slotsCmd_of_written write free),
    fun h inside write free => next_of_heard h (dumpCmd_of_written inside write free)⟩
  exact congrArg Host.Outcome.next ((runCmd_of_heard h _).trans (congrArg _ (quotaCmd_of_beyond on loose ok beyond)))

end Sys2Proof.Proofs
end

section
/-! Proofs for 11_copy.md: copy jobs from their start to their release, the piece of one run that an S2S job moves, and the hops of S2T packets
(R300, R304, R306, R309, R310, R314; 12_fabric.md R317, R324). -/

namespace Sys2Proof.Proofs

open Sys2Proof Sys2Proof.Machine Sys2Proof.Safety Sys2Proof.Laws

/-! ## The entries of a queue (R300, R309, R310, R314) -/

section

variable {s : State} {q : BitVec 2} {n : Nat} {j : CJob}

theorem allMoved_iff : allMoved j = true ↔ cardTotal j.card ≤ j.moved ∧ j.packets = 0 := by
  rw [allMoved, Bool.and_eq_true, decide_eq_true_iff, beq_iff_eq]

theorem jobMoved_of_unfinished (more : ¬(cardTotal j.card ≤ j.moved ∧ j.packets = 0)) :
    jobMoved q n j s = onQueue q (fun js => js.set n j) s := if_neg (mt allMoved_iff.mp more)

theorem jobMoved_of_updateHeld (whole : cardTotal j.card ≤ j.moved ∧ j.packets = 0) (held : updateHeld s.tile j = true) :
    jobMoved q n j s = onQueue q (fun js => js.set n { j with fp := [] }) s :=
  (if_pos (allMoved_iff.mpr whole)).trans (if_pos held)

theorem jobMoved_of_ended (whole : cardTotal j.card ≤ j.moved ∧ j.packets = 0) (free : updateHeld s.tile j = false) :
    jobMoved q n j s = copyDone q n j (onQueue q (fun js => js.set n j) s) :=
  (if_pos (allMoved_iff.mpr whole)).trans (if_neg (Bool.eq_false_iff.mp free))

variable (job : (queueOf s.tile q)[n]? = some j)
include job

theorem killedJobRelease_of_killed (killed : j.st = .killed) (landed : j.packets = 0) :
    killedJobRelease q n s = onQueue q (·.eraseIdx n) s := by
  simp only [killedJobRelease, job]
  exact if_pos ⟨killed, landed⟩

theorem copyJobStart_of_clear (oldest : (queueOf s.tile q).findIdx? (·.st == .waiting) = some n)
    (clear : edgesClear s.tile.eng j.serial j.fp = true) (room : ((queueOf s.tile q).filter (·.st == .running)).length < cqRun) :
    copyJobStart q s = onQueue q (fun js => js.set n { j with st := .running }) s := by
  simp only [copyJobStart, oldest, job]
  exact if_pos (Bool.and_eq_true_iff.mpr ⟨clear, decide_eq_true room⟩)

theorem runningJob_of_running (running : j.st = .running) (unheld : standing j.wb = false) (free : relHeld s.tile j = false) :
    runningJob q n s = some j := by
  simp only [runningJob, job]
  exact if_pos ⟨running, unheld, free⟩

end

/-! ## A running job (R304, R309, R310) -/

section

variable {s s' : State} {q : BitVec 2} {n m : Nat} {j j' : CJob} (runs : runningJob q n s = some j)
include runs

theorem copyJobComplete_of_moved (moves : movePieces q (copyFuel s) j { s with fresh := s.fresh + 1 } = (j', .moved m s')) :
    copyJobComplete q n s = jobMoved q n j' s' := by
  simp only [copyJobComplete, runs, moves]

theorem copyJobComplete_of_pageIn (stalls : movePieces q (copyFuel s) j { s with fresh := s.fresh + 1 } = (j', .stall none s')) :
    copyJobComplete q n s = onQueue q (fun js => js.set n j') s' := by
  simp only [copyJobComplete, runs, stalls]

theorem copyJobComplete_of_held {h : Hold}
    (stalls : movePieces q (copyFuel s) j { s with fresh := s.fresh + 1 } = (j', .stall (some h) s')) :
    copyJobComplete q n s =
      countHold s'.tile.place.vd j'.wb h (onQueue q (fun js => js.set n { j' with wb := some (rehold j'.wb h) }) s') := by
  simp only [copyJobComplete, runs, stalls]

theorem copyJobRunFault_of_fail {cause : Nat} {x : Option (XFault × Word × Nat)}
    (fails : movePieces q (cardTotal j.card - j.moved) j s = (j', .fail cause x s')) :
    copyJobRunFault q n s = copyRunFault q n cause x j' s' := by
  simp only [copyJobRunFault, runs, fails]

end

/-! ## Bytes written (R304) -/

theorem smGet_writeList_of_outside {a b : Nat} {bs : List Byte} (m : SMap Byte) (h : b < a ∨ a + bs.length ≤ b) :
    smGet 0 (writeList a bs m) b = smGet 0 m b := by
  induction bs generalizing a m with
  | nil => rfl
  | cons x bs ih =>
    rw [List.length_cons] at h
    rw [writeList, ih _ (by omega), putB, smGet_smPut_of_ne (by omega)]

@[simp] theorem length_blurHull (lo hi : Int) (k : Nat) (f : Int) (bs : List Byte) : (blurHull lo hi k f bs).length = bs.length := by
  simp [blurHull]

/-- Bytes that no read of the job reaches keep their values. -/
theorem blurHull_of_outside {lo hi f : Int} {bs : List Byte} (h : hi < f ∨ f + bs.length ≤ lo) (k : Nat) :
    blurHull lo hi k f bs = bs := by
  have kept : ∀ b ∈ bs.zipIdx, (if lo ≤ f + b.2 ∧ f + b.2 ≤ hi then Config.undefByte k b.2 else b.1) = b.1 := fun b among => by
    have below : b.2 < bs.length := by simpa using List.snd_lt_of_mem_zipIdx among
    exact if_neg (by omega)
  rw [blurHull, List.map_congr_left kept]
  exact List.zipIdx_map_fst 0 bs

theorem readList_spadWrite_blurHull {m : TMem} {a n : Nat} {bs : List Byte} {lo hi : Int} (k : Nat) (wf : Memory.wf m.spad = true)
    (len : bs.length = n) (h : hi < a ∨ (a + n : Int) ≤ lo) : readList (spadWrite a (blurHull lo hi k a bs) m).spad a n = bs := by
  subst len
  rw [blurHull_of_outside h]
  exact readList_writeList wf a bs

/-! ## A piece of the first run of an S2S job (R304, R310) -/

/-- The length of the next piece of a run of `len` bytes of which `moved` have moved, where the first byte of the piece is written to `a`: a piece
ends with the run or with the block of 64 bytes it writes to. -/
def runPiece (len moved a : Nat) : Nat := min (len - moved) (64 - a % 64)

theorem runPiece_bounds {len moved : Nat} (rest : moved < len) (a : Nat) :
    runPiece len moved a ≤ 64 ∧ 0 < runPiece len moved a ∧ moved + runPiece len moved a ≤ len := by
  unfold runPiece
  omega

theorem movePiece_of_firstRun {s : State} {j : CJob} (q : BitVec 2) (dir : cardDir j.card = 3) (rest : j.moved < cardLen0 j.card)
    (clean : firstPoison s.tile.mem (cardSaddr j.card) (cardLen0 j.card) = none) :
    let a := (farBase j.card j.far).toNat + j.moved
    let m := runPiece (cardLen0 j.card) j.moved a
    movePiece q j s = .moved m (onMem (spadWrite a (blurHull (localHull j.card).1 (localHull j.card).2 s.fresh a
      (readList s.tile.mem.spad (cardSaddr j.card + j.moved) m))) { s with fresh := s.fresh + 1 }) := by
  intro a m
  have byte : j.moved % cardLen0 j.card = j.moved := Nat.mod_eq_of_lt rest
  have run : j.moved / cardLen0 j.card = 0 := Nat.div_eq_of_lt rest
  have plane : j.moved / (cardLen0 j.card * cardCnt1 j.card) = 0 := by rw [← Nat.div_div_eq_div_mul, run, Nat.zero_div]
  have near : ((cardSaddr j.card : Int) + j.moved).toNat = cardSaddr j.card + j.moved := rfl
  have far : (farBase j.card j.far + j.moved).toNat = a := by
    have base : 0 ≤ farBase j.card j.far := by
      unfold farBase
      split <;> omega
    omega
  have size : min (cardLen0 j.card - j.moved) (64 - a % 64) = m := rfl
  have unmarked : firstPoison s.tile.mem (cardSaddr j.card + j.moved) m = none := by
    obtain ⟨-, pos, within⟩ := runPiece_bounds rest a
    exact firstPoison_of_part pos (Nat.le_add_right _ _) (by rw [Nat.add_assoc]; exact Nat.add_le_add_left within _) clean
  simp [movePiece, dir, byte, run, plane, near, far, size, unmarked]

theorem movePiece_writes_firstRun {s s' : State} {q : BitVec 2} {j : CJob} {m : Nat} (dir : cardDir j.card = 3)
    (rest : j.moved < cardLen0 j.card) (clean : firstPoison s.tile.mem (cardSaddr j.card) (cardLen0 j.card) = none)
    (moves : movePiece q j s = .moved m s') :
    let a := (farBase j.card j.far).toNat + j.moved
    m ≤ 64 ∧ 0 < m ∧ j.moved + m ≤ cardLen0 j.card
      ∧ (∀ b, b < a ∨ a + m ≤ b → smGet 0 s'.tile.mem.spad b = smGet 0 s.tile.mem.spad b)
      ∧ ((localHull j.card).2 < a ∨ (a + m : Int) ≤ (localHull j.card).1 → Memory.wf s.tile.mem.spad = true →
        readList s'.tile.mem.spad a m = readList s.tile.mem.spad (cardSaddr j.card + j.moved) m) := by
  intro a
  obtain ⟨rfl, rfl⟩ := Move.moved.inj ((movePiece_of_firstRun q dir rest clean).symm.trans moves)
  obtain ⟨small, pos, within⟩ := runPiece_bounds rest a
  refine ⟨small, pos, within, fun b out => smGet_writeList_of_outside _ (by simpa using out), fun apart wf => ?_⟩
  exact readList_spadWrite_blurHull _ wf (length_readList ..) apart

/-! ## Packets (R306, R317, R324) -/

section

variable {s : State} {n : Nat} {p : Packet} (packet : s.packets[n]? = some p)
include packet

theorem s2tPacketHop_of_arrived (arrived : routeDir (getTile p.src s).place.w (getTile p.src s).place.h p = none)
    (first : overtakes s.packets n p = false) : s2tPacketHop n s = deliver n p s := by
  simp only [s2tPacketHop, packet, arrived, first, Bool.false_eq_true, if_false]

theorem s2tPacketHop_of_link {d : Dir} {x y : Nat} (next : routeDir (getTile p.src s).place.w (getTile p.src s).place.h p = some d)
    (link : neighbour (getTile p.src s).place.w (getTile p.src s).place.h p.x p.y d = some (x, y))
    (live : linkStopped s (getTile p.src s) p x y = false) :
    s2tPacketHop n s = { s with packets := s.packets.set n { p with x := x, y := y } } := by
  simp only [s2tPacketHop, packet, next, link, live, Bool.false_eq_true, if_false]

end

/-- Settles O39: the job named, in its state, selects the one change of its queue, and a piece of a run is one write of the bytes read
(`movePiece_of_firstRun`). -/
theorem copyEngineSteps : Obligations.CopyEngineSteps := by
  intro s q n j j' m s' p job
  refine ⟨fun killed landed => congrArg _ (killedJobRelease_of_killed job killed landed),
    fun oldest clear room => congrArg _ (copyJobStart_of_clear job oldest clear room), fun running unheld free => ?_,
    fun packet => ⟨fun arrived first => congrArg _ (s2tPacketHop_of_arrived packet arrived first),
      fun d x y next link live => congrArg _ (s2tPacketHop_of_link packet next link live)⟩⟩
  have runs := runningJob_of_running job running unheld free
  refine ⟨fun moves => ?_, fun stalls => congrArg _ (copyJobComplete_of_pageIn runs stalls),
    fun h stalls => congrArg _ (copyJobComplete_of_held runs stalls), ?_,
    fun cause x fails => congrArg _ (copyJobRunFault_of_fail runs fails)⟩
  · have ends := copyJobComplete_of_moved runs moves
    exact ⟨fun more => congrArg _ (ends.trans (jobMoved_of_unfinished more)),
      fun whole free => congrArg _ (ends.trans (jobMoved_of_ended whole free)),
      fun whole held => congrArg _ (ends.trans (jobMoved_of_updateHeld whole held))⟩
  · rintro a bs dir - - rest clean moves rfl rfl
    exact movePiece_writes_firstRun dir rest clean moves

end Sys2Proof.Proofs
end

section
/-! Proofs for 12_fabric.md: ALIGN, BAR, XMIT and XSEL at issue (R320 to R322, R325, R328 to R331), the arrival and the release of barriers and the
arrival of link data (R321, R322, R324, R329). -/

namespace Sys2Proof.Proofs

open Sys2Proof Sys2Proof.Machine Sys2Proof.Safety Sys2Proof.Laws

/-! ## A syllable held by its own wait (R25) -/

/-- A syllable without timed accesses that its own wait holds spends a held cycle, in which it notes what it notes. -/
theorem run_of_hold {o : SlotOp} {s : State} (j : Judged o.hdr s) (sound : o.fault5 s = none) (waits : o.wait s = true)
    (untimed : o.access s = []) : o.run s = .next (heldHaltable (o.held (o.reach s))) := by
  have one : guarded [o] s = [o] := guarded_one_on j.guard
  have five : firstOf SlotOp.fault5 (guarded [o] s) s = none := by simp [one, firstOf, firstFault, sound]
  have holds : isHeld [o] s = true := by simp [isHeld, one, waits]
  have free : ¬ o.fpHeld s = true := by simp [SlotOp.fpHeld, untimed]
  have noted : noteHold [o] s = o.held (o.reach s) := (noteHold_one j.guard (.inr waits)).trans (if_neg free)
  simp [SlotOp.run, issueOps, j.settled, j.fresh, five, holds, noted]

/-! ## ALIGN (R331) -/

section

variable {s : State} {h : Hdr}

theorem phaseFault_of_inside (inside : inPhase s = true) : phaseFault s = some (illegal s) := if_pos inside

theorem phaseFault_of_outside (outside : inPhase s = false) : phaseFault s = none := if_neg (Bool.eq_false_iff.mp outside)

theorem align_holds {peer : Bool} (j : Judged h s) (outside : inPhase s = false) (early : alignNow peer s = false) :
    exec (.align h peer) s = .next (heldHaltable s) :=
  run_of_hold (o := alignOp h peer) j (phaseFault_of_outside outside) (by simp [alignOp, early]) rfl

theorem align_issues {peer : Bool} (ready : Ready h [] s) (outside : inPhase s = false) (come : alignNow peer s = true) :
    exec (.align h peer) s = .next (issued h false s s) :=
  run_of_plain (o := alignOp h peer) ready rfl (phaseFault_of_outside outside) (by simp [alignOp, come]) rfl fun _ => rfl

/-! ## BAR (R321, R322) -/

variable {k : BarKind} {e : BitVec 5}

theorem barFault_of_open (released : s.tile.ctl.barOpen = true) : barFault k e s = none := if_pos released

section

variable (closed : s.tile.ctl.barOpen = false)
include closed

theorem barFault_of_outsider (out : inScope s.tile e.toNat s.tile.place.x s.tile.place.y = false) : barFault k e s = some (illegal s) := by
  simp only [barFault, closed, out, Bool.false_eq_true, if_false, Bool.not_false, if_true]

theorem barFault_open_of_inside (inside : inPhase s = true) : barFault .open_ e s = some (illegal s) := by
  simp only [barFault, closed, inside, Bool.false_eq_true, if_false, if_true, ite_self]

theorem barFault_close_of_other (other : s.tile.eng.phase ≠ some e) : barFault .close_ e s = some (illegal s) := by
  simp only [barFault, closed, other, Bool.false_eq_true, if_false, ite_self]

/-- A BAR that nothing else holds spends a held cycle in which it arrives (R321). -/
theorem bar_arrives (j : Judged h s) (sound : barFault k e s = none) :
    exec (.bar h k e) s = .next (heldHaltable (barArrive k e s)) :=
  run_of_hold (o := barOp h k e) j sound (by simp [barOp, closed]) rfl

end

theorem bar_issues (ready : Ready h [] s) (released : s.tile.ctl.barOpen = true) : exec (.bar h k e) s =
    .next (issued h false s (onTile (fun t => setEpisode e.toNat { count := (episode t e.toNat).count + 1, arrived := none } t) s)) :=
  run_of_plain (o := barOp h k e) ready rfl (barFault_of_open released) (by simp [barOp, released]) rfl fun _ => rfl

/-! ## XMIT and XSEL (R328 to R330) -/

variable {d : Dir} {v : Reg} {q : Nat}

theorem linkFault_of_outside (outside : s.tile.eng.phase = none) : linkFault d s = some (illegal s) := by
  simp only [linkFault, outside]

section

variable (inside : s.tile.eng.phase = some e)
include inside

theorem linkFault_of_noTile (away : farTile s e d = none) :
    linkFault d s = some (faultAtPc 0x09 0 (e.toNat * 2 ^ 10 + d.code.toNat * 2 ^ 8) s) := by
  simp only [linkFault, inside, away, Option.isSome_none, Bool.false_eq_true, if_false]

variable (far : farTile s e d = some q)
include far

theorem linkFault_of_tile : linkFault d s = none := by
  simp only [linkFault, inside, far, Option.isSome_some, if_true]

theorem xmit_eff_of_tile : (xmitOp h d v).eff s s = modTile q (fun t =>
    { t with eng := { t.eng with links := t.eng.links ++ [(s.mod.cycle + 4, (Machine.opposite d).code, readV s.tile.regs v)] } }) s := by
  simp only [xmitOp, inside, Option.bind_some, far]

end

end

/-- Settles O25: ALIGN is judged by the phase and the time, BAR by its barrier and the phase, XMIT and XSEL by the tile beyond their link. -/
theorem fabricInstructions : Obligations.FabricInstructions := by
  intro s h peer k e d v
  refine ⟨fun j => ⟨fun inside => ?_, align_holds j, fun closed => ⟨fun out => ?_, fun inside => ?_, fun other => ?_⟩,
      fun outside => ⟨?_, ?_⟩, fun inside away => ?_⟩,
    fun ready => ⟨align_issues ready, bar_issues ready, fun q inside far => ?_, fun q inside far => ?_⟩⟩
  · exact run_of_fault5 (o := alignOp h peer) j (phaseFault_of_inside inside) rfl
  · exact run_of_fault5 (o := barOp h k e) j (barFault_of_outsider closed out) rfl
  · exact run_of_fault5 (o := barOp h .open_ e) j (barFault_open_of_inside closed inside) rfl
  · exact run_of_fault5 (o := barOp h .close_ e) j (barFault_close_of_other closed other) rfl
  · exact run_of_fault5 (o := xmitOp h d v) j (linkFault_of_outside outside) rfl
  · exact run_of_fault5 (o := xselOp h d v) j (linkFault_of_outside outside) rfl
  · have fault := linkFault_of_noTile inside away
    intro i either
    refine ⟨faultAtPc 0x09 0 (e.toNat * 2 ^ 10 + d.code.toNat * 2 ^ 8) s, ?_, rfl, rfl, rfl⟩
    obtain rfl | rfl : i = .xmit h d v ∨ i = .xsel h d v := by simpa using either
    · exact run_of_fault5 (o := xmitOp h d v) j fault rfl
    · exact run_of_fault5 (o := xselOp h d v) j fault rfl
  · exact run_of_plain (o := xmitOp h d v) ready (xmit_eff_of_tile inside far) (linkFault_of_tile inside far) rfl rfl fun _ => rfl
  · exact run_of_plain (o := xselOp h d v) ready rfl (linkFault_of_tile inside far) rfl rfl fun _ => rfl

/-! ## Arrival and release (R321, R322) -/

section

variable {s : State} {k : BarKind} {e : BitVec 5}

theorem episode_setEpisode_arrived (n : Nat) (c : BitVec 16) (a : Option BarKind × Word) (t : Tile) :
    episode (setEpisode n { count := c, arrived := some a } t) n = { count := c, arrived := some a } := by
  have listed : smPut {} n { count := c, arrived := some a } t.eng.epi = smSet n { count := c, arrived := some a } t.eng.epi :=
    if_neg (by simp)
  rw [episode, setEpisode, listed, smGet_smSet, if_pos rfl]

/-- The first held cycle of a BAR notes its arrival with the CYCLE of that moment. -/
theorem barArrive_of_first (first : (episode s.tile e.toNat).arrived = none) :
    (episode (barArrive k e s).tile e.toNat).arrived = some (some k, s.mod.cycle) := by
  simp only [barArrive, onTile_tile, first, episode_setEpisode_arrived]

/-- The later ones change nothing of it. -/
theorem barArrive_of_arrived {k' : BarKind} {c : Word} (arrived : (episode s.tile e.toNat).arrived = some (some k', c)) :
    barArrive k e s = s := by
  simp only [barArrive, onTile, arrived]

theorem barArrive_pc : (barArrive k e s).tile.ctl.pc = s.tile.ctl.pc := by
  unfold barArrive
  dsimp only [onTile_tile]
  split <;> rfl

@[simp] theorem heldHaltable_pc (s : State) : (heldHaltable s).tile.ctl.pc = s.tile.ctl.pc := rfl
@[simp] theorem episode_heldHaltable (s : State) (n : Nat) : episode (heldHaltable s).tile n = episode s.tile n := rfl

/-- The latest arrival is no earlier than each, nor than the value it is sought from. -/
theorem le_foldl_max (xs : List (Option Nat)) (a : Nat) :
    a ≤ xs.foldl (fun a x => max a (x.getD 0)) a ∧ ∀ c, some c ∈ xs → c ≤ xs.foldl (fun a x => max a (x.getD 0)) a := by
  induction xs generalizing a with
  | nil => exact ⟨Nat.le_refl a, fun c h => absurd h List.not_mem_nil⟩
  | cons x xs ih =>
    obtain ⟨base, each⟩ := ih (max a (x.getD 0))
    refine ⟨(Nat.le_max_left _ _).trans base, fun c h => ?_⟩
    obtain rfl | later := List.mem_cons.mp h
    · exact (Nat.le_max_right a c).trans base
    · exact each c later

/-- A barrier that is due has the arrival of every member, each Dbar or more before this cycle (R321). -/
theorem barrierDue_arrivals {n : Nat} (due : barrierDue s n = true) {p : Nat} (member : p ∈ scopeTiles s n) :
    (arrivalOf (getTile p s) n (nextEpisode s.tile n)).isSome = true
      ∧ ∀ c, arrivalOf (getTile p s) n (nextEpisode s.tile n) = some c → c + 8 ≤ s.mod.cycle.toNat := by
  simp only [barrierDue, Bool.and_eq_true, barrierDelay] at due
  obtain ⟨⟨⟨⟨-, all⟩, -⟩, -⟩, passed⟩ := due
  have listed : arrivalOf (getTile p s) n (nextEpisode s.tile n)
      ∈ (scopeTiles s n).map fun p => arrivalOf (getTile p s) n (nextEpisode s.tile n) := List.mem_map_of_mem member
  refine ⟨List.all_eq_true.mp all _ listed, fun c at_c => ?_⟩
  have latest := (le_foldl_max _ 0).2 c (at_c ▸ listed)
  have bound := of_decide_eq_true passed
  omega

section

variable (due : barrierDue s e.toNat = true)
include due

theorem barrierRelease_of_oneKind {kind : BarKind}
    (one : (kindsOf (((scopeTiles s e.toNat).filter fun p => releases e.toNat (nextEpisode s.tile e.toNat) (getTile p s)).map (getTile · s))
      e.toNat (nextEpisode s.tile e.toNat)).eraseDups = [kind]) :
    barrierRelease e s = overTiles ((scopeTiles s e.toNat).filter fun p => releases e.toNat (nextEpisode s.tile e.toNat) (getTile p s))
      (releaseTile kind e) s := by
  simp only [barrierRelease, due, if_true, one]

theorem barrierRelease_of_mixed
    (mixed : ∀ kind, (kindsOf (((scopeTiles s e.toNat).filter fun p => releases e.toNat (nextEpisode s.tile e.toNat) (getTile p s)).map
      (getTile · s)) e.toNat (nextEpisode s.tile e.toNat)).eraseDups ≠ [kind]) :
    barrierRelease e s = eachTile (((scopeTiles s e.toNat).filter fun p => releases e.toNat (nextEpisode s.tile e.toNat) (getTile p s)).filter
      fun p => (getTile p s).ctl.run = .running) (mixedKinds e) s := by
  simp only [barrierRelease, due, if_true]

end

end

/-! ## Link data (R329) -/

theorem arriveLinks_links (c : Word) (e : Eng) : (arriveLinks c e).links = e.links.filter fun l => decide (c.toNat < l.1.toNat) :=
  List.filter_congr fun l _ => by rw [← decide_not, decide_eq_decide, Nat.not_le]

theorem arriveLinks_latch {c : Word} {e : Eng} {x : Word × BitVec 2 × VWord} (alone : e.links = [x]) (due : x.1.toNat ≤ c.toNat) :
    (arriveLinks c e).latches[x.2.1.toNat]'x.2.1.isLt = x.2.2 := by
  simp [arriveLinks, alone, due]

/-- Settles O26: the held cycle of a BAR is its arrival, a due barrier has an arrival of each member (`barrierDue_arrivals`), and link data whose
cycle has come reaches its latch. -/
theorem barriersArriveAndRelease : Obligations.BarriersArriveAndRelease := by
  intro s h k e
  refine ⟨fun j sound closed => ⟨_, bar_arrives closed j sound, barArrive_pc, barArrive_of_first, fun k' c arrived => ?_⟩,
    fun due => ⟨fun p => barrierDue_arrivals due, fun one => ?_, fun mixed => ?_⟩,
    ⟨_, rfl, arriveLinks_links _ _, fun x alone due => arriveLinks_latch alone due⟩⟩
  · rw [barArrive_of_arrived arrived, episode_heldHaltable]
  · exact congrArg Host.Outcome.next (barrierRelease_of_oneKind due one)
  · exact congrArg Host.Outcome.next (barrierRelease_of_mixed due mixed)

end Sys2Proof.Proofs
end

section
/-! Proofs for 12_fabric.md: the commands on images, streams and jobs (R318; 15_tiles_time.md R398, R404; 17_host.md R447 to R450, R455, R467). -/

namespace Sys2Proof.Proofs

open Sys2Proof Sys2Proof.Machine Sys2Proof.Safety Sys2Proof.Laws

section

variable {vd : BitVec 8} {c : Cmd} {t u w : State}

/-! ## PUBLISH and RETIRE (R450, R451, R455) -/

section

variable {a n : Nat} (pos : 0 < n)
include pos

theorem imageBytes_of_noTranslation (fails : sysOk vd a n true false t = (false, w)) : imageBytes vd a n t = (.error 1, w) := by
  simp only [imageBytes, if_neg (Nat.ne_of_gt pos), fails]

theorem imageBytes_of_large (ok : sysOk vd a n true false t = (true, w)) (large : 2 ^ 28 < n) : imageBytes vd a n t = (.error 5, w) := by
  simp only [imageBytes, if_neg (Nat.ne_of_gt pos), ok, if_pos large]

end

section

variable (quota : (getVd vd t).quota.raw ≠ 0)
include quota

theorem publishCmd_of_unread {status : Nat} (unread : imageBytes vd c.q2.toNat c.q3.toNat t = (.error status, u)) :
    publishCmd vd c t = .done status 0 u := by
  simp only [publishCmd, if_neg quota, unread]

variable {bs : List Byte} (read : imageBytes vd c.q2.toNat c.q3.toNat t = (.ok bs, u))
include read

theorem publishCmd_of_refused {e : Nat × Nat} (land : landing (getVd vd t) (getVd vd t).nextImage (scopePlace u) c.q2.toNat bs = .error e) :
    publishCmd vd c t = .done e.1 e.2 u := by
  simp only [publishCmd, if_neg quota, read, land]

/-- An image that the Landing accepts is kept where the quota admits it. -/
theorem publishCmd_of_landed {i : Image} (land : landing (getVd vd t) (getVd vd t).nextImage (scopePlace u) c.q2.toNat bs = .ok i) :
    publishCmd vd c t = if quotaAdmits (getVd vd t) i then
        .done 0 i.handle.toNat (modVd vd (fun v => { v with images := v.images ++ [i], nextImage := v.nextImage + 1 }) (buildScopes i bs u))
      else .done 3 0 u := by
  simp only [publishCmd, if_neg quota, read, land]

end

/-! ## Streams (R449, R450) -/

/-- No stream of a number that none has is open. -/
theorem openStreamOf_of_unused {v : VDev} {n : BitVec 16} (unused : v.streams.any (·.num == n) = false) : openStreamOf v n = none := by
  refine List.find?_eq_none.mpr fun st among => ?_
  have other : (st.num == n) = false := Bool.eq_false_iff.mpr (List.any_eq_false.mp unused st among)
  simp [other]

theorem openCmd_of_unused (quota : (getVd vd t).quota.raw ≠ 0) (unused : (getVd vd t).streams.any (·.num == cmdStream c) = false)
    (prio : field c.q2.toNat 18 16 ≤ qPmax (getVd vd t)) (room : ((getVd vd t).streams.filter (! ·.closed)).length < qStreams (getVd vd t)) :
    openCmd vd c t = .done 0 0 (modVd vd (fun v => { v with streams := v.streams ++
      [{ num := cmdStream c, prio := field c.q2.toNat 18 16 }] }) t) := by
  have admitted : ¬(qPmax (getVd vd t) < field c.q2.toNat 18 16
      ∨ qStreams (getVd vd t) ≤ ((getVd vd t).streams.filter (! ·.closed)).length) := by omega
  simp only [openCmd, if_neg quota, openStreamOf_of_unused unused, if_neg admitted, unused, Option.isSome_none, Bool.false_eq_true, if_false]

theorem closeCmd_of_noJobs {st : StreamSt} (known : openStreamOf (getVd vd t) (cmdStream c) = some st) (idle : st.jobs = []) :
    closeCmd vd c t = .done 0 0 (modVd vd (closeIn (cmdStream c)) t) := by
  simp only [closeCmd, known, idle, List.filter_nil, endJobs]
  rfl

/-! ## Jobs (R387, R398, R404, R449, R467) -/

theorem submitCmd_of_known {st : StreamSt} (jcb : c.q3.toNat % 32 = 0 ∧ c.q3.toNat < 2 ^ 48) (mbox : c.q4.toNat % 64 = 0 ∧ c.q4.toNat < 2 ^ 48)
    (save : c.q5.toNat % 4096 = 0 ∧ c.q5.toNat < 2 ^ 48) (known : openStreamOf (getVd vd t) (cmdStream c) = some st)
    (image : ((getVd vd t).images.any fun i => i.handle == c.q2.extractLsb' 32 32 && !i.retired) = true) :
    submitCmd vd c t = .done 0 (getVd vd t).genCtr.toNat
      (modVd vd (submitTo (cmdStream c) t.mod.time (newJob (getVd vd t).genCtr c st.prio)) t) := by
  have formed : ¬(c.q3.toNat % 32 ≠ 0 ∨ c.q4.toNat % 64 ≠ 0 ∨ c.q5.toNat % 4096 ≠ 0 ∨ 2 ^ 48 ≤ c.q3.toNat ∨ 2 ^ 48 ≤ c.q4.toNat
      ∨ 2 ^ 48 ≤ c.q5.toNat) := by omega
  simp only [submitCmd, if_neg formed, known, image, if_true]
  rfl

section

variable {j : Job} (known : knownJob (getVd vd t) c = some j)
include known

/-- MBOXW writes its word and then the tiles' copies, or waits while the write is held. -/
theorem mboxwCmd_of_known {k : Nat} (slot : j.slot = some k) :
    let n := c.q2.extractLsb' 32 6
    let u := (mailWrite vd k n c.q3 t).2
    mboxwCmd vd c t = if (getVd vd u).snaphold = (getVd vd t).snaphold then .done 0 0 (mailCopied k n c.q3 u)
      else .wait (holdCmd vd c none t) := onRecord_of_known known slot _

theorem jpostCmd_of_done (done : jcbUpdate (jobJcb vd (cmdStream c) j) 0 1 t = .done u) : jpostCmd vd c t = .done 0 0 u := by
  simp only [jpostCmd, known, done]

theorem jpostCmd_of_held (held : jcbUpdate (jobJcb vd (cmdStream c) j) 0 1 t = .held u) : jpostCmd vd c t = .wait (holdCmd vd c none u) := by
  simp only [jpostCmd, known, held]

end

/-- An opcode of no command, taken up, is answered with status 1 (R448). -/
theorem unknownOp_of_taken {s : State} (live : (getVd vd s).tstate ≠ .error) (word : sysOk vd (cmdDone c) 16 false true s = (true, t))
    (fresh : cmdResult vd c t = none) : exec (.unknownOp vd c) s = .next (answered vd c 1 0 t) := by
  refine congrArg Host.Outcome.next ?_
  simp only [cmdTake, if_neg live, word, fresh]
  rfl

end

/-- Settles O49: a command that is heard ends as its body says (`runCmd_of_heard`), and the body of each is followed along the branch that the
hypotheses choose. -/
theorem imageStreamAndJobCommands : Obligations.ImageStreamAndJobCommands := by
  intro vd c s t u w bs st j k v
  refine ⟨fun heard quota pos => ⟨fun fails => ?_, fun ok => ⟨fun large => ?_, fun small read => ?_⟩⟩, fun heard image => ?_,
    fun heard quota unused prio room => ?_, fun heard known idle => ?_, fun heard a3 a4 a5 l3 l4 l5 known image => ?_,
    fun heard known slot => ?_, fun heard known => ⟨fun done => ?_, fun held => ?_⟩, unknownOp_of_taken⟩
  · exact next_of_heard heard (publishCmd_of_unread quota (imageBytes_of_noTranslation pos fails))
  · exact next_of_heard heard (publishCmd_of_unread quota (imageBytes_of_large pos ok large))
  · have bytes := imageBytes_of_read pos small ok read
    refine congrArg Host.Outcome.next ((runCmd_of_heard heard _).trans ?_)
    cases land : landing v v.nextImage (scopePlace u) c.q2.toNat bs with
    | error e => exact congrArg (cmdEnded vd c) (publishCmd_of_refused quota bytes land)
    | ok i =>
      rw [publishCmd_of_landed quota bytes land, apply_ite (cmdEnded vd c)]
      rfl
  · exact next_of_heard heard (if_pos image)
  · exact next_of_heard heard (openCmd_of_unused quota unused prio room)
  · exact next_of_heard heard (closeCmd_of_noJobs known idle)
  · exact next_of_heard heard (submitCmd_of_known ⟨a3, l3⟩ ⟨a4, l4⟩ ⟨a5, l5⟩ known image)
  · refine congrArg Host.Outcome.next ((runCmd_of_heard heard _).trans ?_)
    rw [mboxwCmd_of_known known slot, apply_ite (cmdEnded vd c)]
    rfl
  · exact next_of_heard heard (jpostCmd_of_done known done)
  · exact congrArg Host.Outcome.next ((runCmd_of_heard heard _).trans (congrArg (cmdEnded vd c) (jpostCmd_of_held known held)))

end Sys2Proof.Proofs
end

section
/-! Proofs for 13_memory.md: LDG, AMO, ACAS, STG, RED and MBXW at issue (R344 to R349, R353, R354; 14_translation.md R379, R381;
15_tiles_time.md R401). -/

namespace Sys2Proof.Proofs

open Sys2Proof Sys2Proof.Machine Sys2Proof.Safety Sys2Proof.Laws

section

variable {s : State} {h : Hdr} {w : Width} {o : Order} {d b : Reg} {base : Src} {sc : Scope}

/-- A syllable that is ready is judged where no bank conflict is being counted. -/
theorem Ready.judged (ready : Ready h [] s) (fresh : s.tile.ctl.bankLeft = none) : Judged h s := ⟨ready.guard, ready.settled, fresh⟩

theorem globalAlign_of_aligned {v : Word} (aligned : v.toNat % Width.size w = 0) : globalAlign w v = none := if_neg (not_not_intro aligned)

/-! ## LDG (R344, R345, R353) -/

section

variable {sd : ScopeDisp} (aligned : (globalAddr s.tile.regs base sd).toNat % Width.size w = 0)
include aligned

theorem ldg_issues (ready : Ready h [] s) (free : accessHeld s o (scopeOf sd) (globalAddr s.tile.regs base sd) w = false) :
    exec (.ldg h w o d base sd) s = .next (issued h false s (heldOn (ldgOf s w o d base sd) (readS1 base s))) :=
  run_of_plain (o := ldgOp h w o d base sd) ready rfl (globalAlign_of_aligned aligned) free rfl (fun _ => rfl) free

theorem ldg_holds (j : Judged h s) (held : accessHeld s o (scopeOf sd) (globalAddr s.tile.regs base sd) w = true) :
    exec (.ldg h w o d base sd) s = .next (heldHaltable s) :=
  run_of_hold (o := ldgOp h w o d base sd) j (globalAlign_of_aligned aligned) held rfl

end

/-! ## AMO and ACAS at their cluster's port (R348, R349, R379, R381) -/

/-- A syllable that makes the atomic access `x` at its cluster's port: what AMO and ACAS have in common. -/
structure AtomicOp (h : Hdr) (base : Src) (x : GAccess) (s : State) (op : SlotOp) : Prop where
  hdr    : op.hdr = h
  point  : op.point = false
  access : op.access s = []
  addr   : x.va = srcSa s.tile.regs base
  fault5 : op.fault5 s = globalAlign x.width x.va
  fault6 : op.fault6 s = none
  wait   : op.wait s = portHolds x.width x.order x.scope x.va s
  again  : op.again s = portHolds x.width x.order x.scope x.va s
  reach  : op.reach s = portReach x.width x.order x.scope x.va s
  held   : op.held = id
  eff    : op.eff s s = beginAtomic x (readS1 base s)
  post   : ∀ t, op.post s t = t

theorem amo_atomic (op : AmoOp) : AtomicOp h base (amoOf s op w o sc d base b) s (amoOp h op w o sc d base b) :=
  ⟨rfl, rfl, rfl, rfl, rfl, rfl, rfl, rfl, rfl, rfl, rfl, fun _ => rfl⟩

theorem acas_atomic : AtomicOp h base (acasOf s w o sc d base b) s (acasOp h w o sc d base b) :=
  ⟨rfl, rfl, rfl, rfl, rfl, rfl, rfl, rfl, rfl, rfl, rfl, fun _ => rfl⟩

section

variable {x : GAccess} {op : SlotOp} {t u : State}

theorem beginAtomic_of_go {e : TlbEnt} (go : atPort x.va s = (.go e, t)) :
    let r := takeEnt e x.width (accessOp x) x.va t
    beginAtomic x s = heldOn { x with ent := some e, note := r.1 } (copyAhead e x.va r.2) := by
  simp only [beginAtomic, go]
  rfl

theorem beginAtomic_of_fault {y : XFault} (fault : atPort x.va s = (.fault y, t)) :
    beginAtomic x s = raiseDeferred (xTFault y x.va (accessSource x.kind)) t := by
  simp only [beginAtomic, fault]

/-- An access whose port holds it, or whose page is paged in, waits. -/
theorem portHolds_of_port {va : Word} (port : (∃ p, atPort va s = (.held p, t)) ∨ atPort va s = (.paging, t)) :
    portHolds w o sc va s = true := by
  rcases port with ⟨p, port⟩ | port <;> simp [portHolds, port]

section

variable {va : Word} (unheld : standing s.tile.ctl.portHeld = false) (first : accessHeld s o sc va w = false)
include unheld first

theorem portReach_of_held {p : Hold} (port : atPort va s = (.held p, t)) : portReach w o sc va s = holdPort p t := by
  simp only [portReach, unheld, first, port, Bool.or_self, Bool.false_eq_true, if_false]

theorem portReach_of_paging (port : atPort va s = (.paging, t)) : portReach w o sc va s = t := by
  simp only [portReach, unheld, first, port, Bool.or_self, Bool.false_eq_true, if_false]

end

/-- A hold that stands, or a store of the tile, keeps an access from its port. -/
theorem portHolds_of_before {va : Word} (before : standing s.tile.ctl.portHeld = true ∨ accessHeld s o sc va w = true) :
    portHolds w o sc va s = true ∧ portReach w o sc va s = s := by
  have kept : (standing s.tile.ctl.portHeld || accessHeld s o sc va w) = true := Bool.or_eq_true_iff.mpr before
  exact ⟨by rw [portHolds, kept, Bool.true_or], by rw [portReach, if_pos kept]⟩

variable (k : AtomicOp h base x s op) (aligned : x.va.toNat % Width.size x.width = 0)
include k aligned

theorem AtomicOp.issues (ready : Ready h [] s) (free : portHolds x.width x.order x.scope x.va s = false)
    (eff : beginAtomic x (readS1 base s) = u) : op.run s = .next (issued h false s u) := by
  have issue := run_of_plain (o := op) (by rwa [k.hdr, k.access]) (k.eff.trans eff) (k.fault5.trans (globalAlign_of_aligned aligned))
    (k.wait.trans free) k.fault6 k.post (k.again.trans free)
  rwa [k.hdr, k.point] at issue

theorem AtomicOp.holds (j : Judged h s) (held : portHolds x.width x.order x.scope x.va s = true)
    (reach : portReach x.width x.order x.scope x.va s = u) : op.run s = .next (heldHaltable u) := by
  have hold := run_of_hold (o := op) (k.hdr ▸ j) (k.fault5.trans (globalAlign_of_aligned aligned)) (k.wait.trans held) k.access
  rwa [k.held, k.reach, reach] at hold

/-- Everything an aligned AMO or ACAS may come to at issue: it issues with the translation that its port finds or to the fault of it, or it is
held before its port, at it, or for its page. -/
theorem AtomicOp.cases (ready : Ready h [] s) :
    (portHolds x.width x.order x.scope x.va s = false →
        (∀ e t, atPort x.va (readS1 base s) = (.go e, t) →
            let r := takeEnt e x.width (accessOp x) x.va t
            op.run s = .next (issued h false s (heldOn { x with ent := some e, note := r.1 } (copyAhead e x.va r.2))))
          ∧ ∀ y t, atPort x.va (readS1 base s) = (.fault y, t) →
            op.run s = .next (issued h false s (raiseDeferred (xTFault y x.va (accessSource x.kind)) t)))
      ∧ (s.tile.ctl.bankLeft = none → standing s.tile.ctl.portHeld = true ∨ accessHeld s x.order x.scope x.va x.width = true →
        op.run s = .next (heldHaltable s))
      ∧ (s.tile.ctl.bankLeft = none → standing s.tile.ctl.portHeld = false → accessHeld s x.order x.scope x.va x.width = false →
        (∀ p t, atPort x.va s = (.held p, t) → op.run s = .next (heldHaltable (holdPort p t)))
          ∧ ∀ t, atPort x.va s = (.paging, t) → op.run s = .next (heldHaltable t)) := by
  refine ⟨fun free => ⟨fun e t go => ?_, fun y t fault => ?_⟩, fun fresh before => ?_,
    fun fresh unheld first => ⟨fun p t port => ?_, fun t port => ?_⟩⟩
  · exact k.issues aligned ready free (beginAtomic_of_go go)
  · exact k.issues aligned ready free (beginAtomic_of_fault fault)
  · obtain ⟨held, reach⟩ := portHolds_of_before before
    exact k.holds aligned (Ready.judged ready fresh) held reach
  · exact k.holds aligned (Ready.judged ready fresh) (portHolds_of_port (.inl ⟨p, port⟩)) (portReach_of_held unheld first port)
  · exact k.holds aligned (Ready.judged ready fresh) (portHolds_of_port (.inr port)) (portReach_of_paging unheld first port)

end

theorem sqFull_of_room (room : s.tile.eng.sq.length < 32) : sqFull s = false := decide_eq_false (Nat.not_le.mpr room)

end

/-- Settles O27: LDG is judged by the stores before it, AMO and ACAS alike by their port (`AtomicOp.cases`), and STG, RED and MBXW enter the
store queue where it has room. -/
theorem globalAccessesBegin : Obligations.GlobalAccessesBegin := by
  intro s h w o d b base sd sc op idx ready g a
  refine ⟨fun aligned => ⟨ldg_issues aligned ready, fun fresh => ldg_holds aligned (Ready.judged ready fresh)⟩, fun aligned i x either => ?_,
    fun room => ⟨fun aligned => ?_, fun aligned => ?_, ?_⟩⟩
  · obtain ⟨rfl, rfl⟩ | ⟨rfl, rfl⟩ := either
    · exact (amo_atomic op).cases aligned ready
    · exact acas_atomic.cases aligned ready
  · exact run_of_plain (o := stgOp h w o d base sd) ready rfl (globalAlign_of_aligned aligned) (sqFull_of_room room) rfl fun _ => rfl
  · exact run_of_plain (o := redOp h op w o sc base b) ready rfl (globalAlign_of_aligned aligned) (sqFull_of_room room) rfl fun _ => rfl
  · exact run_of_plain (o := mbxwOp h base idx) ready rfl rfl (sqFull_of_room room) rfl fun _ => rfl

end Sys2Proof.Proofs
end

section
/-! Proofs for 13_memory.md: fences, monitors, monitored waits and line hints (R337, R342, R343, R353, R359, R360, R363, R364). -/

namespace Sys2Proof.Proofs

open Sys2Proof Sys2Proof.Machine Sys2Proof.Safety Sys2Proof.Laws

section

variable {s : State} {h : Hdr}

/-! ## FENCE (R353, R359, R360) -/

section

variable {k : FenceKind} {sc : Scope}

theorem pends_eq_false {e : SqEntry} : e.pends = false ↔ e.done = true ∨ e.sent = true := by
  cases done : e.done <;> cases sent : e.sent <;> simp [SqEntry.pends, done, sent]

theorem sqPending_eq_nil {sq : List SqEntry} : sqPending sq = [] ↔ ∀ e ∈ sq, e.done = true ∨ e.sent = true := by
  simp only [sqPending, List.filter_eq_nil_iff, Bool.not_eq_true, pends_eq_false]

/-- No write is owed that is made, unless it has gone out and the order is at system scope. -/
theorem owed_eq_false {e : SqEntry} (made : e.done = true ∨ e.sent = true) (answered : sc ≠ .system ∨ (e.sent = true → e.done = true)) :
    e.owed sc = false := by
  cases done : e.done with
  | true => simp [SqEntry.owed, done]
  | false =>
    have sent : e.sent = true := by simpa [done] using made
    have local_ : sc ≠ .system := by simpa [done, sent] using answered
    simp [SqEntry.owed, sent, local_]

/-- With no write still to be made, none of a far one's answers owed either, no FENCE waits. -/
theorem fenceHeld_of_made (none_left : sqPending s.tile.eng.sq = [])
    (answered : sc ≠ .system ∨ ∀ e ∈ s.tile.eng.sq, e.sent = true → e.done = true) : fenceHeld k sc s = false := by
  have made := sqPending_eq_nil.mp none_left
  have clear : s.tile.eng.sq.any (·.owed sc) = false := List.any_eq_false.mpr fun e among =>
    Bool.eq_false_iff.mp (owed_eq_false (made e among) (answered.imp_right fun all => all e among))
  cases k with
  | acq => simp [fenceHeld, none_left]
  | rel => exact clear
  | full => exact clear

theorem fenceHeld_acq_of_noRed (noRed : ∀ x ∈ sqPending s.tile.eng.sq, ∀ op, x.kind ≠ .red op) : fenceHeld .acq sc s = false := by
  refine List.any_eq_false.mpr fun e among => ?_
  cases kind : e.kind with
  | red op => exact absurd kind (noRed e among op)
  | _ => simp

theorem fenceHeld_acq_of_red (red : ∃ x ∈ sqPending s.tile.eng.sq, ∃ op, x.kind = .red op) : fenceHeld .acq sc s = true := by
  obtain ⟨e, among, op, kind⟩ := red
  exact List.any_eq_true.mpr ⟨e, among, by rw [kind]⟩

/-- FENCE.REL and FENCE wait for a write that is owed at their scope. -/
theorem fenceHeld_of_owed (order : k ∈ [FenceKind.rel, .full]) {e : SqEntry} (among : e ∈ s.tile.eng.sq) (owed : e.owed sc = true) :
    fenceHeld k sc s = true := by
  have any : s.tile.eng.sq.any (·.owed sc) = true := List.any_eq_true.mpr ⟨e, among, owed⟩
  obtain rfl | rfl : k = .rel ∨ k = .full := by simpa using order
  · exact any
  · exact any

theorem fenceHeld_of_pending (order : k ∈ [FenceKind.rel, .full]) (pending : sqPending s.tile.eng.sq ≠ []) : fenceHeld k sc s = true := by
  obtain ⟨e, left⟩ := List.exists_mem_of_ne_nil _ pending
  obtain ⟨among, pends⟩ := List.mem_filter.mp left
  obtain ⟨undone, unsent⟩ : e.done = false ∧ e.sent = false := by simpa [SqEntry.pends] using pends
  exact fenceHeld_of_owed order among (by simp [SqEntry.owed, undone, unsent])

theorem fenceHeld_system_of_sent (order : k ∈ [FenceKind.rel, .full]) (out : ∃ x ∈ s.tile.eng.sq, x.sent = true ∧ x.done = false) :
    fenceHeld k .system s = true := by
  obtain ⟨e, among, sent, undone⟩ := out
  exact fenceHeld_of_owed order among (by simp [SqEntry.owed, sent, undone])

theorem fence_issues (ready : Ready h [] s) (passes : fenceHeld k sc s = false) : exec (.fence h k sc) s = .next (issued h false s s) :=
  run_of_plain (o := fenceOp h k sc) ready rfl rfl passes rfl fun _ => rfl

theorem fence_holds (j : Judged h s) (waits : fenceHeld k sc s = true) : exec (.fence h k sc) s = .next (heldHaltable s) :=
  run_of_hold (o := fenceOp h k sc) j rfl waits rfl

end

/-! ## WAITM (R364) -/

section

variable {w : Width} {d : Reg} {a b : Src} (aligned : (srcSa s.tile.regs a).toNat % Width.size w = 0)
include aligned

theorem waitm_issues_of_read (ready : Ready h [] s) (read : s.tile.ctl.waitRead = true)
    (ended : s.tile.eng.mon = none ∨ monWoken s = true ∨ s.tile.ctl.waitOut = true ∨ waitmTimedOut s = true) :
    exec (.waitm h w d a b) s = .next (issued h true s (withMonitor none (readS2 a b s))) := by
  have sound : waitmFault w a s = none := by simp [waitmFault, globalAlign_of_aligned aligned, waitmReads, read]
  have passes : waitmWaits w a b s = false := by
    rcases ended with ended | ended | ended | ended <;> simp [waitmWaits, read, ended]
  refine run_of_plain (o := waitmOp h w d a b) ready ?_ sound passes rfl fun _ => rfl
  simp only [waitmOp, read, if_true]
  rfl

theorem waitm_issues_of_awake (ready : Ready h [] s) {bs : List Byte} {s' : State} (unread : s.tile.ctl.waitRead = false)
    (first : sqOverlaps s s.tile.eng.sq (srcSa s.tile.regs a) (Width.size w) = false)
    (reads : waitmRead w (srcSa s.tile.regs a) s = .done bs s')
    (awake : monHolds s (srcSa s.tile.regs a) = false ∨ ofBytes bs ≠ lowBytes w (srcSb s.tile.regs b) ∨ monWoken s = true) :
    exec (.waitm h w d a b) s =
      .next (issued h true s (withMonitor none (latchSb b (srcSb s.tile.regs b) (latchSa a (srcSa s.tile.regs a) s')))) := by
  have goes : waitmReads w (srcSa s.tile.regs a) s = true := by simp [waitmReads, unread, first]
  have sound : waitmFault w a s = none := by simp [waitmFault, globalAlign_of_aligned aligned, goes, reads]
  have sleepless : waitmSleeps w (srcSa s.tile.regs a) (srcSb s.tile.regs b) bs s = false := by
    rcases awake with awake | awake | awake <;> simp [waitmSleeps, awake]
  have passes : waitmWaits w a b s = false := by simp [waitmWaits, unread, goes, reads, sleepless]
  refine run_of_plain (o := waitmOp h w d a b) ready ?_ sound passes rfl fun _ => rfl
  simp only [waitmOp, unread, reads, Bool.false_eq_true, if_false]
  rfl

end

/-! ## PREF and SLCH (R342, R343) -/

/-- The bits of a word from `k` on are zero where it lies below `2 ^ k`. -/
theorem extractLsb'_eq_zero_of_lt {x : Word} {k : Nat} (n : Nat) (below : x.toNat < 2 ^ k) : x.extractLsb' k n = 0 :=
  BitVec.eq_of_toNat_eq (by simp [Nat.shiftRight_eq_div_pow, Nat.div_eq_of_lt below])

variable {c x : Reg}

theorem pref_issues (ready : Ready h [] s) (below : (readG s.tile.regs x).toNat < 2 ^ 40)
    (clear : (readG s.tile.regs x).extractLsb' 16 15 = 0) : exec (.pref h c x) s = .next (issued h false s
      ((hintLines (readG s.tile.regs c) (readG s.tile.regs x)).foldl (prefLine (readG s.tile.regs x)) s)) := by
  refine run_of_plain (o := prefOp h c x) ready (if_neg ?_) rfl rfl rfl fun _ => rfl
  simp [extractLsb'_eq_zero_of_lt 24 below, clear]

theorem slch_issues (ready : Ready h [] s) (below : (readG s.tile.regs x).toNat < 2 ^ 16) : exec (.slch h c x) s =
    .next (issued h false s ((hintLines (readG s.tile.regs c) (readG s.tile.regs x)).foldl slchLine s)) := by
  refine run_of_plain (o := slchOp h c x) ready (if_neg ?_) rfl rfl rfl fun _ => rfl
  simp [extractLsb'_eq_zero_of_lt 48 below]

end

/-- Settles O28: a FENCE waits for what is owed at its scope, WAITM for what its read and its monitor say; the others never wait. -/
theorem fencesMonitorsAndHints : Obligations.FencesMonitorsAndHints := by
  intro s h k sc a b w d c x ready pending
  refine ⟨⟨fun none_left answered => fence_issues ready (fenceHeld_of_made none_left (.inr answered)),
      fun noRed => fence_issues ready (fenceHeld_acq_of_noRed noRed),
      fun fresh left _ order => fence_holds (Ready.judged ready fresh) (fenceHeld_of_pending order left),
      fun none_left scope => fence_issues ready (fenceHeld_of_made none_left (.inl scope)),
      fun fresh out _ order => fence_holds (Ready.judged ready fresh) (fenceHeld_system_of_sent order out),
      fun fresh red => fence_holds (Ready.judged ready fresh) (fenceHeld_acq_of_red red)⟩, ?_,
    fun read aligned => waitm_issues_of_read aligned ready read, fun bs s' aligned => waitm_issues_of_awake aligned ready,
    pref_issues ready, slch_issues ready⟩
  exact run_of_plain (o := monitorOp h a) ready rfl rfl rfl rfl fun _ => rfl

end Sys2Proof.Proofs
end

section
/-! Proofs for 13_memory.md, 14_translation.md, 17_host.md: what the accesses of the device's own units and of the host leave as it is (R334 to
R339, R366 to R378, R445, R467). -/

namespace Sys2Proof.Proofs

open Sys2Proof Sys2Proof.Machine Sys2Proof.Safety Sys2Proof.Laws

/-! ## Folds -/

/-- What one step of a fold brings about, and every other step keeps, stands at its end if it stood before or that step is one of the fold's. -/
theorem foldl_reaches {α β : Type} {P : β → Prop} {f : β → α → β} {x : α} (reached : ∀ s, P (f s x)) {xs : List α}
    (kept : ∀ s, ∀ y ∈ xs, P s → P (f s y)) {s : β} (h : P s ∨ x ∈ xs) : P (xs.foldl f s) := by
  induction xs generalizing s with
  | nil => exact h.resolve_right List.not_mem_nil
  | cons y ys ih =>
    refine ih (fun t z later => kept t z (List.mem_cons_of_mem _ later)) ?_
    rcases h with before | listed
    · exact .inl (kept s y List.mem_cons_self before)
    · exact (List.mem_cons.mp listed).imp_left fun (same : x = y) => same ▸ reached s

/-! ## The frame -/

/-- What an access of a unit keeps: the bind records, the clusters, and of every device what `core` reads. -/
structure UnitKeeps {α : Type} (core : VDev → α) (s t : State) : Prop where
  binds    : t.binds = s.binds
  clusters : t.clusters = s.clusters
  vds      : ∀ vd, core (getVd vd t) = core (getVd vd s)

/-- `core` reads neither of the counters of evicted and of refused pins, the only fields of a device that a touch of lines changes (R339, R340). -/
structure PinFree {α : Type} (core : VDev → α) : Prop where
  pinev  : ∀ v n, core { v with pinev := n } = core v
  pinref : ∀ v n, core { v with pinref := n } = core v

/-- The fields of a device that no access to its space changes, no walk and no transfer, as far as they matter here; a device write, which may
copy a granule for the newest snapshot (R467), is left out. -/
def enduring (v : VDev) : Bool × Nat × Word × Word × List Snap := (v.enabled, v.storageKey, v.ptroot, v.snapAt, v.snaps)

theorem pinFree_enduring : PinFree enduring := ⟨fun _ _ => rfl, fun _ _ => rfl⟩

namespace UnitKeeps

variable {α : Type} {core : VDev → α}

theorem refl (s : State) : UnitKeeps core s s := ⟨rfl, rfl, fun _ => rfl⟩

theorem trans {s t u : State} (h : UnitKeeps core s t) (k : UnitKeeps core t u) : UnitKeeps core s u :=
  ⟨k.binds.trans h.binds, k.clusters.trans h.clusters, fun vd => (k.vds vd).trans (h.vds vd)⟩

theorem foldl {β : Type} {f : State → β → State} (h : ∀ s x, UnitKeeps core s (f s x)) (xs : List β) (s : State) :
    UnitKeeps core s (xs.foldl f s) :=
  List.foldlRecOn (motive := UnitKeeps core s) xs f (refl s) fun t kept x _ => kept.trans (h t x)

theorem ite {c : Prop} [Decidable c] {s t u : State} (h : UnitKeeps core s t) (k : UnitKeeps core s u) :
    UnitKeeps core s (if c then t else u) := by
  split
  · exact h
  · exact k

theorem onMemSys (f : MemSys → MemSys) (s : State) : UnitKeeps core s (onMemSys f s) := ⟨rfl, rfl, fun _ => rfl⟩

theorem modVd (vd : BitVec 8) (f : VDev → VDev) (s : State) (h : ∀ v, core (f v) = core v) : UnitKeeps core s (modVd vd f s) := by
  refine ⟨rfl, rfl, fun w => ?_⟩
  rw [getVd_modVd]
  split
  · next same => rw [h, same]
  · rfl

end UnitKeeps

/-! ## Lines of the slices, device memory and page walks -/

section

variable {α : Type} {core : VDev → α} (pins : PinFree core) (s : State)
include pins

theorem evictLine_unit (l : Line) : UnitKeeps core s (evictLine l s) :=
  have dropped : UnitKeeps core s (dropLine l s) := ⟨rfl, rfl, fun _ => rfl⟩
  .ite dropped (dropped.trans (.modVd _ _ _ fun v => pins.pinev v _))

theorem grantCount_unit (h : Hints) : UnitKeeps core s (grantCount h s).2 := by
  unfold grantCount
  split
  · split
    · split
      · exact .refl s
      · exact .modVd h.vd (fun v => { v with pinref := v.pinref + 1 }) s fun v => pins.pinref v _
    · exact .refl s
  · exact .refl s

omit pins in
theorem countRead_unit (l : Line) : UnitKeeps core s (countRead l s) := by
  unfold countRead
  refine .ite (.refl s) (.ite (.onMemSys _ s) (.ite ?_ (.onMemSys _ s)))
  have undef (n : Nat) (s : State) : UnitKeeps core s (undefSector n s) := ⟨rfl, rfl, fun _ => rfl⟩
  have dropped : UnitKeeps core s (dropLine l s) := ⟨rfl, rfl, fun _ => rfl⟩
  have first := dropped.trans (.ite (c := l.dirty0) (undef (2 * l.line) _) (.refl _))
  exact first.trans (.ite (undef _ _) (.refl _))

theorem makeRoom_unit (line : Nat) : UnitKeeps core s (makeRoom line s) := by
  unfold makeRoom
  refine .ite (.refl s) ?_
  split
  · exact evictLine_unit pins s _
  · exact .refl s

theorem touchLine_unit (line : Nat) (s0 s1 write : Bool) (h : Hints) : UnitKeeps core s (touchLine line s0 s1 write h s) := by
  unfold touchLine
  split
  · have granted : UnitKeeps core s (if write then (0, makeRoom line s) else grantCount h (makeRoom line s)).2 := by
      split
      · exact makeRoom_unit pins s line
      · exact (makeRoom_unit pins s line).trans (grantCount_unit pins _ h)
    have filled (l : Line) := granted.trans (.onMemSys (putLine l) _)
    exact .ite (filled _) ((filled _).trans (countRead_unit _ _))
  · next old _ =>
    have granted (b : Bool) : UnitKeeps core s (if b then grantCount h s else (old.count, s)).2 := by
      split
      · exact grantCount_unit pins s h
      · exact .refl s
    have put (b : Bool) (l : Line) := (granted b).trans (.onMemSys (putLine l) _)
    exact .ite (.onMemSys _ s) (.ite (put _ _) ((put _ _).trans (countRead_unit _ _)))

theorem touchLines_unit (pa n : Nat) (write : Bool) (h : Hints) : UnitKeeps core s (touchLines pa n write h s) :=
  .ite (.refl s) (.foldl (fun s _ => touchLine_unit pins s _ _ _ _ _) _ s)

omit pins in
theorem devStore_unit (pa : Nat) (bs : List Byte) : UnitKeeps core s (devStore pa bs s) := .ite (.refl s) ⟨rfl, rfl, fun _ => rfl⟩

theorem devTouch_unit (vd : BitVec 8) (pa n : Nat) : UnitKeeps core s (devTouch vd pa n s) := touchLines_unit pins s _ _ _ _

theorem storeTouch_unit (pa n : Nat) (bs : List Byte) (h : Hints) : UnitKeeps core s (touchLines pa n true h (devStore pa bs s)) :=
  (devStore_unit s pa bs).trans (touchLines_unit pins _ _ _ _ _)

theorem devWrite_unit (vd : BitVec 8) (pa : Nat) (bs : List Byte) : UnitKeeps core s (devWrite vd pa bs s) := storeTouch_unit pins s _ _ _ _

theorem readPte_unit (vd : BitVec 8) (pa : Nat) : UnitKeeps core s (readPte vd pa s).2 := by
  unfold readPte
  split
  · exact .refl s
  · exact touchLines_unit pins s _ _ _ _

theorem walkFrom_unit (vd : BitVec 8) (va more table : Nat) : UnitKeeps core s (walkFrom vd va more table s).2 := by
  induction more generalizing table s with
  | zero => exact .refl s
  | succ more ih =>
    have read (pa : Nat) {e : Option Word} {s t : State} (h : readPte vd pa s = (e, t)) : UnitKeeps core s t := by
      simpa [h] using readPte_unit pins s vd pa
    unfold walkFrom
    dsimp only
    split
    · exact .refl s
    split
    · next h => exact read _ h
    · next h =>
      have first := read _ h
      split
      · exact first
      · split
        · split
          · split <;> exact first
          · split
            · next h' => exact first.trans (read _ h')
            · next h' =>
              have second := first.trans (read _ h')
              split
              · exact second
              · split <;> exact second
        · split
          · exact first
          · split
            · exact first.trans (ih _ _)
            · exact first

theorem walk_unit (vd : BitVec 8) (va : Nat) : UnitKeeps core s (walk vd va s).2 := walkFrom_unit pins s _ _ _ _

theorem flushEnt_unit (e : TlbEnt) : UnitKeeps core s (flushEnt e s) := by
  unfold flushEnt
  split
  · exact .ite (.refl s) (storeTouch_unit pins s _ _ _ _)
  · exact .refl s

end

/-! ## Transfers and copies -/

section

variable (s : State)

theorem queueRec_enduring (vd : BitVec 8) (q : Fin 4) (r : Rec) : UnitKeeps enduring s (queueRec vd q r s) := .modVd _ _ _ fun _ => rfl

theorem queueOrDrop_enduring (vd : BitVec 8) (q : Fin 4) (x : BitVec 256) : UnitKeeps enduring s (queueOrDrop vd q x s) :=
  .ite ⟨rfl, rfl, fun _ => rfl⟩ (queueRec_enduring s _ _ _)

theorem startPageIn_enduring (vd : BitVec 8) (e : TlbEnt) (leafPa : Nat) (entry : Word) (gen : Nat) (bybind : Bool) :
    UnitKeeps enduring s (startPageIn vd e leafPa entry gen bybind s).2 := by
  unfold startPageIn
  dsimp only
  split
  · exact .refl s
  · split
    · dsimp only
      exact .modVd _ _ _ fun _ => rfl
    · exact .refl s
    · exact queueRec_enduring s _ _ _

theorem finishPageIn_enduring (vd : BitVec 8) (k : Skid) : UnitKeeps enduring s (finishPageIn vd k s) := by
  have removed : UnitKeeps enduring s (modVd vd (fun v => { v with skid := v.skid.filter (· != k) }) s) := .modVd _ _ _ fun _ => rfl
  have freed (t : State) : UnitKeeps enduring t (modVd vd (poolGive k.pa) t) := .modVd _ _ _ fun _ => rfl
  unfold finishPageIn
  dsimp only
  split
  · exact (removed.trans (freed _)).trans (queueRec_enduring _ _ _ _)
  · have touched := removed.trans (devTouch_unit pinFree_enduring _ vd k.leafPa 8)
    refine .ite ?_ (touched.trans (freed _))
    have written (t : State) (pa : Nat) (bs : List Byte) := devWrite_unit pinFree_enduring t vd pa bs
    exact ((touched.trans (written _ _ _)).trans (written _ _ _)).trans (queueOrDrop_enduring _ _ _ _)

/-- The end of a stale transfer changes the device's transfers, its pool and STALE alone. -/
theorem endStale_enduring (vd : BitVec 8) (k : Skid) : UnitKeeps enduring s (endStale vd k s) := by
  refine (devWrite_unit pinFree_enduring s _ _ _).trans (.modVd _ _ _ fun v => ?_)
  unfold poolReturn poolGive
  dsimp only
  split
  · rfl
  · split <;> rfl

theorem pageInNow_enduring (vd : BitVec 8) (e : TlbEnt) (leafPa : Nat) (entry : Word) (n : Nat) :
    UnitKeeps enduring s (pageInNow vd e leafPa entry n s) := by
  induction n generalizing s with
  | zero => exact .refl s
  | succ n ih =>
    have started {b : Bool} {t : State} (h : startPageIn vd e leafPa entry 0 false s = (b, t)) : UnitKeeps enduring s t := by
      simpa [h] using startPageIn_enduring s vd e leafPa entry 0 false
    unfold pageInNow
    split
    · next h => exact started h
    · next h =>
      split
      · exact .ite ((started h).trans (finishPageIn_enduring _ _ _)) (((started h).trans (endStale_enduring _ _ _)).trans (ih _))
      · exact started h

/-! ## Accesses within a page, and of several -/

theorem sysXlate_enduring (vd : BitVec 8) (va : Nat) (reads writes : Bool) : UnitKeeps enduring s (sysXlate vd va reads writes s).2 := by
  have walked {w : Walk} {s t : State} (h : walk vd va s = (w, t)) : UnitKeeps enduring s t := by
    simpa [h] using walk_unit pinFree_enduring s vd va
  unfold sysXlate
  split
  · exact .refl s
  · split
    · next h => exact walked h
    · next e leafPa entry t h =>
      split
      · exact walked h
      · split
        · have paged := (walked h).trans (pageInNow_enduring _ vd e leafPa entry 2)
          split
          · next h' => split <;> exact paged.trans (walked h')
          · next h' => exact paged.trans (walked h')
        · exact walked h

theorem sysPart_enduring (vd : BitVec 8) (va n : Nat) (reads writes : Bool) (f : Change) :
    UnitKeeps enduring s (sysPart vd va n reads writes false f s).2 := by
  have translated {x : Option TlbEnt} {t : State} (h : sysXlate vd va reads writes s = (x, t)) : UnitKeeps enduring s t := by
    simpa [h] using sysXlate_enduring s vd va reads writes
  unfold sysPart
  split
  · exact .refl s
  · split
    · next h => exact translated h
    · next e t h =>
      refine (translated h).trans ?_
      split
      · simp only
        split
        · exact .refl t
        · split
          · exact touchLines_unit pinFree_enduring t _ _ _ _
          · exact storeTouch_unit pinFree_enduring _ _ _ _ _
      · split
        · split
          · exact ⟨rfl, rfl, fun _ => rfl⟩
          · simp only
            split <;> exact ⟨rfl, rfl, fun _ => rfl⟩
        · simp only
          split <;> exact ⟨rfl, rfl, fun _ => rfl⟩

/-- A fold over the parts of an access that threads a state through keeps what each part keeps. -/
theorem foldl_snd_enduring {β γ : Type} {f : γ × State → β → γ × State} (h : ∀ r x, UnitKeeps enduring r.2 (f r x).2) (xs : List β)
    (r : γ × State) : UnitKeeps enduring r.2 (xs.foldl f r).2 :=
  List.foldlRecOn (motive := fun u => UnitKeeps enduring r.2 u.2) xs f (.refl _) fun u kept x _ => kept.trans (h u x)

theorem sysWrite_enduring (vd : BitVec 8) (va : Nat) (bs : List Byte) : UnitKeeps enduring s (sysWrite vd va bs false s).2 := by
  unfold sysWrite
  split
  · exact .refl s
  · refine foldl_snd_enduring (fun r p => ?_) _ (true, s)
    have part := sysPart_enduring r.2 vd (va + p.1) p.2 false true fun _ => some ((bs.drop p.1).take p.2)
    split <;> next h => simpa [h] using part

end

/-! ## Wake events (R480) -/

theorem getVd_wake (s : State) (vd : BitVec 8) : getVd vd (wake s) = getVd vd s := by
  unfold wake
  split <;> rfl

theorem wake_doe (s : State) : (wake s).doe = s.doe := by
  unfold wake
  split <;> rfl

/-! ## Dropped translations -/

section

variable (s : State)

/-- What a drop of translations keeps: all that a unit's access keeps but the clusters. -/
structure DropKeeps (s t : State) : Prop where
  binds : t.binds = s.binds
  vds   : ∀ vd, enduring (getVd vd t) = enduring (getVd vd s)

theorem dropEnts_dropKeeps (vd : BitVec 8) (hit : TlbEnt → Bool) (c : Nat) : DropKeeps s (dropEnts vd hit c s) := by
  have flushed := UnitKeeps.foldl (fun s e => flushEnt_unit pinFree_enduring s e) ((getCluster c s).tlb.filter fun e => e.vd == vd && hit e) s
  exact ⟨flushed.binds, flushed.vds⟩

theorem dropRange_dropKeeps (vd : BitVec 8) (lo hi : Nat) : DropKeeps s (dropRange vd lo hi s) := by
  have dropped : DropKeeps s (s.clusters.foldl (fun s c => dropEnts vd (overlapsRange lo hi) c.1 s) s) :=
    List.foldlRecOn (motive := DropKeeps s) s.clusters _ ⟨rfl, fun _ => rfl⟩ fun t kept c _ =>
      have step := dropEnts_dropKeeps t vd (overlapsRange lo hi) c.1
      ⟨step.binds.trans kept.binds, fun vd => (step.vds vd).trans (kept.vds vd)⟩
  exact ⟨dropped.binds, dropped.vds⟩

end

end Sys2Proof.Proofs
end

section
/-! Proofs for 14_translation.md, 17_host.md: page walks, invalidations, transfers and cold pages (R366 to R379, R470 to R472). -/

namespace Sys2Proof.Proofs

open Sys2Proof Sys2Proof.Machine Sys2Proof.Safety Sys2Proof.Laws

/-! ## Clusters' caches -/

theorem getCluster_modCluster (c : Nat) (f : Cluster → Cluster) (s : State) (n : Nat) :
    getCluster n (modCluster c f s) = if n = c then f (getCluster c s) else getCluster n s := smGet_smSet c _ _ n

theorem smGet_of_unlisted {α : Type} {d : α} {m : SMap α} {k : Nat} (h : ∀ x ∈ m, x.1 ≠ k) : smGet d m k = d := by
  induction m with
  | nil => rfl
  | cons x t ih =>
    rw [List.forall_mem_cons] at h
    rw [smGet, if_neg h.1]
    exact ih h.2

theorem tlbFill_head (c : Nat) (e : TlbEnt) (s : State) : (getCluster c (tlbFill c e s)).tlb.head? = some e := by
  unfold tlbFill
  rw [getCluster_modCluster, if_pos rfl, List.head?_cons]

/-! ## PAGE_WALK (R371) -/

section

variable {s t : State} {c : Nat} {vd : BitVec 8} {va : Nat} {e : TlbEnt} {pa : Nat} {leaf : Word}

theorem look_of_miss (miss : cached c vd va s = none) (walked : walk vd va s = (.leaf e pa leaf, t)) (there : e.res ≠ 2) :
    look c vd va s = (.ent e, tlbFill c e t) := by
  simp only [look, miss, walked, if_neg there]

theorem pageWalk_of_miss {write : Bool} (awake : s.mod.power ≠ .doldrums) (low : va < 0xFFFFC0000000) (runs : mayRun (getVd vd s) = true)
    (miss : cached c vd va s = none) (walked : walk vd va s = (.leaf e pa leaf, t)) (there : e.res ≠ 2) :
    pageWalk c vd va write s = tlbFill c e t := by
  have mapped : ¬2 ^ 48 ≤ va := by omega
  simp only [pageWalk, awake, runs, miss, xlate, if_neg mapped, if_neg (Nat.not_le.mpr low), look_of_miss miss walked there, decide_false,
    Bool.not_true, Option.isSome_none, Bool.or_false, Bool.false_eq_true, if_false]

end

/-! ## INVALIDATION_COMPLETE (R374) -/

section

variable (s : State) (vd : BitVec 8)

theorem getCluster_dropEnts (hit : TlbEnt → Bool) (c n : Nat) : getCluster n (dropEnts vd hit c s) =
    if n = c then { getCluster c s with tlb := (getCluster c s).tlb.filter fun e => !(e.vd == vd && hit e) } else getCluster n s := by
  have flushed := (UnitKeeps.foldl (fun s e => flushEnt_unit pinFree_enduring s e) ((getCluster c s).tlb.filter fun e => e.vd == vd && hit e) s).clusters
  have same (n : Nat) : getCluster n (((getCluster c s).tlb.filter fun e => e.vd == vd && hit e).foldl (fun s e => flushEnt e s) s) =
      getCluster n s := by
    unfold getCluster at flushed ⊢
    rw [flushed]
  unfold dropEnts
  simp only [getCluster_modCluster, same]

/-- A cluster without an entry of the device that `hit` names. -/
def CacheClear (hit : TlbEnt → Bool) (t : State) (c : Nat) : Prop := ∀ e ∈ (getCluster c t).tlb, e.vd = vd → hit e = false

theorem dropEnts_clears (hit : TlbEnt → Bool) (c : Nat) : CacheClear vd hit (dropEnts vd hit c s) c := by
  intro e mem own
  rw [getCluster_dropEnts, if_pos rfl] at mem
  simpa [own] using (List.mem_filter.mp mem).2

variable {s vd} in
theorem CacheClear.dropEnts {hit : TlbEnt → Bool} {n : Nat} (clear : CacheClear vd hit s n) (c : Nat) :
    CacheClear vd hit (dropEnts vd hit c s) n := by
  intro e mem
  rw [getCluster_dropEnts] at mem
  split at mem
  · next same => exact clear e (same ▸ List.mem_of_mem_filter mem)
  · exact clear e mem

/-- Every listed cluster is cleared in its turn, and one that is not listed holds no entry. -/
theorem dropRange_clears (lo hi c : Nat) : CacheClear vd (overlapsRange lo hi) (dropRange vd lo hi s) c := by
  have kept (t : State) (x : Nat × Cluster) (clear : CacheClear vd (overlapsRange lo hi) t c) := clear.dropEnts x.1
  by_cases listed : ∃ k, (c, k) ∈ s.clusters
  · obtain ⟨k, mem⟩ := listed
    exact foldl_reaches (fun t => dropEnts_clears t vd _ c) (fun t x _ => kept t x) (.inr mem)
  · have empty : getCluster c s = {} := smGet_of_unlisted fun x mem same => listed ⟨x.2, same ▸ mem⟩
    refine s.clusters.foldlRecOn (motive := fun t => CacheClear vd (overlapsRange lo hi) t c) _ (fun e mem => ?_) fun t clear x _ => kept t x clear
    rw [empty] at mem
    cases mem

theorem overlapsRange_eq_false {lo hi : Nat} {e : TlbEnt} : overlapsRange lo hi e = false ↔ hi ≤ e.base ∨ e.base + e.size ≤ lo := by
  simp only [overlapsRange, Bool.and_eq_false_iff, decide_eq_false_iff_not, not_lt]
  exact Or.comm

variable {s vd} in
theorem invalidationComplete_of_through {x : InvWait} {xs : List InvWait} (oldest : (getVd vd s).invq = x :: xs)
    (through : accessThrough (invTarget x.desc) (invRange x.desc).1 (invRange x.desc).2 s = true) :
    invalidationComplete vd s = s := by
  simp only [invalidationComplete, oldest, through, if_true]

variable {s vd} in
theorem invalidationComplete_of_done {x : InvWait} {xs : List InvWait} {t : State} (oldest : (getVd vd s).invq = x :: xs)
    (through : accessThrough (invTarget x.desc) (invRange x.desc).1 (invRange x.desc).2 s = false)
    (written : (sysWrite (invTarget x.desc) (invDone x.desc) (toBytes 8 x.desc.w3.toNat) true
      (invApply x.desc (modVd vd (fun v => { v with invq := xs }) s))).2 = t)
    (free : (getVd (invTarget x.desc) t).snaphold = (getVd (invTarget x.desc) s).snaphold) :
    invalidationComplete vd s = t := by
  subst written
  simp only [invalidationComplete, oldest, through, unlessHeld, free, if_true, Bool.false_eq_true, if_false]

end

/-! ## Skidder transfers (R378, R472) -/

section

variable (s : State)

theorem stale_unit : PinFree VDev.stale := ⟨fun _ _ => rfl, fun _ _ => rfl⟩

theorem endStale_stale (vd : BitVec 8) (k : Skid) : (getVd vd (endStale vd k s)).stale = (getVd vd s).stale + 1 := by
  have written := (devWrite_unit stale_unit s vd k.pa (List.replicate k.size 0)).vds vd
  unfold endStale
  rw [getVd_modVd, if_pos rfl, ← written]

variable {s} {vd : BitVec 8} {k : Skid}

theorem finishSkid_into (current : skidCurrent (getVd vd s) k = true) (into : k.into = true) : finishSkid vd k s = finishPageIn vd k s := by
  simp only [finishSkid, endPageIn, into, current, if_true]

theorem finishSkid_of_through (out : k.into = false) (through : accessThrough vd k.va (k.va + k.size) s = true) : finishSkid vd k s = s := by
  simp only [finishSkid, out, through, if_true, Bool.false_eq_true, if_false]

theorem finishSkid_out (current : skidCurrent (getVd vd s) k = true) (out : k.into = false)
    (through : accessThrough vd k.va (k.va + k.size) s = false) : finishSkid vd k s = finishPageOut vd k s := by
  simp only [finishSkid, out, through, current, if_true, Bool.false_eq_true, if_false]

theorem finishSkid_stale (stale : skidCurrent (getVd vd s) k = false)
    (free : k.into = true ∨ accessThrough vd k.va (k.va + k.size) s = false) : finishSkid vd k s = endStale vd k s := by
  cases into : k.into with
  | true => simp only [finishSkid, endPageIn, into, stale, if_true, Bool.false_eq_true, if_false]
  | false =>
    have free := free.resolve_left (by simp [into])
    simp only [finishSkid, into, free, stale, Bool.false_eq_true, if_false]

theorem skidderTransferEnd_of_some {n : Nat} (listed : (getVd vd s).skid[n]? = some k) :
    exec (.skidderTransferEnd vd n) s = .next (finishSkid vd k s) := by
  show Host.Outcome.next (match (getVd vd s).skid[n]? with
    | some k => finishSkid vd k s
    | none => s) = _
  rw [listed]

end

/-! ## COLD_PAGE_OUT (R470) -/

section

variable {s t : State} {vd : BitVec 8} {ctx : Nat} {va : Word} {cx : Session} {e : TlbEnt} {pa : Nat} {leaf : Word}
  (of_context : ((getVd vd s).sess.find? fun y => y.id.toNat == ctx && decide (y.base ≤ va.toNat ∧ va.toNat < y.base + y.bytes)) = some cx)
include of_context

theorem coldPageOut_of_full (full : ringFull vd 3 1 s = true ∨ s.mod.power = .doldrums) : coldPageOut vd ctx va s = s := by
  have waits : ((getVd vd s).tstate != .error && s.mod.power != .doldrums && !ringFull vd 3 1 s) = false := by
    rcases full with full | asleep
    · simp [full]
    · simp [asleep]
  simp only [coldPageOut, of_context, waits, Bool.false_eq_true, if_false]

/-- The page's age is taken after the walk, whose TIME is that before it. -/
theorem coldPageOut_of_cold (cold : pageCold (getVd vd s) cx e.base e.size s.mod.time = true) (works : (getVd vd s).tstate ≠ .error)
    (room : ringFull vd 3 1 s = false) (awake : s.mod.power ≠ .doldrums) (walked : walk vd va.toNat s = (.leaf e pa leaf, t))
    (resident : e.res = 0) (small : e.size ≤ 65536) (idle : (getVd vd s).skid.any (·.leafPa == pa) = false)
    (fits : 4096 * handleFor e.size t + e.size ≤ flashBytes) (clear : meetsScopes t e.addr e.size = false)
    (ours : ownable e.addr e.size = true) :
    coldPageOut vd ctx va s = modVd vd (fun v => { v with skid := v.skid ++
        [{ va := e.base, pa := e.addr, size := e.size, into := false, leafPa := pa, leaf := leaf, gen := cx.gen, bybind := false
           ctx := some cx.id, handle := handleFor e.size t }] })
      (onMemSys (fun m => { m with nextHandle := handleFor e.size t + e.size / 4096 })
        (dropRange vd e.base (e.base + e.size) (devWrite vd pa (toBytes 8 (leafWb leaf true).toNat) t))) := by
  have time : t.mod.time = s.mod.time := by
    have kept := (walk_keeps s vd va.toNat).mod
    rw [walked] at kept
    rw [kept]
  have begins : ((getVd vd s).tstate != .error && s.mod.power != .doldrums && !ringFull vd 3 1 s) = true := by simp [works, awake, room]
  have moves : e.res = 0 ∧ e.size ≤ 65536 ∧ ¬(getVd vd s).skid.any (·.leafPa == pa) ∧ 4096 * handleFor e.size t + e.size ≤ flashBytes
      ∧ meetsScopes t e.addr e.size = false ∧ ownable e.addr e.size ∧ pageCold (getVd vd s) cx e.base e.size t.mod.time :=
    ⟨resident, small, by simp [idle], fits, clear, ours, time ▸ cold⟩
  simp only [coldPageOut, of_context, begins, walked, if_pos moves, if_true]

end

/-- Settles O45: a miss, a descriptor, a transfer and a cold page each by the lemmas of its step; what a descriptor drops by going through the
clusters one by one. -/
theorem translationSteps : Obligations.TranslationSteps := by
  unfold Obligations.TranslationSteps
  intro s s' c vd va write e pa leaf x xs k n ctx cx
  refine ⟨fun awake low runs miss walked there => ?_, fun oldest => ?_, fun listed => ?_, fun found => ?_, fun of_context => ?_⟩
  · exact ⟨congrArg Host.Outcome.next (pageWalk_of_miss awake low runs miss walked there), tlbFill_head c e s'⟩
  · refine ⟨fun through => congrArg Host.Outcome.next (invalidationComplete_of_through oldest through),
      fun through free => congrArg Host.Outcome.next (invalidationComplete_of_done oldest through rfl free), fun all c e mem own => ?_,
      fun ranged c e mem own => ?_⟩
    · simp only [invApply, all] at mem
      have clear := overlapsRange_eq_false.mp (dropRange_clears s (invTarget x.desc) 0 (2 ^ 48) c e mem own)
      omega
    · simp only [invApply, ranged] at mem
      exact overlapsRange_eq_false.mp (dropRange_clears s (invTarget x.desc) _ _ c e mem own)
  · rw [skidderTransferEnd_of_some listed]
    refine ⟨fun current into => by rw [finishSkid_into current into], fun out through => by rw [finishSkid_of_through out through],
      fun current out through => by rw [finishSkid_out current out through], fun stale free => ?_⟩
    exact ⟨endStale vd k s, by rw [finishSkid_stale stale free], endStale_stale s vd k, (endStale_keeps s vd k).flash⟩
  · exact congrArg Host.Outcome.next (by simp only [flashPageIn, found])
  · exact ⟨fun full => congrArg Host.Outcome.next (coldPageOut_of_full of_context full),
      fun cold works room awake walked resident small idle fits clear ours =>
        congrArg Host.Outcome.next (coldPageOut_of_cold of_context cold works room awake walked resident small idle fits clear ours)⟩

end Sys2Proof.Proofs
end

section
/-! Proofs for 15_tiles_time.md, 17_host.md, 18_module.md: event records, snapshots and health records (R396, R397, R466, R467, R471, R489). -/

namespace Sys2Proof.Proofs

open Sys2Proof Sys2Proof.Machine Sys2Proof.Safety Sys2Proof.Laws

/-! ## Records that a full queue drops (R397, R471) -/

section

variable {s : State} {vd : BitVec 8} {n : Fin 4} {x : BitVec 256}

theorem queueOrDrop_of_full (full : ringFull vd n 1 s = true) : queueOrDrop vd n x s = countOverrun (ringHeader (getVd vd s).eq[n]) s := if_pos full

theorem queueOrDrop_of_room (room : ringFull vd n 1 s = false) :
    queueOrDrop vd n x s = queueRec vd n { slots := [x], drops := true } s := if_neg (by simp [room])

theorem recs_queueRec (s : State) (vd : BitVec 8) (n : Fin 4) (r : Rec) :
    (getVd vd (queueRec vd n r s)).recs[n] = (getVd vd s).recs[n] ++ [r] := by
  unfold queueRec
  rw [getVd_modVd, if_pos rfl]
  exact Vector.getElem_set_self _

end

/-! ## EVENT_RECORD_POST (R396, R397) -/

section

variable {s : State} {vd : BitVec 8} {q : BitVec 2} {r : Rec} {rs : List Rec}
  (oldest : (getVd vd s).recs[q.toNat]'q.isLt = r :: rs) (works : (getVd vd s).tstate ≠ .error)
include oldest works

theorem eventRecordPost_of_unset (unset : ringSet ((getVd vd s).eq[q.toNat]'q.isLt) = false) :
    eventRecordPost vd q s = modVd vd (fun v => { v with eqdrop := v.eqdrop + 1 }) (recordGone vd q r s) := by
  simp only [eventRecordPost, oldest, if_neg works, unset, Bool.not_false, if_true]

variable (set : ringSet ((getVd vd s).eq[q.toNat]'q.isLt) = true)
include set

theorem eventRecordPost_of_room (room : ringUsed (ringHeader ((getVd vd s).eq[q.toNat]'q.isLt)) s + r.slots.length ≤
      2 ^ ringK ((getVd vd s).eq[q.toNat]'q.isLt)) :
    eventRecordPost vd q s = recordGone vd q r
      (ringPut (ringHeader ((getVd vd s).eq[q.toNat]'q.isLt)) (ringK ((getVd vd s).eq[q.toNat]'q.isLt)) r.slots s) := by
  simp only [eventRecordPost, oldest, if_neg works, set, if_pos room, Bool.not_true, Bool.false_eq_true, if_false]

theorem eventRecordPost_of_full (full : 2 ^ ringK ((getVd vd s).eq[q.toNat]'q.isLt) <
      ringUsed (ringHeader ((getVd vd s).eq[q.toNat]'q.isLt)) s + r.slots.length) :
    eventRecordPost vd q s = if r.drops then countOverrun (ringHeader ((getVd vd s).eq[q.toNat]'q.isLt)) (recordGone vd q r s) else s := by
  simp only [eventRecordPost, oldest, if_neg works, set, if_neg (Nat.not_le.mpr full), Bool.not_true, Bool.false_eq_true, if_false]

end

section

variable (s : State)

theorem focusOn_mem (p : Nat) : (focusOn p s).mem = s.mem := by
  unfold focusOn
  split <;> rfl

theorem eachTile_mem {f : State → State} (h : ∀ s, (f s).mem = s.mem) (ps : List Nat) : (eachTile ps f s).mem = s.mem :=
  (focusOn_mem _ _).trans (List.foldlRecOn (motive := fun (t : State) => t.mem = s.mem) ps _ rfl fun t kept p _ =>
    (h _).trans ((focusOn_mem t p).trans kept))

theorem postTrap_mem : (postTrap s).mem = s.mem := by
  unfold postTrap postTrapNow
  split
  · split
    · rfl
    · exact (modBindOf_mem _ _ _).trans (haltOthers_mem _)
  · rfl

/-- A record that leaves writes to no memory, though a trap that waited behind it may be posted. -/
theorem recordGone_mem (vd : BitVec 8) (q : BitVec 2) (r : Rec) : (recordGone vd q r s).mem = s.mem := by
  unfold recordGone
  split
  · rfl
  · refine eachTile_mem _ (fun s => ?_) _
    split
    · exact postTrap_mem _
    · rfl

end

/-! ## SNAPSHOT (R466, R467) -/

section

variable (s : State) (vd : BitVec 8)

/-- The addresses of a dirty list are no device writes: no granule is copied for them. -/
theorem appendDirty_enduring (gs : List Nat) : UnitKeeps enduring s (appendDirty vd gs s) := by
  refine .foldl (fun s g => ?_) gs s
  dsimp only
  split
  · exact .refl s
  · exact (sysWrite_enduring s vd _ _).trans (.modVd _ _ _ fun _ => rfl)

theorem snapshot_of_out (out : atomicOut vd s = true) : snapshot vd s = s := by
  simp only [snapshot, out, Bool.not_true, Bool.and_false, Bool.false_eq_true, if_false]

/-- The device as a snapshot that is due begins. -/
def snapBegun : State := modVd vd (fun v => { v with snapAt := s.mod.time }) (wake s)

theorem getVd_snapBegun : getVd vd (snapBegun s vd) = { getVd vd s with snapAt := s.mod.time } := by
  rw [snapBegun, getVd_modVd, if_pos rfl, getVd_wake]

/-- The device as a snapshot is taken, its dirty list written. -/
def snapTaken : State :=
  modVd vd (fun v => { v with snapNo := (getVd vd s).snapNo + 1, snaps := v.snaps ++ [{ num := (getVd vd s).snapNo + 1, copies := [] }], dirty := [] })
    (appendDirty vd (getVd vd s).dirty (snapBegun s vd))

theorem getVd_snapTaken :
    (getVd vd (snapTaken s vd)).snapNo = (getVd vd s).snapNo + 1
      ∧ (getVd vd (snapTaken s vd)).snaps = (getVd vd s).snaps ++ [{ num := (getVd vd s).snapNo + 1, copies := [] }]
      ∧ (getVd vd (snapTaken s vd)).dirty = [] ∧ (getVd vd (snapTaken s vd)).snapAt = s.mod.time := by
  have kept := (appendDirty_enduring (snapBegun s vd) vd (getVd vd s).dirty).vds vd
  simp only [enduring, getVd_snapBegun, Prod.mk.injEq] at kept
  obtain ⟨-, -, -, at_, snaps⟩ := kept
  rw [snapTaken, getVd_modVd, if_pos rfl]
  exact ⟨rfl, by rw [snaps], rfl, at_⟩

variable {s vd} (due : snapDue (getVd vd s) s.mod.time = true) (works : (getVd vd s).tstate ≠ .error) (done : atomicOut vd s = false)
include due works done

theorem snapshot_of_due : snapshot vd s = if 2 ≤ (getVd vd s).snaps.length
    then modVd vd (fun v => { v with snapskip := v.snapskip + 1 }) (snapBegun s vd)
    else queueRec vd 3 { slots := [storageRec (snapTaken s vd).mod.time 0 ((getVd vd s).snapNo + 1) (getVd vd s).dirty.length 0x31] }
      (snapTaken s vd) := by
  have begins : (snapDue (getVd vd s) s.mod.time && (getVd vd s).tstate != .error && !atomicOut vd s) = true := by simp [due, works, done]
  simp only [snapshot, begins, if_true]
  rfl

theorem snapshot_skipped (two : 2 ≤ (getVd vd s).snaps.length) :
    (getVd vd (snapshot vd s)).snapskip = (getVd vd s).snapskip + 1 ∧ (getVd vd (snapshot vd s)).snaps = (getVd vd s).snaps := by
  rw [snapshot_of_due due works done, if_pos two, getVd_modVd, if_pos rfl, getVd_snapBegun]
  exact ⟨rfl, rfl⟩

theorem snapshot_taken (room : (getVd vd s).snaps.length < 2) :
    (getVd vd (snapshot vd s)).snapNo = (getVd vd s).snapNo + 1
      ∧ (getVd vd (snapshot vd s)).snaps = (getVd vd s).snaps ++ [{ num := (getVd vd s).snapNo + 1, copies := [] }]
      ∧ (getVd vd (snapshot vd s)).dirty = [] ∧ (getVd vd (snapshot vd s)).snapAt = s.mod.time := by
  rw [snapshot_of_due due works done, if_neg (Nat.not_le.mpr room), queueRec, getVd_modVd, if_pos rfl]
  exact getVd_snapTaken s vd

end

/-! ## HEALTH_RECORD (R489) -/

section

variable {s : State} {unit : Nat}

theorem healthRec_fields (time : Word) (total unit recent : Nat) :
    (healthRec time total unit recent).extractLsb' 0 8 = 0x40 ∧ (healthRec time total unit recent).extractLsb' 192 64 = time
      ∧ (healthRec time total unit recent).extractLsb' 112 16 = BitVec.ofNat 16 unit := by
  refine ⟨?_, BitVec.extractLsb'_append_eq_left, ?_⟩
  · iterate 4 refine extractLsb'_of_under ?_ (by decide)
    exact BitVec.extractLsb'_append_eq_right
  · iterate 2 refine extractLsb'_of_under ?_ (by decide)
    exact BitVec.extractLsb'_append_eq_left

/-- The module once the record of a unit has been posted. -/
def healthPosted (unit : Nat) (m : Mod) : Mod :=
  { m with health := smSet unit ((smGet (0, 0) m.health unit).1, (smGet (0, 0) m.health unit).1) m.health
           healthDue := m.healthDue.filter (· != unit) }

theorem healthRecord_of_due (due : s.mod.healthDue.contains unit = true) :
    healthRecord unit s = queueOrDrop 0 3 (healthRec s.mod.time (smGet (0, 0) s.mod.health unit).1 unit
      ((smGet (0, 0) s.mod.health unit).1 - (smGet (0, 0) s.mod.health unit).2)) (onMod (healthPosted unit) s) := by
  unfold healthRecord
  rw [if_pos due]
  rfl

theorem healthRecord_of_not_due (due : s.mod.healthDue.contains unit = false) : healthRecord unit s = s := by
  unfold healthRecord
  rw [if_neg (by simp only [due, Bool.false_eq_true, not_false_eq_true])]

theorem healthRecord_mod (due : s.mod.healthDue.contains unit = true) : (healthRecord unit s).mod = healthPosted unit s.mod := by
  rw [healthRecord_of_due due]
  exact (queueOrDrop_keeps _ _ _ _).mod

theorem healthPosted_due (unit : Nat) (m : Mod) : (healthPosted unit m).healthDue.contains unit = false := by
  simp [healthPosted]

theorem healthPosted_counts (unit : Nat) (m : Mod) :
    (smGet (0, 0) (healthPosted unit m).health unit).1 = (smGet (0, 0) (healthPosted unit m).health unit).2 := by
  simp only [healthPosted, smGet_smSet, if_true]

end

/-- Settles O46: each record by the branch of its step; a snapshot's fields by what the dirty list's writes leave. -/
theorem recordsAndSnapshots : Obligations.RecordsAndSnapshots := by
  unfold Obligations.RecordsAndSnapshots
  intro s vd q r rs unit v e
  refine ⟨fun oldest works set => ⟨fun room => ?_, fun full => ⟨fun keeps => ?_, fun drops => ?_⟩⟩, fun oldest works unset => ?_, fun out => ?_,
    fun due works done => ⟨fun two => ?_, fun room => ?_⟩, fun due => ?_, fun due => ?_, fun n x => ⟨fun full => ?_, fun room => ?_⟩⟩
  · exact congrArg Host.Outcome.next (eventRecordPost_of_room oldest works set room)
  · exact congrArg Host.Outcome.next ((eventRecordPost_of_full oldest works set full).trans (if_neg (by simp [keeps])))
  · refine congrArg Host.Outcome.next ((eventRecordPost_of_full oldest works set full).trans ?_)
    rw [if_pos drops, countOverrun, recordGone_mem]
  · exact congrArg Host.Outcome.next (eventRecordPost_of_unset oldest works unset)
  · exact congrArg Host.Outcome.next (snapshot_of_out s vd out)
  · exact ⟨_, rfl, snapshot_skipped due works done two⟩
  · exact ⟨_, rfl, snapshot_taken due works done room⟩
  · exact congrArg Host.Outcome.next (healthRecord_of_not_due due)
  · refine ⟨healthRecord unit s, rfl, by rw [healthRecord_mod due, healthPosted_due], by rw [healthRecord_mod due, healthPosted_counts],
      fun full => ?_, fun room => ?_⟩
    · rw [healthRecord_of_due due, queueOrDrop_of_full (s := onMod (healthPosted unit) s) full]
      exact ⟨rfl, rfl⟩
    · rw [healthRecord_of_due due, queueOrDrop_of_room (s := onMod (healthPosted unit) s) room]
      exact ⟨_, _, recs_queueRec _ 0 3 _, rfl, rfl, healthRec_fields _ _ _ _⟩
  · exact queueOrDrop_of_full full
  · rw [queueOrDrop_of_room room]
    exact ⟨recs_queueRec s vd n _, rfl⟩

end Sys2Proof.Proofs
end

section
/-! Proofs for 15_tiles_time.md, 16_preemption.md: how the Yarder binds, starts and halts gangs, ends slices and ages jobs (R386 to R394, R419,
R423). -/

namespace Sys2Proof.Proofs

open Sys2Proof Sys2Proof.Machine Sys2Proof.Safety Sys2Proof.Laws

/-! ## YARDER_BIND (R386, R388) -/

section

variable {s : State} {slot : Nat} {vd : BitVec 8} {stream : BitVec 16} {st : StreamSt} {q : Ready} {j : Job} {i : Image} {c r : Nat}

/-- The ready job of a stream whose head holds no slot is of that stream. -/
theorem readyOf_unbound (ready : readyOf vd st s = some q) (unbound : q.slot = none) : q.vd = vd ∧ q.stream = st.num := by
  unfold readyOf at ready
  split at ready
  · cases ready
  · split at ready
    · split at ready
      · rw [← Option.some.inj ready]
        exact ⟨rfl, rfl⟩
      · cases ready
    · dsimp only at ready
      split at ready
      · rw [← Option.some.inj ready] at unbound
        cases unbound
      · cases ready

theorem activate_power (on : powered s.mod = true) : (activate s).mod.power = .active := by
  unfold activate
  split
  · rfl
  · next awake => simpa [powered, awake] using on

theorem activate_chosen (s : State) : (activate s).mod.chosen = s.mod.chosen := by
  unfold activate
  split <;> rfl

theorem getVd_activate (vd : BitVec 8) (s : State) : getVd vd (activate s) = getVd vd s := by
  unfold activate
  split <;> rfl

theorem newBind_activate (c r : Nat) : newBind vd st j i c r (activate s) = newBind vd st j i c r s := by
  simp only [newBind, getVd_activate]

/-- The state in which a ready job that holds no slot has taken one. -/
def slotTaken (slot : Nat) (vd : BitVec 8) (st : StreamSt) (j : Job) (i : Image) (c r : Nat) (s : State) : State :=
  markServed vd st.num (modJob vd st.num j.gen (fun j => { j with slot := some slot })
    (modBind slot (fun _ => newBind vd st j i c r s) (activate s)))

theorem takeSlot_of_empty (ready : readyOf vd st s = some q) (unbound : q.slot = none) (head : headJob st = some j)
    (image : imageOf vd j.image s = some i) (may : (inGrid c r q.w q.h && powered s.mod && admitted s q && mayChoose s q) = true)
    (low : slot < 64) (empty : (getBind slot s).state = .empty) : takeSlot slot st q c r s = slotTaken slot vd st j i c r s := by
  obtain ⟨device, number⟩ := readyOf_unbound ready unbound
  unfold takeSlot
  simp only [may, unbound, head, Option.bind_some, device, number, image, if_pos (And.intro low empty), Bool.not_true, Bool.false_eq_true, if_false]
  rfl

theorem yarderBind_of_empty (runs : mayRun (getVd vd s) = true) (found : (getVd vd s).streams.find? (·.num == stream) = some st)
    (ready : readyOf vd st s = some q) (empty : (getBind slot s).state = .empty) (c0 r0 : BitVec 3) :
    yarderBind slot vd stream c0 r0 s = takeSlot slot st q c0.toNat r0.toNat s := by
  have unbound : ¬(getBind slot s).state = .bound := by rw [empty]; exact BindState.noConfusion
  simp only [yarderBind, unbound, runs, found, ready, false_and, Bool.not_true, Bool.false_eq_true, if_false]

theorem getBind_slotTaken : getBind slot (slotTaken slot vd st j i c r s) = newBind vd st j i c r (activate s) := by
  rw [newBind_activate]
  show getBind slot (modBind slot (fun _ => newBind vd st j i c r s) (activate s)) = _
  rw [getBind_modBind, if_pos rfl]

end

/-! ## GANG_START (R389) -/

section

variable (slot : Nat) (b : Bind) (i : Image)

/-- A tile as a launch leaves it. -/
def Launched (t : Tile) : Prop := t.ctl.run = .running ∧ t.ctl.pc = 0 ∧ t.regs = {} ∧ t.place.slot = some slot

theorem launched_launchTile (f : Flume) (scopes : SMap (BitVec 512)) (mbx : Vector Word 64) (j : Nat) (t : Tile) :
    Launched slot (launchTile slot b i f scopes mbx j t) := ⟨rfl, rfl, rfl, rfl⟩

/-- Of tiles launched one after another every one is launched, however often it is listed. -/
theorem launched_launchGang (bs : List Byte) (s : State) {k : Nat} (inside : k < 8 * b.w * b.h) :
    Launched slot (getTile (tileOf b k) (launchGang slot b i bs s)) := by
  refine foldl_reaches (P := fun s => Launched slot (getTile (tileOf b k) s)) (x := k) (fun s => ?_) (fun s j _ done => ?_)
    (.inr (List.mem_range.mpr inside))
  · rw [getTile_modTile, if_pos rfl]
    exact launched_launchTile slot b i _ _ _ _ _
  · rw [getTile_modTile]
    split
    · exact launched_launchTile slot b i _ _ _ _ _
    · exact done

theorem getBind_launchGang (bs : List Byte) (s : State) :
    (getBind slot (launchGang slot b i bs s)).state = .running
      ∧ (getBind slot (launchGang slot b i bs s)).start = (launchGang slot b i bs s).mod.time
      ∧ (getBind slot (launchGang slot b i bs s)).runc = 0 := by
  rw [launchGang, getBind_modBind, if_pos rfl]
  exact ⟨rfl, rfl, rfl⟩

variable {slot} {s s1 s2 : State} {bs : List Byte}

theorem gangStart_of_checked {b : Bind} (own : getBind slot s = b) (bound : b.state = .bound) (first : b.resume = false)
    (active : s.mod.power = .active) (runs : mayRun (getVd b.vd s) = true) (free : regionFree b s = true)
    (image : imageOf b.vd b.image s = some i) (names : namesStand s.flume b.vd i = true) (checked : startCause b i s = (none, s1))
    (mailbox : sysRead b.vd b.mbox 512 s1 = (some bs, s2)) (counted : (getVd b.vd (firstTotal b s2)).snaphold = (getVd b.vd s2).snaphold) :
    gangStart slot s = launchGang slot b i bs (firstTotal b s2) := by
  subst own
  simp only [gangStart, bound, first, active, runs, free, image, names, checked, mailbox, unlessHeld, counted, Bool.not_true, Bool.false_eq_true,
    and_self, if_true, if_false]

end

/-! ## Halts (R391, R419, R423) -/

section

variable {s : State} {slot : Nat}

/-- A halt requested of a tile that runs. -/
def askHalt (t : Tile) : Tile := if t.ctl.run = .running then { t with ctl := { t.ctl with haltReq := true } } else t

theorem askHalt_asked {t : Tile} (run : t.ctl.run = .running) : (askHalt t).ctl.haltReq = true := by
  rw [askHalt, if_pos run]

theorem askHalt_keeps_asked {t : Tile} (asked : t.ctl.haltReq = true) : (askHalt t).ctl.haltReq = true := by
  unfold askHalt
  split
  · rfl
  · exact asked

theorem getTile_overTiles_of {P : Tile → Prop} {f : Tile → Tile} (h : ∀ t, P t → P (f t)) {p : Nat} (ps : List Nat) {s : State}
    (done : P (getTile p s) ∨ p ∈ ps ∧ P (f (getTile p s))) : P (getTile p (overTiles ps f s)) := by
  induction ps generalizing s with
  | nil => exact done.resolve_right fun later => List.not_mem_nil later.1
  | cons x ps ih =>
    refine ih ?_
    rw [getTile_modTile]
    split
    · next same =>
      subst same
      exact .inl (done.elim (h _) And.right)
    · next other => exact done.imp_right (And.imp_left fun mem => (List.mem_cons.mp mem).resolve_left other)

/-- The gang of record `slot` halts, with a request at every tile that ran in `s`. -/
def GangHalts (slot : Nat) (s u : State) : Prop :=
  (getBind slot u).state = .halting ∧ (getBind slot u).halt = true
    ∧ ∀ p ∈ gangTiles (getBind slot s), (getTile p s).ctl.run = .running → (getTile p u).ctl.haltReq = true

theorem haltGang_of_running (run : (getBind slot s).state = .running) : haltGang slot s =
    modBind slot (fun b => { bindHalting b with planned := false, haltBy := none }) (overTiles (gangTiles (getBind slot s)) askHalt s) := if_pos run

theorem getBind_haltGang (run : (getBind slot s).state = .running) :
    getBind slot (haltGang slot s) = { bindHalting (getBind slot s) with planned := false, haltBy := none } := by
  rw [haltGang_of_running run, getBind_modBind, if_pos rfl, getBind_of_binds (overTiles_binds _ _ _)]

theorem haltGang_halts (run : (getBind slot s).state = .running) : GangHalts slot s (haltGang slot s) := by
  refine ⟨by rw [getBind_haltGang run]; exact if_pos run, by rw [getBind_haltGang run]; rfl, fun p mem runs => ?_⟩
  rw [haltGang_of_running run]
  exact getTile_overTiles_of (P := fun t => t.ctl.haltReq = true) (fun _ => askHalt_keeps_asked) _ (.inr ⟨mem, askHalt_asked runs⟩)

/-- A gang whose record has changed elsewhere than in its state and its place halts as it would have. -/
theorem haltGang_halts_of {t : State} (run : (getBind slot t).state = .running)
    (same : gangTiles (getBind slot t) = gangTiles (getBind slot s)) (tiles : ∀ p, getTile p t = getTile p s) :
    GangHalts slot s (haltGang slot t) := by
  obtain ⟨halting, halt, asked⟩ := haltGang_halts run
  refine ⟨halting, halt, fun p mem runs => asked p (same ▸ mem) ?_⟩
  rw [tiles, runs]

theorem due_haltGang (run : (getBind slot s).state = .running) : (getBind slot (haltGang slot s)).due = (getBind slot s).due := by
  rw [getBind_haltGang run]
  rfl

/-! ## Halts planned for several jobs (R391) -/

theorem gangTiles_planHalts (s : State) (qs : List Ready) (b : Bind) : gangTiles (planHalts s qs b) = gangTiles b := by
  refine List.foldlRecOn (motive := fun c => gangTiles c = gangTiles b) qs _ rfl fun c kept q _ => ?_
  unfold planHalt
  split <;> exact kept

/-- The plan for several jobs comes in time for each of them. -/
theorem planHalts_serve (s : State) (qs : List Ready) (b : Bind) {x : Ready} (mem : x ∈ qs) {d : Nat} (due : x.due = some d) :
    ∃ d', (planHalts s qs b).haltBy = some d' ∧ d' ≤ latestHalt s b d := by
  induction qs generalizing b with
  | nil => cases mem
  | cons q qs ih =>
    rcases List.mem_cons.mp mem with rfl | later
    · obtain ⟨d1, first, le1⟩ := planHalt_serves s x b d due
      obtain ⟨d2, last, le2⟩ := planHalts_keep s qs (planHalt s x b) d1 (planHalt_planned s x b) first
      exact ⟨d2, last, le2.trans le1⟩
    · have served := ih (planHalt s q b) later
      rwa [latestHalt_planHalt] at served

theorem planHalt_of_unplanned (s : State) (q : Ready) {b : Bind} (free : b.planned = false) :
    (planHalt s q b).due = q.due ∧ (planHalt s q b).haltBy = q.due.map (latestHalt s b) := by
  simp only [planHalt, free, Bool.false_eq_true, if_false, and_self]

theorem mem_preemptors {x : Ready} : x ∈ preemptors slot s ↔ x ∈ readyJobs s ∧ preempts s (getBind slot s) x = true := List.mem_filter

theorem prio_lt_of_preempts {b : Bind} {x : Ready} (h : preempts s b x = true) : b.prio < x.prio := by
  simp only [preempts, Bool.and_eq_true, decide_eq_true_eq] at h
  exact h.1.1.1

/-! ## HALT_REQUEST (R391) -/

variable (run : (getBind slot s).state = .running)
include run

theorem haltRequest_of_none (none : preemptors slot s = []) :
    haltRequest slot s = if (getBind slot s).haltBy.any (decide <| · ≤ s.mod.time.toNat) then haltGang slot s else s := by
  simp only [haltRequest, run, none, List.isEmpty_nil, Bool.not_true, Bool.false_and, Bool.false_or, ne_eq, not_true_eq_false, if_false, if_true]

/-- Whether a gang with the plan `p` halts at once. -/
def HaltsNow (s : State) (p : Bind) : Prop := topLen s.flume = 0 ∨ ∃ d, p.haltBy = some d ∧ d ≤ s.mod.time.toNat

omit run in
theorem getBind_planned (slot : Nat) (qs : List Ready) (s : State) :
    getBind slot (modBind slot (planHalts s qs) s) = planHalts s qs (getBind slot s) := by
  rw [getBind_modBind, if_pos rfl]

open Classical in
theorem haltRequest_of_some (jobs : preemptors slot s ≠ []) :
    haltRequest slot s = if HaltsNow s (planHalts s (preemptors slot s) (getBind slot s))
      then haltGang slot (modBind slot (planHalts s (preemptors slot s)) s) else modBind slot (planHalts s (preemptors slot s)) s := by
  have listed : (preemptors slot s).isEmpty = false := by simpa using jobs
  simp only [haltRequest, HaltsNow, run, listed, getBind_planned, Bool.not_false, Bool.true_and, Bool.or_eq_true, beq_iff_eq, ne_eq,
    not_true_eq_false, if_false, Bool.false_eq_true, Option.any_eq_true, decide_eq_true_eq]
  congr

theorem haltRequest_serves (jobs : preemptors slot s ≠ []) :
    (getBind slot (haltRequest slot s)).due = (planHalts s (preemptors slot s) (getBind slot s)).due
      ∧ (HaltsNow s (planHalts s (preemptors slot s) (getBind slot s)) → GangHalts slot s (haltRequest slot s))
      ∧ (¬HaltsNow s (planHalts s (preemptors slot s) (getBind slot s)) → (getBind slot (haltRequest slot s)).state = .running
        ∧ (getBind slot (haltRequest slot s)).planned = true
        ∧ (getBind slot (haltRequest slot s)).haltBy = (planHalts s (preemptors slot s) (getBind slot s)).haltBy) := by
  have there := getBind_planned slot (preemptors slot s) s
  have running : (getBind slot (modBind slot (planHalts s (preemptors slot s)) s)).state = .running := by rw [there, planHalts_state, run]
  rw [haltRequest_of_some run jobs]
  split
  · next now =>
    refine ⟨by rw [due_haltGang running, there], fun _ => haltGang_halts_of running ?_ fun _ => rfl, fun later => absurd now later⟩
    rw [there, gangTiles_planHalts]
  · next later =>
    refine ⟨by rw [there], fun now => absurd now later, fun _ => ⟨running, ?_, by rw [there]⟩⟩
    rw [there, planHalts_planned]
    simpa using Or.inr jobs

end

/-! ## SLICE_END (R392, R393) -/

section

variable {s : State} {slot : Nat} (run : (getBind slot s).state = .running) (spent : sliceOver (getBind slot s) s.mod.time = true)
include run spent

theorem sliceEnd_of_unwanted (unwanted : wanted (sliceDone slot s) slot (getBind slot s) (getBind slot s).base = none) :
    sliceEnd slot s = sliceRenewed slot s := by
  unfold sliceDone at unwanted
  simp only [sliceEnd, run, spent, unwanted, and_self, if_true]
  rfl

/-- The state in which a gang whose slice is over is to give way to `q`. -/
def wayGiven (slot : Nat) (q : Ready) (s : State) : State := modBind slot (fun b => { b with due := q.due }) (sliceDone slot s)

omit run spent in
theorem getBind_wayGiven (q : Ready) :
    getBind slot (wayGiven slot q s) = { getBind slot s with prio := (getBind slot s).base, due := q.due } := by
  rw [wayGiven, getBind_modBind, if_pos rfl, sliceDone, getBind_modBind, if_pos rfl]

theorem sliceEnd_of_wanted {q : Ready} (want : wanted (sliceDone slot s) slot (getBind slot s) (getBind slot s).base = some q) :
    sliceEnd slot s = if (getBind slot s).la && topLen s.flume != 0 then modBind slot (fun b => { b with planned := true }) (wayGiven slot q s)
      else haltGang slot (wayGiven slot q s) := by
  unfold sliceDone at want
  simp only [sliceEnd, run, spent, want, and_self, if_true]
  rfl

end

/-! ## PRIORITY_AGEING (R390) -/

section

variable {s : State} {vd : BitVec 8} {stream : BitVec 16} {st : StreamSt} {q : Ready} {j : Job}

theorem aged_eq_agedJob (n : Nat) : agedJob j n =
    fun j' => { j' with waited := (aged j.waited j.prio).1, prio := (aged j.waited j.prio).2, agedAt := j'.agedAt + BitVec.ofNat 64 n } := by
  funext j'
  unfold agedJob aged
  split <;> rfl

theorem priorityAgeing_of_job (found : (getVd vd s).streams.find? (·.num == stream) = some st) (ready : readyOf vd st s = some q)
    (unbound : q.slot = none) (head : headJob st = some j) (span : j.agedAt.toNat + qSlice (getVd vd s) ≤ s.mod.time.toNat) :
    priorityAgeing vd stream s = modJob vd stream j.gen (agedJob j (qSlice (getVd vd s))) s := by
  simp only [priorityAgeing, found, ready, head, unbound, if_pos span, aged_eq_agedJob]

end

/-- Settles O47: a bind, a start and each halt by the lemmas of its step; that every tile of a launched or a halting gang is reached, by going
through the list of its tiles. -/
theorem gangsAreBoundStartedAndHalted : Obligations.GangsAreBoundStartedAndHalted := by
  unfold Obligations.GangsAreBoundStartedAndHalted
  intro s s1 s2 slot vd stream c0 r0 st q j i bs b halts
  refine ⟨fun runs found ready unbound head image inside on room choice low empty => ?_,
    fun bound first active runs free image names checked mailbox counted => ?_, fun qs run jobs any => ?_, fun run none => ⟨fun d by_ late => ?_,
    fun early => ?_⟩, fun run spent => ⟨fun unwanted => ?_, fun want => ?_⟩, fun found ready unbound head span => ?_⟩
  · have may : (inGrid c0.toNat r0.toNat q.w q.h && powered s.mod && admitted s q && mayChoose s q) = true := by
      rw [inside, on, room, choice]; rfl
    have taken := (yarderBind_of_empty runs found ready empty c0 r0).trans (takeSlot_of_empty ready unbound head image may low empty)
    exact ⟨_, congrArg Host.Outcome.next taken, activate_power on, getBind_slotTaken, congrArg (· + 1) (activate_chosen s)⟩
  · have started := gangStart_of_checked i rfl bound first active runs free image names checked mailbox counted
    obtain ⟨running, start, runc⟩ := getBind_launchGang slot b i bs (firstTotal b s2)
    exact ⟨_, congrArg Host.Outcome.next started, running, start, runc, fun k inside => launched_launchGang slot b i bs _ inside⟩
  · subst jobs
    refine ⟨fun x => mem_preemptors, fun x mem => prio_lt_of_preempts (mem_preemptors.mp mem).2, fun x mem d => planHalts_serve s _ b mem,
      fun free one => ?_, fun d planned => planHalts_keep s _ b d planned, haltRequest slot s, rfl, haltRequest_serves run any⟩
    rw [one]
    exact planHalt_of_unplanned s q free
  · have due : b.haltBy.any (decide <| · ≤ s.mod.time.toNat) = true := by simp [by_, late]
    exact ⟨_, congrArg Host.Outcome.next ((haltRequest_of_none run none).trans (if_pos due)), haltGang_halts run⟩
  · have waits : ¬b.haltBy.any (decide <| · ≤ s.mod.time.toNat) = true := by
      simpa only [Option.any_eq_true, decide_eq_true_eq, not_exists, not_and, not_le] using early
    exact congrArg Host.Outcome.next ((haltRequest_of_none run none).trans (if_neg waits))
  · exact congrArg Host.Outcome.next (sliceEnd_of_unwanted run spent unwanted)
  · refine ⟨sliceEnd slot s, rfl, ?_⟩
    have given := getBind_wayGiven (s := s) (slot := slot) q
    have running : (getBind slot (wayGiven slot q s)).state = .running := by rw [given]; exact run
    have halting : GangHalts slot s (haltGang slot (wayGiven slot q s)) := haltGang_halts_of running (by rw [given]; rfl) fun _ => rfl
    rw [sliceEnd_of_wanted run spent want]
    split
    · next waits =>
      obtain ⟨la, laps⟩ : b.la = true ∧ topLen s.flume ≠ 0 := by simpa using waits
      rw [getBind_modBind, if_pos rfl, given]
      exact ⟨rfl, fun _ => ⟨run, rfl⟩, fun free => by simp [la, laps] at free⟩
    · next at_once =>
      rw [due_haltGang running, given]
      exact ⟨rfl, fun waits => absurd waits (by simpa using at_once), fun _ => halting⟩
  · exact congrArg Host.Outcome.next (priorityAgeing_of_job found ready unbound head span)

end Sys2Proof.Proofs
end

section
/-! Proofs for 14_translation.md, 17_host.md: interface registers, ERROR, resets, VF_ENABLE, the window and descriptors (R373, R443, R445 to R447,
R450, R461, R462). -/

namespace Sys2Proof.Proofs

open Sys2Proof Sys2Proof.Machine Sys2Proof.Safety Sys2Proof.Laws

/-! ## ERROR, STOP and resets (R461, R462) -/

section

variable (s : State) (vd : BitVec 8)

/-- A device holds nothing in a slot: its record is empty, or another's. -/
def NotOf (vd : BitVec 8) (b : Bind) : Prop := b.state = .empty ∨ b.vd ≠ vd

theorem getBind_cutGang (slot n : Nat) : getBind n (cutGang slot s) = if n = slot then {} else getBind n s := by
  rw [cutGang, getBind_modBind]
  refine if_congr Iff.rfl rfl (getBind_of_binds ?_ n)
  exact (releasePins_binds _ _).trans (overTiles_binds s (heldTiles slot s) cutTile)

theorem cutGang_vds (slot : Nat) : (cutGang slot s).vds = s.vds := overTiles_frame State.vds (fun _ _ => rfl) (fun _ _ => rfl) cutTile _ s

theorem cutGang_mod (slot : Nat) : (cutGang slot s).mod = s.mod := overTiles_frame State.mod (fun _ _ => rfl) (fun _ _ => rfl) cutTile _ s

theorem smGet_mem_of_ne {α : Type} {d : α} {m : SMap α} {k : Nat} (h : smGet d m k ≠ d) : (k, smGet d m k) ∈ m := by
  induction m with
  | nil => exact absurd rfl h
  | cons x t ih =>
    rw [smGet] at h ⊢
    split at h
    · next same => rw [if_pos same, ← same]; exact List.mem_cons_self
    · next other => rw [if_neg other]; exact List.mem_cons_of_mem _ (ih h)

/-- The gangs of a device cut. -/
def cutGangs (vd : BitVec 8) (s : State) : State := (bindsOf vd s).foldl (fun s b => cutGang b.1 s) s

theorem cutGangs_notOf (n : Nat) : NotOf vd (getBind n (cutGangs vd s)) := by
  have cut (s : State) : NotOf vd (getBind n (cutGang n s)) := by rw [getBind_cutGang, if_pos rfl]; exact .inl rfl
  have kept (s : State) (x : Nat × Bind) (free : NotOf vd (getBind n s)) : NotOf vd (getBind n (cutGang x.1 s)) := by
    rw [getBind_cutGang]
    split
    · exact .inl rfl
    · exact free
  by_cases free : NotOf vd (getBind n s)
  · exact List.foldlRecOn (motive := fun t => NotOf vd (getBind n t)) _ _ free fun t h x _ => kept t x h
  · obtain ⟨held, own⟩ := not_or.mp free
    have listed : (n, getBind n s) ∈ s.binds := smGet_mem_of_ne fun none => held (congrArg Bind.state none)
    exact foldl_reaches (x := (n, getBind n s)) cut (fun t x _ => kept t x) (.inr (List.mem_filter.mpr ⟨listed, by simpa [held] using own⟩))

theorem cutGangs_keep : (cutGangs vd s).vds = s.vds ∧ (cutGangs vd s).mod = s.mod :=
  List.foldlRecOn (motive := fun (t : State) => t.vds = s.vds ∧ t.mod = s.mod) _ _ ⟨rfl, rfl⟩ fun t kept x _ =>
    ⟨(cutGang_vds t x.1).trans kept.1, (cutGang_mod t x.1).trans kept.2⟩

theorem cutDevice_mod : (cutDevice vd s).mod = s.mod := (cutGangs_keep s vd).2

theorem cutDevice_enduring (g : BitVec 8) : enduring (getVd g (cutDevice vd s)) = enduring (getVd g s) := by
  have same (g : BitVec 8) : getVd g (cutGangs vd s) = getVd g s := by
    unfold getVd
    rw [(cutGangs_keep s vd).1]
  have cut : cutDevice vd s = modVd vd (fun v => { v with streams := v.streams.map (cutStream (cutGangs vd s).mod.time) }) (cutGangs vd s) := rfl
  rw [cut, getVd_modVd, ← same g]
  split
  · next own => rw [own]; rfl
  · rfl

theorem cutInterface_mod : (cutInterface vd s).mod = (wake s).mod := (dropAll_keeps _ vd).mod.trans (cutDevice_mod _ vd)

theorem dropAll_dropKeeps : DropKeeps s (dropAll vd s) := dropRange_dropKeeps s vd 0 (2 ^ 48)

theorem cutInterface_enduring (g : BitVec 8) : enduring (getVd g (cutInterface vd s)) = enduring (getVd g s) := by
  have dropped := ((dropAll_dropKeeps (cutDevice vd (wake s)) vd).vds g).trans (cutDevice_enduring (wake s) vd g)
  rw [getVd_wake] at dropped
  rw [← dropped]
  unfold cutInterface
  rw [getVd_modVd]
  split
  · next own => rw [own]; rfl
  · rfl

theorem cutInterface_notOf (n : Nat) : NotOf vd (getBind n (cutInterface vd s)) := by
  have same : getBind n (cutInterface vd s) = getBind n (cutGangs vd (wake s)) := getBind_of_binds (dropAll_dropKeeps (cutDevice vd (wake s)) vd).binds n
  rw [same]
  exact cutGangs_notOf _ _ _

theorem enterError_of_frozen (cause : BitVec 8) (h : frozen (getVd vd s) = true) :
    (getVd vd (enterError vd cause s)).tstate = .error ∧ (getVd vd (enterError vd cause s)).tcause = cause
      ∧ (getVd vd (enterError vd cause s)).cmdq = [] ∧ ∀ n, NotOf vd (getBind n (enterError vd cause s)) := by
  rw [enterError, if_pos h]
  refine ⟨?_, ?_, ?_, cutInterface_notOf s vd⟩
  · rw [getVd_modVd, if_pos rfl]
  · rw [getVd_modVd, if_pos rfl]
  · rw [getVd_modVd, if_pos rfl, cutInterface, getVd_modVd, if_pos rfl]

theorem scrubPool_enduring : UnitKeeps enduring s (scrubPool vd s) := by
  have touched := UnitKeeps.foldl (fun s l => touchLine_unit pinFree_enduring s l true true true { vd := vd })
    (linesOf (s.mem.dmem.filter (scrubbed (getVd vd s) ·.1))) s
  exact ⟨touched.binds, touched.clusters, touched.vds⟩

theorem scrubPool_mod : (scrubPool vd s).mod = s.mod :=
  (PortKeeps.foldl (fun s l => touchLine_keeps s l true true true { vd := vd }) (linesOf (s.mem.dmem.filter (scrubbed (getVd vd s) ·.1))) s).mod

theorem stopInterface_clears : (getVd vd (stopInterface vd s)).tstate = .unlocked ∧ (getVd vd (stopInterface vd s)).images = []
    ∧ (getVd vd (stopInterface vd s)).eq = Vector.replicate 4 {}
    ∧ (getVd vd (stopInterface vd s)).storageKey = (getVd vd s).storageKey + 1 := by
  have key {t : State} (kept : enduring (getVd vd t) = enduring (getVd vd s)) : (getVd vd (scrubPool vd t)).storageKey = (getVd vd s).storageKey :=
    congrArg (·.2.1) (((scrubPool_enduring t vd).vds vd).trans kept)
  unfold stopInterface
  rw [getVd_modVd, if_pos rfl]
  refine ⟨rfl, rfl, rfl, congrArg (· + 1) ?_⟩
  split
  · exact key (by rw [getVd_wake])
  · exact key (cutInterface_enduring s vd vd)

/-! ## VF_ENABLE (R443) -/

/-- What VF_ENABLE with `n` functions does to function `j + 1`. -/
def enableStep (n : Nat) (s : State) (j : Nat) : State :=
  if j < n then (if (getVd (BitVec.ofNat 8 (j + 1)) s).enabled then s else modVd (BitVec.ofNat 8 (j + 1)) (fun v => { v with enabled := true }) s)
  else if (getVd (BitVec.ofNat 8 (j + 1)) s).enabled
    then modVd (BitVec.ofNat 8 (j + 1)) offDevice (scrubPool (BitVec.ofNat 8 (j + 1)) (cutInterface (BitVec.ofNat 8 (j + 1)) s)) else s

theorem enableStep_enabled (n j : Nat) (g : BitVec 8) : (getVd g (enableStep n s j)).enabled =
    if g = BitVec.ofNat 8 (j + 1) then decide (j < n) else (getVd g s).enabled := by
  generalize own : BitVec.ofNat 8 (j + 1) = h
  have kept : (getVd g (scrubPool h (cutInterface h s))).enabled = (getVd g s).enabled :=
    congrArg Prod.fst (((scrubPool_enduring (cutInterface h s) h).vds g).trans (cutInterface_enduring s h g))
  unfold enableStep
  rw [own]
  by_cases counted : j < n
  · rw [if_pos counted, decide_eq_true counted]
    split
    · next on => exact (ite_eq_right_iff.mpr fun same => (same ▸ on).symm).symm
    · rw [getVd_modVd]
      split <;> rfl
  · rw [if_neg counted, decide_eq_false counted]
    split
    · rw [getVd_modVd]
      split
      · rfl
      · exact kept
    · next off => exact (ite_eq_right_iff.mpr fun same => (same ▸ Bool.eq_false_iff.mpr off).symm).symm

theorem wake_numVFs : (wake s).mod.numVFs = s.mod.numVFs := by
  unfold wake
  split <;> rfl

theorem enableStep_numVFs (n j : Nat) : (enableStep n s j).mod.numVFs = s.mod.numVFs := by
  unfold enableStep
  split
  · split <;> rfl
  · split
    · rw [modVd_mod, scrubPool_mod, cutInterface_mod, wake_numVFs]
    · rfl

variable {s} in
theorem vfEnable_of_open {n : Nat} (on : barOpen s.mod = true) (low : n ≤ 255) :
    vfEnable n s = (upTo 255).foldl (enableStep n) (onMod (fun m => { m with numVFs := n }) s) := by
  have may : ¬((!barOpen s.mod) = true ∨ 255 < n) := by simp [on, low]
  rw [vfEnable, if_neg may]
  rfl

theorem vfEnable_numVFs {n : Nat} (on : barOpen s.mod = true) (low : n ≤ 255) : (vfEnable n s).mod.numVFs = n := by
  rw [vfEnable_of_open on low]
  exact List.foldlRecOn (motive := fun (t : State) => t.mod.numVFs = n) _ _ rfl fun t kept j _ => (enableStep_numVFs t n j).trans kept

/-- Function `g` is reached at the step of its number, and no other function's step changes whether it is enabled. -/
theorem vfEnable_enabled {n : Nat} (on : barOpen s.mod = true) (low : n ≤ 255) {g : BitVec 8} (virtual : g ≠ 0) :
    (getVd g (vfEnable n s)).enabled = decide (g.toNat ≤ n) := by
  have number : 0 < g.toNat := Nat.pos_of_ne_zero fun zero => virtual (BitVec.eq_of_toNat_eq zero)
  have own : g = BitVec.ofNat 8 (g.toNat - 1 + 1) := by rw [Nat.sub_add_cancel number, BitVec.ofNat_toNat, BitVec.setWidth_eq]
  have high := g.isLt
  rw [vfEnable_of_open on low]
  refine foldl_reaches (P := fun t => (getVd g t).enabled = decide (g.toNat ≤ n)) (x := g.toNat - 1) (fun t => ?_) (fun t j listed before => ?_)
    (.inr (List.mem_range.mpr (by omega)))
  · rw [enableStep_enabled, if_pos own, decide_eq_decide]
    omega
  · rw [enableStep_enabled]
    split
    · next same =>
      have few := List.mem_range.mp listed
      rw [same, BitVec.toNat_ofNat, decide_eq_decide]
      omega
    · exact before

end

/-! ## Interface registers (R446, R447, R450) -/

section

variable {s : State} {vd : BitVec 8} {off : Nat} {x : Word}

theorem power_ne_recovery (on : barOpen s.mod = true) : s.mod.power ≠ .recovery := by
  intro recovery
  simp [barOpen, powered, recovery] at on

theorem wake_barOpen (on : barOpen s.mod = true) : barOpen (wake s).mod = true := by
  unfold wake
  split
  · rfl
  · exact on

theorem interfaceWrite_of_shut (shut : (getVd vd s).enabled = false ∨ barOpen s.mod = false) (normal : s.mod.power ≠ .recovery) :
    interfaceWrite vd off x s = s := by
  have bars : (!(getVd vd s).enabled || !barOpen s.mod || quotaBars vd (getVd vd s) off) = true := by rcases shut with h | h <;> simp [h]
  simp only [interfaceWrite, normal, bars, false_and, if_true, if_false]

theorem interfaceRead_of_shut (shut : (getVd vd s).enabled = false ∨ barOpen s.mod = false) (normal : s.mod.power ≠ .recovery) :
    interfaceRead vd off s = none := by
  have bars : (barOpen s.mod && (getVd vd s).enabled) = false := by rcases shut with h | h <;> simp [h]
  simp only [interfaceRead, normal, bars, Bool.false_eq_true, if_false]

theorem interfaceRead_of_open (on : barOpen s.mod = true) (enabled : (getVd vd s).enabled = true) :
    interfaceRead vd off s = some (interfaceRegister vd (getVd vd s) off) := by
  simp only [interfaceRead, power_ne_recovery on, on, enabled, Bool.and_self, if_true, if_false]

theorem quotaBars_of_quota (quota : vd = 0 ∨ (getVd vd s).quota.raw ≠ 0) : quotaBars vd (getVd vd s) off = false := by
  rcases quota with h | h
  · simp [quotaBars, h]
  · simp only [quotaBars, beq_false_of_ne h, Bool.and_false, Bool.false_and]

theorem quotaBars_of_command (low : 0x80 ≤ off) (high : off < 0xC0) : quotaBars vd (getVd vd s) off = false := by
  simp [quotaBars, low, high]

section

variable (on : barOpen s.mod = true) (enabled : (getVd vd s).enabled = true)
include on enabled

omit enabled in
theorem interfaceWrite_barred (device : vd ≠ 0) (quota : (getVd vd s).quota.raw = 0) (other : off < 0x80 ∨ 0xC0 ≤ off) :
    interfaceWrite vd off x s = s := by
  have bars : quotaBars vd (getVd vd s) off = true := by
    simp only [quotaBars, bne_iff_ne.mpr device, quota, beq_self_eq_true, Bool.and_self, Bool.true_and, Bool.not_eq_true', decide_eq_false_iff_not]
    omega
  simp only [interfaceWrite, power_ne_recovery on, bars, Bool.or_true, false_and, if_true, if_false]

/-- The dispatch of a write that is taken. -/
theorem interfaceWrite_of_open (unbarred : quotaBars vd (getVd vd s) off = false) : interfaceWrite vd off x s =
    if frozenOff off && frozen (getVd vd s) then enterError vd 2 s
    else if 0x80 ≤ off ∧ off < 0xC0 ∧ off % 8 = 0 then writeCmd vd (Fin.ofNat 8 ((off - 0x80) / 8)) x s
    else if 0xC0 ≤ off ∧ off < 0xE0 ∧ off % 8 = 0 then writeInv vd (Fin.ofNat 4 ((off - 0xC0) / 8)) x s
    else if off = 0x10 then dropAll vd (wake (modVd vd (setRegister off x s.mod.time) s)) else modVd vd (setRegister off x s.mod.time) s := by
  simp only [interfaceWrite, power_ne_recovery on, enabled, on, unbarred, Bool.not_true, Bool.or_false, Bool.false_eq_true, false_and, if_false]

theorem interfaceWrite_frozen (unbarred : quotaBars vd (getVd vd s) off = false) (held : frozen (getVd vd s) = true)
    (register : frozenOff off = true) : interfaceWrite vd off x s = enterError vd 2 s := by
  rw [interfaceWrite_of_open on enabled unbarred, register, held]
  rfl

theorem interfaceWrite_command (k : Fin 8) : interfaceWrite vd (0x80 + 8 * k.val) x s = writeCmd vd k x s := by
  have low := k.isLt
  have free : frozenOff (0x80 + 8 * k.val) = false := by simp [frozenOff]; omega
  have index : Fin.ofNat 8 ((0x80 + 8 * k.val - 0x80) / 8) = k := Fin.ext (by simp only [Fin.val_ofNat]; omega)
  rw [interfaceWrite_of_open on enabled (quotaBars_of_command (by omega) (by omega)), free, index, if_neg (by simp), if_pos (by omega)]

variable (unbarred : quotaBars vd (getVd vd s) off = false) (free : frozen (getVd vd s) = false) (low : off < 0x80)
include unbarred free low

theorem interfaceWrite_register : interfaceWrite vd off x s =
    if off = 0x10 then dropAll vd (wake (modVd vd (setRegister off x s.mod.time) s)) else modVd vd (setRegister off x s.mod.time) s := by
  rw [interfaceWrite_of_open on enabled unbarred, free, Bool.and_false, if_neg Bool.false_ne_true, if_neg (by omega), if_neg (by omega)]

/-- A register that is not PTROOT reads back what the write made of it. -/
theorem interfaceRead_written {mask : Word} (other : off ≠ 0x10) (still : (setRegister off x s.mod.time (getVd vd s)).enabled = (getVd vd s).enabled)
    (value : interfaceRegister vd (setRegister off x s.mod.time (getVd vd s)) off = x &&& mask) :
    interfaceRead vd off (interfaceWrite vd off x s) = some (x &&& mask) := by
  rw [interfaceWrite_register on enabled unbarred free low, if_neg other]
  have there : getVd vd (modVd vd (setRegister off x s.mod.time) s) = setRegister off x s.mod.time (getVd vd s) := by
    rw [getVd_modVd, if_pos rfl]
  rw [interfaceRead_of_open (s := modVd vd (setRegister off x s.mod.time) s) on (by rw [there, still, enabled]), there, value]

end

/-- PTROOT reads back what was written, though the write drops the device's translations. -/
theorem interfaceRead_ptroot (on : barOpen s.mod = true) (enabled : (getVd vd s).enabled = true)
    (unbarred : quotaBars vd (getVd vd s) 0x10 = false) (free : frozen (getVd vd s) = false) :
    interfaceRead vd 0x10 (interfaceWrite vd 0x10 x s) = some (x &&& 0xFFFFFFFFF000) := by
  rw [interfaceWrite_register on enabled unbarred free (by decide), if_pos rfl]
  generalize written : wake (modVd vd (setRegister 0x10 x s.mod.time) s) = t
  have there : getVd vd t = { getVd vd s with ptroot := x &&& 0xFFFFFFFFF000 } := by
    rw [← written, getVd_wake, getVd_modVd, if_pos rfl]
    rfl
  have kept := (dropAll_dropKeeps t vd).vds vd
  simp only [enduring, there, Prod.mk.injEq] at kept
  obtain ⟨still, -, root, -⟩ := kept
  have answers : barOpen (dropAll vd t).mod = true := by
    rw [(dropAll_keeps t vd).mod, ← written]
    exact wake_barOpen (s := modVd vd (setRegister 0x10 x s.mod.time) s) on
  rw [interfaceRead_of_open answers (still.trans enabled)]
  exact congrArg some root

theorem raw_set_eqMask (e : Vector EqReg 4) (n : Nat) (h : n < 4) : (e.set n (eqMask x))[n].raw = x &&& 0xFFFFFFFFFFFFFFDF := by
  rw [Vector.getElem_set_self]
  exact congrArg (x &&& ·) (by decide : ~~~0x20#64 = 0xFFFFFFFFFFFFFFDF#64)

theorem writeCmd_of_ne {k : Fin 8} (other : k ≠ 7) : writeCmd vd k x s = modVd vd (fun v => { v with cmdw := v.cmdw.set k x }) s := if_neg other

theorem getVd_writeCmd_last (works : (getVd vd s).tstate ≠ .error) (room : (getVd vd s).cmdq.length < 16) :
    (getVd vd (writeCmd vd 7 x s)).cmdq = (getVd vd s).cmdq ++ [windowCmd ((getVd vd s).cmdw.set 7 x)] := by
  generalize written : modVd vd (fun v => { v with cmdw := v.cmdw.set 7 x }) s = t
  have there : getVd vd t = { getVd vd s with cmdw := (getVd vd s).cmdw.set 7 x } := by
    rw [← written, getVd_modVd, if_pos rfl]
  have posted : writeCmd vd 7 x s = postCommand vd (windowCmd (getVd vd t).cmdw) t := by rw [← written]; rfl
  rw [posted, there]
  have few : ¬cmdDepth ≤ (getVd vd s).cmdq.length := Nat.not_le.mpr room
  simp only [postCommand, getVd_wake, there, if_neg works, if_neg few, getVd_modVd, if_true]

end

/-! ## The memory window (R445) -/

section

variable {s t : State} {vd : BitVec 8} {off n : Nat} {bs : List Byte} (on : barOpen s.mod = true)
include on

theorem windowRead_of_read (opens : windowOpen (getVd vd (wake s)) off n = true)
    (read : sysRead vd ((getVd vd (wake s)).wbase.toNat + off) n (wake s) = (some bs, t)) :
    windowRead vd off n s = answer (.windowData vd bs) t := by
  simp only [windowRead, wake_barOpen on, opens, read, Bool.and_self, if_true]

theorem windowWrite_of_ok (opens : windowOpen (getVd vd (wake s)) off bs.length = true)
    (ok : sysOk vd ((getVd vd (wake s)).wbase.toNat + off) bs.length false true (wake s) = (true, t)) :
    windowWrite vd off bs s =
      if (sysWrite vd ((getVd vd (wake s)).wbase.toNat + off) bs false t).1
      then (sysWrite vd ((getVd vd (wake s)).wbase.toNat + off) bs false t).2
      else countWerr vd (sysWrite vd ((getVd vd (wake s)).wbase.toNat + off) bs false t).2 := by
  simp only [windowWrite, wake_barOpen on, opens, ok, Bool.and_self, if_true]
  rcases sysWrite vd ((getVd vd (wake s)).wbase.toNat + off) bs false t with ⟨_ | _, u⟩ <;> rfl

end

/-! ## Descriptors (R373) -/

section

variable {s t : State} {vd : BitVec 8} {d : InvDesc}

theorem postInval_of_shut (shut : barOpen s.mod = false ∨ (getVd vd s).enabled = false) : postInval vd d s = s := by
  have bars : (!barOpen s.mod || !(getVd vd s).enabled) = true := by rcases shut with h | h <;> simp [h]
  rw [postInval, if_pos bars]

variable (on : barOpen s.mod = true) (enabled : (getVd vd s).enabled = true) (works : (getVd vd (wake s)).tstate ≠ .error)
include on enabled works

theorem postInval_of_good (good : invBad vd d = false) (done : sysOk (invTarget d) (invDone d) 8 false true (wake s) = (true, t)) :
    postInval vd d s = modVd vd (fun v => { v with invq := v.invq ++ [{ desc := d, issuer := vd }] }) t := by
  simp only [postInval, on, enabled, if_neg works, good, done, Bool.not_true, Bool.or_self, Bool.false_eq_true, if_false]

theorem postInval_of_bad (bad : invBad vd d = true) :
    (postInval vd d s).doe.replies = s.doe.replies ++ [.invalRefused vd] := by
  simp only [postInval, on, enabled, if_neg works, bad, wake_doe, Bool.not_true, Bool.or_self, Bool.false_eq_true, if_false, if_true]

end

/-- Settles O52: the registers by the dispatch of a write, ERROR and the resets by what the cut of a device leaves, VF_ENABLE function by function. -/
theorem interfaceSteps : Obligations.InterfaceSteps := by
  unfold Obligations.InterfaceSteps
  intro s t vd off n x bs d v
  refine ⟨⟨fun shut normal => ?_, fun enabled on => ⟨fun device quota other => ?_, fun quota free => ?_, fun quota held => ?_, fun k other => ?_,
    fun works room => ?_⟩⟩, fun held => ?_, fun alive => ?_, fun low on => ?_, fun shut => ?_, ⟨fun on opens read => ?_, fun on opens ok => ?_⟩, ?_⟩
  · exact ⟨congrArg Host.Outcome.next (interfaceWrite_of_shut shut normal), interfaceRead_of_shut shut normal⟩
  · exact congrArg Host.Outcome.next (interfaceWrite_barred on device quota other)
  · have reads {off mask : Nat} (low : off < 0x80) (other : off ≠ 0x10)
        (still : (setRegister off x s.mod.time v).enabled = v.enabled)
        (value : interfaceRegister vd (setRegister off x s.mod.time v) off = x &&& BitVec.ofNat 64 mask) :=
      interfaceRead_written on enabled (quotaBars_of_quota quota) free low other still value
    have queue (n : Nat) (h : n < 4) := raw_set_eqMask (x := x) v.eq n h
    simp only [List.forall_mem_cons]
    refine ⟨⟨_, rfl, interfaceRead_ptroot on enabled (quotaBars_of_quota quota) free⟩, ⟨_, rfl, ?_⟩, ⟨_, rfl, ?_⟩, ⟨_, rfl, ?_⟩, ⟨_, rfl, ?_⟩,
      ⟨_, rfl, ?_⟩, ⟨_, rfl, ?_⟩, ⟨_, rfl, ?_⟩, ⟨_, rfl, ?_⟩, ⟨_, rfl, ?_⟩, List.forall_mem_nil _⟩
    · exact reads (by decide) (by decide) rfl rfl
    · exact reads (by decide) (by decide) rfl (queue 0 (by decide))
    · exact reads (by decide) (by decide) rfl (queue 1 (by decide))
    · exact reads (by decide) (by decide) rfl (queue 2 (by decide))
    · exact reads (by decide) (by decide) rfl (queue 3 (by decide))
    · exact reads (by decide) (by decide) rfl rfl
    · exact reads (by decide) (by decide) rfl rfl
    · exact reads (by decide) (by decide) rfl rfl
    · exact reads (by decide) (by decide) rfl rfl
  · obtain ⟨error, cause, -⟩ := enterError_of_frozen s vd 2 held
    intro off mem
    have register : frozenOff off = true := (by decide : ∀ off ∈ [0x10, 0x18, 0x20, 0x28, 0x30, 0x38], frozenOff off = true) off mem
    exact ⟨_, congrArg Host.Outcome.next (interfaceWrite_frozen on enabled (quotaBars_of_quota quota) held register), error, cause⟩
  · exact congrArg Host.Outcome.next ((interfaceWrite_command on enabled k).trans (writeCmd_of_ne other))
  · exact ⟨_, congrArg Host.Outcome.next (interfaceWrite_command on enabled 7), getVd_writeCmd_last works room⟩
  · simp only [List.forall_mem_cons]
    exact ⟨⟨_, rfl, enterError_of_frozen s vd 1 held⟩, ⟨_, rfl, enterError_of_frozen s vd 3 held⟩, List.forall_mem_nil _⟩
  · exact ⟨_, congrArg Host.Outcome.next (if_neg alive), stopInterface_clears s vd⟩
  · exact ⟨_, rfl, vfEnable_numVFs s on low, fun g => vfEnable_enabled s on low⟩
  · exact congrArg Host.Outcome.next (if_pos (.inl (by rw [shut]; rfl)))
  · exact congrArg Host.Outcome.next (windowRead_of_read on opens read)
  · exact congrArg Host.Outcome.next (windowWrite_of_ok on opens ok)
  · simp only [List.forall_mem_cons]
    have posts {i : Instr} {k : Nat} (posted : exec i s = .next (if invKind d = k then postInval vd d s else s)) (kind : invKind d = k) :
        (barOpen s.mod = false ∨ v.enabled = false → exec i s = .next s) ∧ (barOpen s.mod = true → v.enabled = true →
          (getVd vd (wake s)).tstate ≠ .error →
          (invBad vd d = false → sysOk (invTarget d) (invDone d) 8 false true (wake s) = (true, t) →
            exec i s = .next (modVd vd (fun v => { v with invq := v.invq ++ [{ desc := d, issuer := vd }] }) t))
          ∧ (invBad vd d = true → ∃ u, exec i s = .next u ∧ u.doe.replies = s.doe.replies ++ [.invalRefused vd])) := by
      rw [posted, if_pos kind]
      exact ⟨fun shut => congrArg Host.Outcome.next (postInval_of_shut shut), fun on enabled works =>
        ⟨fun good done => congrArg Host.Outcome.next (postInval_of_good on enabled works good done),
          fun bad => ⟨_, rfl, postInval_of_bad on enabled works bad⟩⟩⟩
    exact ⟨posts rfl, posts rfl, posts rfl, List.forall_mem_nil _⟩

end Sys2Proof.Proofs
end

section
/-! Proofs for 17_host.md, 18_module.md: TDISP and SPDM requests and their answers (R443, R457 to R460, R463 to R465, R487). -/

namespace Sys2Proof.Proofs

open Sys2Proof Sys2Proof.Machine Sys2Proof.Safety Sys2Proof.Laws

/-! ## Messages over the DOE mailbox (R457, R487) -/

section

variable {s : State} {r : SpdmReq} {body : State → State}

theorem hear_of_started (started : s.mod.power ≠ .starting) : hear body s = body (wake s) := if_neg started

theorem hear_of_starting (starting : s.mod.power = .starting) : hear body s = s := if_pos starting

theorem tdisp_of_session (started : s.mod.power ≠ .starting) (secured : r.session = true) (opened : s.doe.session = true) (virtual : r.vd ≠ 0)
    (enabled : (getVd r.vd (wake s)).enabled = true) : tdisp r body s = body (wake s) := by
  simp only [tdisp, hear_of_started started, secured, wake_doe, opened, virtual, enabled, Bool.and_self, Bool.not_true, Bool.false_eq_true,
    Bool.true_eq_false, or_self, if_false]

theorem ideKm_of_session (started : s.mod.power ≠ .starting) (secured : r.session = true) (opened : s.doe.session = true) (keys : List Byte) :
    exec (.ideKm r keys) s = .next (if (getVd r.vd (wake s)).enabled
      then answer (.ideKeysSet r.vd) (modVd r.vd (fun v => { v with ideKeys := keys }) (wake s)) else answer .spdmError (wake s)) := by
  refine congrArg Host.Outcome.next ((hear_of_started started).trans ?_)
  simp only [secured, wake_doe, opened, Bool.true_and]

end

/-! ## TDISP (R459, R460, R462) -/

section

variable {s : State} {vd : BitVec 8}

theorem lockInterface_of_free (unlocked : (getVd vd s).tstate = .unlocked) (free : lockRefused vd s = false) :
    lockInterface vd s = answer (.lockAccepted vd) (modVd vd (fun v => { v with tstate := .locked }) s) := if_pos ⟨unlocked, free⟩

theorem sendReport_of_frozen (held : frozen (getVd vd s) = true) : sendReport vd s = answer (.report vd (interfaceReport vd s)) s := if_pos held

theorem startInterface_of_locked (locked : (getVd vd s).tstate = .locked) :
    startInterface vd s = answer (.started vd) (modVd vd (fun v => { v with tstate := .run }) s) := if_pos locked

theorem stopRequest_of_locked (locked : (getVd vd s).tstate ≠ .unlocked) : stopRequest vd s = answer (.stopped vd) (stopInterface vd s) :=
  if_neg locked

end

/-! ## SPDM (R458, R464, R465) -/

section

theorem length_fitBytes (n : Nat) (bs : List Byte) : (fitBytes n bs).length = n := by
  rw [fitBytes, List.length_append, List.length_take, List.length_replicate]
  omega

theorem length_deviceSign (context : String) (message : List Byte) : (deviceSign context message).length = 29792 := length_fitBytes _ _

variable {s : State} {r : SpdmReq} (started : s.mod.power ≠ .starting)
include started

theorem getCapabilities_of_versioned (versioned : s.doe.versioned = true) :
    exec (.getCapabilities r) s = .next (answer .capabilities (setUp r [] (fun d => { d with capable := true }) (wake s))) := by
  refine congrArg Host.Outcome.next ((hear_of_started started).trans ?_)
  simp only [wake_doe, versioned, if_true]

theorem negotiateAlgorithms_of_capable (capable : s.doe.capable = true) :
    exec (.negotiateAlgorithms r) s = .next (answer (algorithms r.extAsym)
      (setUp r [BitVec.ofNat 8 (flagBit r.extAsym 0)] (fun d => { d with negotiated := true, asym := r.extAsym }) (wake s))) := by
  refine congrArg Host.Outcome.next ((hear_of_started started).trans ?_)
  simp only [wake_doe, capable, if_true]

theorem challenge_eq : exec (.challenge r) s = .next (if s.doe.negotiated && s.doe.asym
    then answer (.challengeAuth (chainDigest (wake s))
      (deviceSign "responder-challenge_auth signing" (s.doe.transcript ++ exchange r (chainBytes (wake s))))) (wake s)
    else answer .spdmError (wake s)) := by
  refine congrArg Host.Outcome.next ((hear_of_started started).trans ?_)
  simp only [wake_doe]

theorem keyExchange_eq : exec (.keyExchange r) s = .next (if s.doe.negotiated && s.doe.asym
    then answer (.keyExchangeRsp
      (deviceSign "responder-key_exchange_rsp signing" (s.doe.transcript ++ chainBytes (wake s) ++ exchange r [])))
      (onDoe (fun d => { d with session := true }) (wake s))
    else answer .spdmError (wake s)) := by
  refine congrArg Host.Outcome.next ((hear_of_started started).trans ?_)
  simp only [wake_doe]

/-- The measurements' bytes of one block, in the log of the exchanges since the last signed one. -/
def measuredLog (r : SpdmReq) (s : State) : List Byte :=
  s.doe.measured ++ exchange r (toBytes 1 r.index ++ toBytes 2 (measurement r.vd (wake s) r.index).length ++ measurement r.vd (wake s) r.index)

theorem getMeasurements_of_block (capable : s.doe.capable = true) (low : 1 ≤ r.index) (high : r.index ≤ 5) :
    exec (.getMeasurements r) s = .next (if r.signature && !s.doe.asym then answer .spdmError (wake s)
      else answer (.measurements [(r.index, measurement r.vd (wake s) r.index)]
        (if r.signature then some (deviceSign "responder-measurements signing" (s.doe.transcript ++ measuredLog r s)) else none))
        (onDoe (fun d => { d with measured := if r.signature then [] else measuredLog r s }) (wake s))) := by
  refine congrArg Host.Outcome.next ((hear_of_started started).trans ?_)
  have one : ¬r.index = 255 := by omega
  simp only [wake_doe, capable, if_neg one, if_pos (And.intro low high), List.isEmpty_cons, List.map_cons, List.map_nil, List.flatMap_cons,
    List.flatMap_nil, List.append_nil, Bool.not_true, Bool.false_or, Bool.or_false, measuredLog]

end

/-- Settles O53: each request by the answer of its step, heard after a wake; what STOP leaves is that of the reset (O52). -/
theorem attestationSteps : Obligations.AttestationSteps := by
  unfold Obligations.AttestationSteps
  intro s r keys w v
  refine ⟨fun started => ⟨fun secured opened => ⟨fun enabled => ?_, fun off => ?_, fun virtual enabled => ?_⟩, ?_, fun versioned => ?_,
    fun capable => ⟨?_, fun low high => ⟨fun plain => ?_, fun signed able => ?_, fun signed unable => ?_⟩⟩, fun negotiated able => ⟨?_, ?_⟩,
    fun unable => ?_⟩, fun starting => ?_, length_deviceSign⟩
  · exact (ideKm_of_session started secured opened keys).trans (congrArg _ (if_pos enabled))
  · exact (ideKm_of_session started secured opened keys).trans (congrArg _ (if_neg (by rw [off]; exact Bool.false_ne_true)))
  · have heard (body : State → State) : Host.Outcome.next (tdisp r body s) = (.next (body w) : Host.Outcome State Fault Refusal) :=
      congrArg _ (tdisp_of_session started secured opened virtual enabled)
    refine ⟨heard _, heard _, heard _, fun unlocked free => (heard _).trans (congrArg _ (lockInterface_of_free unlocked free)),
      fun held => (heard _).trans (congrArg _ (sendReport_of_frozen held)),
      fun locked => (heard _).trans (congrArg _ (startInterface_of_locked locked)), fun locked => ?_⟩
    obtain ⟨unlocked, images, -, key⟩ := stopInterface_clears w r.vd
    exact ⟨_, (heard _).trans (congrArg _ (stopRequest_of_locked locked)), unlocked, images, key⟩
  · exact ⟨_, congrArg _ (hear_of_started started), rfl, rfl, rfl⟩
  · exact ⟨_, getCapabilities_of_versioned started versioned, rfl⟩
  · exact ⟨_, negotiateAlgorithms_of_capable started capable, rfl, rfl⟩
  · rw [getMeasurements_of_block started capable low high, plain]
    rfl
  · rw [getMeasurements_of_block started capable low high, signed, able]
    rfl
  · rw [getMeasurements_of_block started capable low high, signed, unable]
    rfl
  · rw [challenge_eq started, negotiated, able]
    rfl
  · exact ⟨_, (keyExchange_eq started).trans (by rw [negotiated, able]; rfl), rfl⟩
  · have refused : (s.doe.negotiated && s.doe.asym) = false := by rcases unable with h | h <;> simp [h]
    rw [challenge_eq started, keyExchange_eq started, refused]
    exact ⟨rfl, rfl⟩
  · have unheard (body : State → State) : Host.Outcome.next (hear body s) = (.next s : Host.Outcome State Fault Refusal) :=
      congrArg _ (hear_of_starting starting)
    simp only [List.forall_mem_cons]
    exact ⟨unheard _, unheard _, unheard _, unheard _, unheard _, unheard _, unheard _, unheard _, unheard _, unheard _, unheard _, unheard _,
      unheard _, unheard _, List.forall_mem_nil _⟩

end Sys2Proof.Proofs
end

section
/-! Proofs for 18_module.md: the entry to Calm (R478, R479). -/

namespace Sys2Proof.Proofs

open Sys2Proof Sys2Proof.Machine Sys2Proof.Safety Sys2Proof.Laws

/-! ## A Flume without a lap -/

/-- A published half of one flit at pace 1. -/
def paced : LapHalf := { laplen := 1, pace := 1, rafts := [], commits := [] }

/-- A Flume that lists no lap: no boundary ends one, so the half of pace 0 that the entry to Calm publishes never governs. -/
def laplessFlume : Flume := { laps := [], maps := [(0, paced)] }

/-- An Active module that has been idle for its Calm interval, no gang bound, over that Flume. -/
def laplessState : State :=
  { mod := { power := .active, time := (Config.calmInterval []).getD 10000000 }
    flume := laplessFlume }

theorem stopFlume_lapless : (stopFlume laplessState).flume = { laplessFlume with maps := [(1, { paced with pace := 0 }), (0, paced)] } := rfl

/-- Its interval has passed to the tick. -/
theorem laplessState_idle : calmTicks laplessState.mod ≤ (laplessState.mod.time - laplessState.mod.idleSince).toNat := by
  show _ ≤ (((Config.calmInterval []).getD 10000000) - 0#64).toNat
  rw [BitVec.sub_zero]
  exact Nat.le_refl _

theorem calmEntry_lapless : topLen (calmEntry laplessState).flume = 1 ∧ topPace (calmEntry laplessState).flume = 1 := by
  have enters : laplessState.mod.power = .active ∧ anyHeld laplessState = false
      ∧ calmTicks laplessState.mod ≤ (laplessState.mod.time - laplessState.mod.idleSince).toNat := ⟨rfl, rfl, laplessState_idle⟩
  have entered : (calmEntry laplessState).flume = (stopFlume laplessState).flume := by rw [calmEntry, if_pos enters]; rfl
  rw [entered, stopFlume_lapless]
  decide

/-- Refutes O54: it speaks of every state, and of a Flume that lists no lap the entry to Calm ends none, so the half in force keeps its length and
its pace. At reset the Flume lists a lap, and `endLap`, the one change to its laps, only adds to them. -/
theorem not_moduleAndPeerSteps : ¬ Obligations.ModuleAndPeerSteps := by
  unfold Obligations.ModuleAndPeerSteps
  intro holds
  obtain ⟨-, calm, -⟩ := holds laplessState laplessState 0 0 0 0 0 0 [] .add 0
  obtain ⟨u, run, -, stopped⟩ := calm rfl rfl laplessState_idle
  have reached : calmEntry laplessState = u := Host.Outcome.next.inj run
  obtain ⟨len, pace⟩ := calmEntry_lapless
  rw [← reached, len, pace] at stopped
  omega

end Sys2Proof.Proofs
end
